-- ==== Sys2Proof/Word.lean ====
section
/-! DEFINITION. The word types of the device (02, 03) and the operand records of the three instruction
forms (R38, R39, R43). -/

namespace Sys2Proof

/-- A 64-bit scalar value (R15). -/
abbrev Word := BitVec 64

/-- One byte of memory. -/
abbrev Byte := BitVec 8

/-- The 512 bytes of a vector register, byte k in bits 8k+7 to 8k (R162). -/
abbrev VData := BitVec 4096

/-- A finite table kept as key and value pairs in one canonical form: keys strictly rising, and no
entry equal to what an unlisted key stands for. -/
abbrev SMap (α : Type) := List (Nat × α)

/-- The fields of a 64-bit or 96-bit instruction other than its opcode (R38, R39). -/
structure Opnd where
  g : BitVec 3
  gn : Bool
  d : BitVec 8
  a : BitVec 8
  b : BitVec 8
  c : BitVec 8
  ta : Bool
  tb : Bool
  tc : Bool
  rlx : Bool
  fn : BitVec 14
  /-- the third word of the 96-bit form, which stands in place of operand b (R39) -/
  lit : Option (BitVec 32)
  deriving DecidableEq, Repr

/-- The fields of a compact instruction other than its opcode (R43). -/
structure Compact where
  g : BitVec 3
  gn : Bool
  d : BitVec 5
  a : BitVec 5
  b : BitVec 5
  fn5 : BitVec 5
  deriving DecidableEq, Repr

end Sys2Proof
end

