-- ==== Sys2Proof/Syntax.lean ====
section
/-! DEFINITION. The instructions and events of the device: one constructor per row of
spec/opcode_table.json. An instruction carries its operand record. An event carries the names of what
moves: a core by its %core [14:0] (device x 512 + core identifier, R9, R32), a slot, an access in flight,
a device. The last constructors are steps of one device's headframe, lamp-room core or command mailbox,
the device that State.dev names. -/

namespace Sys2Proof

/-- Every row of the opcode table. -/
inductive Instr where
  /-- ADD_COMPACT (R44). Compact 64-bit or 32-bit wrapping integer add of two registers x0-x31. -/
  | addCompact (k : Compact)
  /-- SUB_COMPACT (R44). Compact wrapping integer subtract. -/
  | subCompact (k : Compact)
  /-- MUL_COMPACT (R44). Compact multiply, keeping the low W bits. -/
  | mulCompact (k : Compact)
  /-- MULH_COMPACT (R44). Compact multiply, keeping the high W bits, signed or unsigned. -/
  | mulhCompact (k : Compact)
  /-- DIV_COMPACT (R73). Compact integer divide truncating toward zero; a zero divisor takes DIVIDE_ZERO. -/
  | divCompact (k : Compact)
  /-- REM_COMPACT (R73). Compact integer remainder with the sign of the dividend. -/
  | remCompact (k : Compact)
  /-- AND_COMPACT (R44). Compact bitwise AND. -/
  | andCompact (k : Compact)
  /-- OR_COMPACT (R44). Compact bitwise OR. -/
  | orCompact (k : Compact)
  /-- XOR_COMPACT (R44). Compact bitwise XOR. -/
  | xorCompact (k : Compact)
  /-- ANDN_COMPACT (R44). Compact A AND NOT B. -/
  | andnCompact (k : Compact)
  /-- SHL_COMPACT (R44). Compact shift left by B mod W. -/
  | shlCompact (k : Compact)
  /-- SHR_COMPACT (R44). Compact logical shift right. -/
  | shrCompact (k : Compact)
  /-- SRA_COMPACT (R44). Compact arithmetic shift right. -/
  | sraCompact (k : Compact)
  /-- ROT_COMPACT (R44). Compact rotate right. -/
  | rotCompact (k : Compact)
  /-- MIN_COMPACT (R44). Compact signed or unsigned minimum. -/
  | minCompact (k : Compact)
  /-- MAX_COMPACT (R44). Compact signed or unsigned maximum. -/
  | maxCompact (k : Compact)
  /-- CLZ_COMPACT (R44). Compact count of leading zero bits. -/
  | clzCompact (k : Compact)
  /-- CTZ_COMPACT (R44). Compact count of trailing zero bits. -/
  | ctzCompact (k : Compact)
  /-- POPC_COMPACT (R44). Compact population count. -/
  | popcCompact (k : Compact)
  /-- SEL_COMPACT (R44). Compact select of A or B by predicate pk. -/
  | selCompact (k : Compact)
  /-- CMP_COMPACT (R72). Compact integer compare writing a predicate, conditions 0 to 7. -/
  | cmpCompact (k : Compact)
  /-- MOV_COMPACT (R44). Compact register move. -/
  | movCompact (k : Compact)
  /-- ADDI (R45). Compact add of a signed 5-bit immediate. -/
  | addi (k : Compact)
  /-- LD_D_COMPACT (R46). Compact 8-byte default load at x[a] + imm5 × 8. -/
  | ldDCompact (k : Compact)
  /-- ST_D_COMPACT (R46). Compact 8-byte default store of x[d] at x[a] + imm5 × 8. -/
  | stDCompact (k : Compact)
  /-- BR_COMPACT (R47). Compact guarded relative branch with a 10-bit word offset. -/
  | brCompact (k : Compact)
  /-- ADD (R71). Wrapping integer add, 64-bit or 96-bit form. -/
  | add (o : Opnd)
  /-- SUB (R71). Wrapping integer subtract. -/
  | sub (o : Opnd)
  /-- MUL (R71). Integer multiply, low W bits. -/
  | mul (o : Opnd)
  /-- MULH (R71). Integer multiply, high W bits. -/
  | mulh (o : Opnd)
  /-- DIV (R73). Integer divide; a zero divisor takes DIVIDE_ZERO. -/
  | div (o : Opnd)
  /-- REM (R73). Integer remainder. -/
  | rem (o : Opnd)
  /-- AND (R71). Bitwise AND. -/
  | and (o : Opnd)
  /-- OR (R71). Bitwise OR. -/
  | or (o : Opnd)
  /-- XOR (R71). Bitwise XOR. -/
  | xor (o : Opnd)
  /-- ANDN (R71). A AND NOT B. -/
  | andn (o : Opnd)
  /-- SHL (R71). Shift left. -/
  | shl (o : Opnd)
  /-- SHR (R71). Logical shift right. -/
  | shr (o : Opnd)
  /-- SRA (R71). Arithmetic shift right. -/
  | sra (o : Opnd)
  /-- ROT (R71). Rotate right. -/
  | rot (o : Opnd)
  /-- MIN (R71). Minimum. -/
  | min (o : Opnd)
  /-- MAX (R71). Maximum. -/
  | max (o : Opnd)
  /-- CLZ (R71). Count leading zeros. -/
  | clz (o : Opnd)
  /-- CTZ (R71). Count trailing zeros. -/
  | ctz (o : Opnd)
  /-- POPC (R71). Population count. -/
  | popc (o : Opnd)
  /-- BFX (R71). Bit-field extract, sign- or zero-extended. -/
  | bfx (o : Opnd)
  /-- BFI (R71). Bit-field insert. -/
  | bfi (o : Opnd)
  /-- SEL (R71). Select A or B by a predicate, optionally negated. -/
  | sel (o : Opnd)
  /-- CMP (R72). Integer compare writing a predicate. -/
  | cmp (o : Opnd)
  /-- MOV (R71). Move operand b, register, port or literal. -/
  | mov (o : Opnd)
  /-- LEA (R71). A plus B shifted left by s. -/
  | lea (o : Opnd)
  /-- EXT (R71). Sign- or zero-extend the low 8, 16 or 32 bits. -/
  | ext (o : Opnd)
  /-- ADDS (R71). Saturating add. -/
  | adds (o : Opnd)
  /-- MADD (R71). Multiply-add, low W bits. -/
  | madd (o : Opnd)
  /-- FADD (R76). Floating-point add, rounded once. -/
  | fadd (o : Opnd)
  /-- FSUB (R76). Floating-point subtract. -/
  | fsub (o : Opnd)
  /-- FMUL (R76). Floating-point multiply. -/
  | fmul (o : Opnd)
  /-- FMA (R76). Fused multiply-add with optional negations. -/
  | fma (o : Opnd)
  /-- FMIN (R76). Floating-point minimum. -/
  | fmin (o : Opnd)
  /-- FMAX (R76). Floating-point maximum. -/
  | fmax (o : Opnd)
  /-- FCMP (R77). Floating-point compare writing a predicate. -/
  | fcmp (o : Opnd)
  /-- FCVT (R78). Conversion between float formats, integers and OFP8. -/
  | fcvt (o : Opnd)
  /-- FRCP (R80). Truncated reciprocal estimate. -/
  | frcp (o : Opnd)
  /-- FRSQ (R80). Truncated reciprocal square-root estimate. -/
  | frsq (o : Opnd)
  /-- FRCPR (R81). One Newton step on a reciprocal estimate. -/
  | frcpr (o : Opnd)
  /-- FRSQR (R81). One Newton step on a reciprocal square-root estimate. -/
  | frsqr (o : Opnd)
  /-- FSFN (R79). Correctly rounded exp2, log2, sin or tanh. -/
  | fsfn (o : Opnd)
  /-- FCLASS (R77). One-hot class mask of a float. -/
  | fclass (o : Opnd)
  /-- FSGN (R76). Sign copy, negated copy or XOR. -/
  | fsgn (o : Opnd)
  /-- BR (R82). Relative branch, 64-bit or 96-bit form. -/
  | br (o : Opnd)
  /-- JMP (R82). Register-indirect jump to A + B. -/
  | jmp (o : Opnd)
  /-- CALL (R82). Relative call writing a link register. -/
  | call (o : Opnd)
  /-- CALLR (R82). Register-indirect call writing a link register. -/
  | callr (o : Opnd)
  /-- LOOP (R83). Decrement a count and branch back over the loop body. -/
  | loop (o : Opnd)
  /-- EXIT (R84). Drain accesses, destroy claims and complete the task with a status. -/
  | exit (o : Opnd)
  /-- TRAP (R85). Take SOFTWARE with a code. -/
  | trap (o : Opnd)
  /-- NOP (R85). No effect. -/
  | nop (o : Opnd)
  /-- PLOG (R86). Two-input predicate logic by truth table. -/
  | plog (o : Opnd)
  /-- PMOV_READ_WORD (R87). Copy the predicate word into a register. -/
  | pmovReadWord (o : Opnd)
  /-- PMOV_WRITE_WORD (R87). Write the predicate word from a register, flags included. -/
  | pmovWriteWord (o : Opnd)
  /-- PMOV_READ_PRED (R87). Copy one predicate into a register. -/
  | pmovReadPred (o : Opnd)
  /-- PMOV_WRITE_PRED (R87). Set one predicate from a register being non-zero. -/
  | pmovWritePred (o : Opnd)
  /-- EMPTY (R88). Mark a scalar or vector register empty. -/
  | empty (o : Opnd)
  /-- FETEST (R89). Test full/empty or poison state into a predicate without blocking. -/
  | fetest (o : Opnd)
  /-- CTL_READ (R90). Read a control register. -/
  | ctlRead (o : Opnd)
  /-- CTL_WRITE (R90). Write a control register that has no behaviour of its own. -/
  | ctlWrite (o : Opnd)
  /-- TIMER_ARM (R35). A ctl write of %timer arms or disarms the count-down timer. -/
  | timerArm (o : Opnd)
  /-- MODE_WRITE (R34). A ctl write of %mode, PRIVILEGE outside handler mode, H = 0 leaves handler mode. -/
  | modeWrite (o : Opnd)
  /-- VSHAPE_WRITE (R33). A ctl write of %vshape, checked for range. -/
  | vshapeWrite (o : Opnd)
  /-- TCFG_WRITE (R191). A ctl write of a tile configuration register, allowed only in matrix-role slots. -/
  | tcfgWrite (o : Opnd)
  /-- RUNQ_FLUSH (R129). A write of %runqcfg FLUSH empties run-queue priorities. -/
  | runqFlush (o : Opnd)
  /-- SEMCFG_WRITE (R132). A write of %semcfg sets a semaphore count and hands units to waiters. -/
  | semcfgWrite (o : Opnd)
  /-- TRACE_WRITE (R262). A write of %trace enables logging, resetting SEQ and WRAP, or clears WRAP. -/
  | traceWrite (o : Opnd)
  /-- QFLAGS_CLEAR (R155). A W1C write of %qflags clears quadrant flags. -/
  | qflagsClear (o : Opnd)
  /-- QFLAGS_RAISE (R155). A raised flag reaches the quadrant flag register up to 32 cycles later. -/
  | qflagsRaise (dev idx : Nat)
  /-- ERET (R91). Return from handler mode to %tepc. -/
  | eret (o : Opnd)
  /-- FENCE (R105). Full, acquire or release fence at a scope. -/
  | fence (o : Opnd)
  /-- BEAT (R92). Restart the watchdog interval of a PERSISTENT task. -/
  | beat (o : Opnd)
  /-- LD (R97). Load of 1 to 8 bytes, default or relaxed, with optional acquire. -/
  | ld (o : Opnd)
  /-- ST (R97). Store of 1 to 8 bytes, default or relaxed, with optional release. -/
  | st (o : Opnd)
  /-- AMO (R97). Atomic read-modify-write returning the old value. -/
  | amo (o : Opnd)
  /-- CAS (R97). Compare and swap returning the old value. -/
  | cas (o : Opnd)
  /-- AMON (R97). Atomic read-modify-write returning nothing. -/
  | amon (o : Opnd)
  /-- CLAIM (R107). Mint a one-shot claim name bound to a register made empty-pending. -/
  | claim (o : Opnd)
  /-- DLV (R108). Deliver a value to a claim name anywhere in the panel. -/
  | dlv (o : Opnd)
  /-- CDROP (R109). Withdraw an unused own claim. -/
  | cdrop (o : Opnd)
  /-- STT (R351). Store and mint a dependency token for it. -/
  | stt (o : Opnd)
  /-- STW (R352). Store held until the carried tokens' stores have landed. -/
  | stw (o : Opnd)
  /-- TOKQ (R353). Query whether a token's store has landed. -/
  | tokq (o : Opnd)
  /-- GO (R213). Move the running task toward the owner of an address. -/
  | go (o : Opnd)
  /-- SPAWN (R215). Enqueue a task of an INSTANCES node of the own graph. -/
  | spawn (o : Opnd)
  /-- LVGET (R311). Read an item of the running block's level record. -/
  | lvget (o : Opnd)
  /-- LVCOMMIT (R312). Commit a block's step, advancing its level and flipping its buffer. -/
  | lvcommit (o : Opnd)
  /-- WMSG (R137). Wait for and pop the oldest message. -/
  | wmsg (o : Opnd)
  /-- WMSG_COUNT (R137). Wait for a message and return the queued count. -/
  | wmsgCount (o : Opnd)
  /-- SEND (R138). Send a user message to a slot's task. -/
  | send (o : Opnd)
  /-- SEND_AM (R138). Send an active message to a core's handler slot. -/
  | sendAm (o : Opnd)
  /-- SEM_WAIT (R130). Take a semaphore unit or join its waiter list. -/
  | semWait (o : Opnd)
  /-- SEM_POST (R130). Hand a unit to the oldest waiter or raise the count. -/
  | semPost (o : Opnd)
  /-- SEM_TRY (R130). Take a unit if available, writing success to a predicate. -/
  | semTry (o : Opnd)
  /-- KICK (R140). Write a transfer notice into a core's kick queue. -/
  | kick (o : Opnd)
  /-- HCOPY (R256). Read a job card and start its job. -/
  | hcopy (o : Opnd)
  /-- HPULL (R257). Pop a kick notice and start a raw copy job for it. -/
  | hpull (o : Opnd)
  /-- HSUB (R260). Subscribe the core to a multicast tag. -/
  | hsub (o : Opnd)
  /-- HSUB_LEAVE (R260). Remove a multicast subscription. -/
  | hsubLeave (o : Opnd)
  /-- HSTREAM (R258). Bind a stream register to a COPY job for one slot. -/
  | hstream (o : Opnd)
  /-- VADD (R172). Element-wise vector add. -/
  | vadd (o : Opnd)
  /-- VSUB (R172). Element-wise vector subtract. -/
  | vsub (o : Opnd)
  /-- VMUL (R172). Element-wise vector multiply. -/
  | vmul (o : Opnd)
  /-- VFMA (R172). Element-wise fused multiply-add. -/
  | vfma (o : Opnd)
  /-- VMIN (R172). Element-wise minimum. -/
  | vmin (o : Opnd)
  /-- VMAX (R172). Element-wise maximum. -/
  | vmax (o : Opnd)
  /-- VAND (R172). Element-wise AND. -/
  | vand (o : Opnd)
  /-- VOR (R172). Element-wise OR. -/
  | vor (o : Opnd)
  /-- VXOR (R172). Element-wise XOR. -/
  | vxor (o : Opnd)
  /-- VSHL (R172). Element-wise shift left. -/
  | vshl (o : Opnd)
  /-- VSHR (R172). Element-wise shift right. -/
  | vshr (o : Opnd)
  /-- VCMP (R173). Element-wise compare writing masks. -/
  | vcmp (o : Opnd)
  /-- VSEL (R172). Element-wise select by mask. -/
  | vsel (o : Opnd)
  /-- VCVT (R174). Element-wise type conversion. -/
  | vcvt (o : Opnd)
  /-- VSFN (R175). Element-wise special function or estimate. -/
  | vsfn (o : Opnd)
  /-- VBCAST (R176). Broadcast a scalar to the active tile. -/
  | vbcast (o : Opnd)
  /-- VBCAST_ROW (R176). Broadcast one row of a register to the active tile. -/
  | vbcastRow (o : Opnd)
  /-- VLD (R184). Strided vector load, optionally format-decoding. -/
  | vld (o : Opnd)
  /-- VST (R184). Strided vector store. -/
  | vst (o : Opnd)
  /-- VGATHER (R184). Indexed vector gather. -/
  | vgather (o : Opnd)
  /-- VSCATTER (R184). Indexed vector scatter. -/
  | vscatter (o : Opnd)
  /-- VRED (R181). Reduction over the tile, rows or columns in a fixed tree order. -/
  | vred (o : Opnd)
  /-- VSCAN (R182). Inclusive or exclusive prefix along each row. -/
  | vscan (o : Opnd)
  /-- VPERM (R177). Permute elements by an index register. -/
  | vperm (o : Opnd)
  /-- VTRN (R178). Transpose the active tile. -/
  | vtrn (o : Opnd)
  /-- VDIST (R187). Dot, L2, L1 or Hamming distance of document rows to a query row. -/
  | vdist (o : Opnd)
  /-- VTOPK (R188). Keep the best k scores with identifiers. -/
  | vtopk (o : Opnd)
  /-- VQUANT (R189). Quantise blocks of 64 elements to QC4. -/
  | vquant (o : Opnd)
  /-- VEXT (R179). Extract one element to a scalar. -/
  | vext (o : Opnd)
  /-- VINS (R179). Insert a scalar into one element. -/
  | vins (o : Opnd)
  /-- VMOV (R180). Copy a whole vector register. -/
  | vmov (o : Opnd)
  /-- TLD (R200). Load a tile, decoding the page format. -/
  | tld (o : Opnd)
  /-- TLD_ACC (R200). Load an accumulator's A80 cells. -/
  | tldAcc (o : Opnd)
  /-- TST (R201). Store a tile, encoding into the page format. -/
  | tst (o : Opnd)
  /-- TST_ACC (R201). Store an accumulator's A80 cells. -/
  | tstAcc (o : Opnd)
  /-- TZERO (R202). Zero a tile, or zero and unset an accumulator. -/
  | tzero (o : Opnd)
  /-- TANCH (R203). Set an accumulator's anchor, realigning its cells. -/
  | tanch (o : Opnd)
  /-- TANCH_RD (R203). Read an accumulator's state word. -/
  | tanchRd (o : Opnd)
  /-- TANCH_CLR (R203). Clear an accumulator's OVF. -/
  | tanchClr (o : Opnd)
  /-- TMMA (R204). Exact tile matrix multiply-accumulate into A80. -/
  | tmma (o : Opnd)
  /-- TCVT (R205). Convert accumulator cells to a vector register. -/
  | tcvt (o : Opnd)
  /-- TCVT_TILE (R205). Convert an accumulator into an X19 tile. -/
  | tcvtTile (o : Opnd)
  /-- TVEC (R206). Move tile cells to a vector register. -/
  | tvec (o : Opnd)
  /-- TVEC_IN (R206). Move vector elements into tile cells. -/
  | tvecIn (o : Opnd)
  /-- SLRES (R235). Open a sluice chain on an accumulator. -/
  | slres (o : Opnd)
  /-- SLJOIN (R236). Obtain a join handle for a chain. -/
  | sljoin (o : Opnd)
  /-- SLSEND (R237). Contribute accumulator rows to a chain. -/
  | slsend (o : Opnd)
  /-- SLWAIT (R239). Wait until an own chain is DONE. -/
  | slwait (o : Opnd)
  /-- SLCLOSE (R240). Free an own chain entry. -/
  | slclose (o : Opnd)
  /-- GSYNC (R231). Four-party gang barrier. -/
  | gsync (o : Opnd)
  /-- TLBI (R284). Remove cached translations of the own address space. -/
  | tlbi (o : Opnd)
  /-- SYSC_GQUERY (R285). Read a scratchpad granule's owner state. -/
  | syscGquery (o : Opnd)
  /-- SYSC_GFREE (R285). Zero and release an owned scratchpad granule. -/
  | syscGfree (o : Opnd)
  /-- SYSC_ELOG (R285). Read a dword of an own-space error-log record. -/
  | syscElog (o : Opnd)
  /-- ROUND_START (R25). The issue point fixes the slots in rotation for a new round. -/
  | roundStart (core : Nat)
  /-- TIMER_EXPIRY (R35). The slot timer reaches 0 and TIMER is taken at the next turn. -/
  | timerExpiry (core slot : Nat)
  /-- SPILL (R117). The spill engine saves a slot's state to its save area and frees it. -/
  | spill (core slot : Nat)
  /-- RESTORE (R119). The spill engine restores a task from its save area. -/
  | restore (dev task : Nat)
  /-- ARRIVE (R101). A channel moves an access to the tail of its home port's FIFO. -/
  | arrive (id : Nat)
  /-- SERVE (R101). A home port performs the access at the head of its FIFO. -/
  | serve (id : Nat)
  /-- COMPLETE (R101). A reply reaches its slot, writing the destination full. -/
  | complete (id : Nat)
  /-- CLAIM_DELIVERY (R108). A claim table serves a delivery, filling the bound register or refusing. -/
  | claimDelivery (id : Nat)
  /-- CLAIM_EXPIRY (R110). A claim's deadline passes and its register is filled poisoned. -/
  | claimExpiry (core entry : Nat)
  /-- MESSAGE_ACCEPT (R138). A message port appends a send to the task's queue or refuses it. -/
  | messageAccept (id : Nat)
  /-- KICK_ACCEPT (R140). A kick queue accepts or refuses a transfer notice. -/
  | kickAccept (id : Nat)
  /-- ACTIVE_MESSAGE_RUN (R125). The handler slot runs a user handler for an active message. -/
  | activeMessageRun (core : Nat)
  /-- HANDLER_ABORT (R125). A user handler exceeding 256 instructions is aborted. -/
  | handlerAbort (core : Nat)
  /-- RUNQ_DEFERRED_PLACE (R50). A long-latency runq push waits until its priority has room and is placed. -/
  | runqDeferredPlace (core : Nat)
  /-- VECTOR_COMPLETE (R167). A vector instruction's result is written and flags raised. -/
  | vectorComplete (core id : Nat)
  /-- MATRIX_START (R194). A matrix-unit instruction moves to the running place and reads its operands. -/
  | matrixStart (core : Nat)
  /-- MATRIX_COMPLETE (R194). A matrix-unit instruction writes its result. -/
  | matrixComplete (core : Nat)
  /-- PAIRED_EFFECT_COMPARE (R218). A trailing slot's effect is compared with the store comparator's oldest entry. -/
  | pairedEffectCompare (core pair : Nat)
  /-- JOB_GO (R209). An engine begins a job once no earlier conflicting job remains. -/
  | jobGo (core job : Nat)
  /-- JOB_COMPLETE (R209). A job writes STATUS, leaves the sequencer, posts its semaphore and notifies. -/
  | jobComplete (core job : Nat)
  /-- REQUEST_RESEND (R248). A refused request is resent after its back-off hint. -/
  | requestResend (id : Nat)
  /-- ESCAPE_REROUTE (R246). A request waiting 1,024 cycles moves to the escape network. -/
  | escapeReroute (id : Nat)
  /-- STREAM_DELIVER (R258). An engine delivers the next element into a bound stream. -/
  | streamDeliver (core sm : Nat)
  /-- SLUICE_JOIN_SERVE (R236). A chain table answers, refuses or parks a join. -/
  | sluiceJoinServe (id : Nat)
  /-- SLUICE_CONTRIBUTION (R238). A chain table adds a contribution's realigned rows exactly. -/
  | sluiceContribution (id : Nat)
  /-- MCAST_ROOT_FORWARD (R261). A tag root forwards a multicast packet down its subscription tree. -/
  | mcastRootForward (id : Nat)
  /-- MCAST_DELIVER (R261). A member writes a multicast packet into its scratchpad landing area. -/
  | mcastDeliver (core tag : Nat)
  /-- WALK_COMPLETE (R281). A page walk ends, filling the caches or giving a fault. -/
  | walkComplete (core space va : Nat)
  /-- TRIGGER_WRITE (R295). A host write of a trigger register enters a word into the trigger FIFO or discards it. -/
  | triggerWrite (dev req : Nat)
  /-- TASK_PLACE (R300). The headframe seats a waiting task on a core within its radius. -/
  | taskPlace (dev task : Nat)
  /-- TASK_PREEMPT_PRIORITY (R301). A priority-3 task waiting 65,536 cycles pre-empts a lower task. -/
  | taskPreemptPriority (dev task : Nat)
  /-- TASK_MIGRATE_SEAT (R214). A task moved by go is seated on a core within the radius. -/
  | taskMigrateSeat (dev task : Nat)
  /-- NODE_COMPLETE (R299). A node completes and performs its release, making dependants eligible. -/
  | nodeComplete (dev graph launch node : Nat)
  /-- LAUNCH_COMPLETE (R299). After all writes are acknowledged, the completion entry is written. -/
  | launchComplete (dev graph launch : Nat)
  /-- WATCHDOG_FIRE (R304). A beat interval or run budget expires and the task is pre-empted as HUNG. -/
  | watchdogFire (core slot : Nat)
  /-- NODE_FREEZE (R316). A LEVEL node with a frozen block and nothing running becomes FROZEN and writes its front. -/
  | nodeFreeze (dev graph node : Nat)
  /-- TOKEN_NOTICE (R354). A token table performs a landed or failed notice. -/
  | tokenNotice (id : Nat)
  /-- TOKEN_DEADLINE (R354). An INFLIGHT token reaches its deadline and becomes EXPIRED. -/
  | tokenDeadline (dev idx : Nat)
  /-- TOKEN_ENTRY_FREE (R354). An EXPIRED token entry becomes FREE 2^24 cycles later. -/
  | tokenEntryFree (dev idx : Nat)
  /-- HOLD_ENTER (R352). An arriving stw store enters its die's hold queue and queries its tokens, or is refused. -/
  | holdEnter (id : Nat)
  /-- HOLD_QUERY_ANSWER (R354). A token table answers a hold query. -/
  | holdQueryAnswer (id : Nat)
  /-- HOLD_RELEASE (R356). A held store whose tokens all landed moves to its home FIFO, or is discarded. -/
  | holdRelease (id : Nat)
  /-- ESCAPE_CHANNEL_MOVE (R347). A packet blocked 2 µs at a switch moves its flow to the escape channel. -/
  | escapeChannelMove (id : Nat)
  /-- FLIT_RESEND (R271). A flit failing its CRC is resent from the replay buffer. -/
  | flitResend (dev link : Nat)
  /-- LINK_RETIRE (R271). Eight failed resends or a second lane loss retires a die-to-die link and reroutes. -/
  | linkRetire (dev link : Nat)
  /-- PORT_RETIRE (R341). A Casris port is retired, taking its plane out of use. -/
  | portRetire (dev port : Nat)
  /-- LANE_CALIBRATION_ROTATE (R270). Calibration moves to the next lane of a group after its beat count. -/
  | laneCalibrationRotate (dev link group : Nat)
  /-- LANE_FAILURE (R270). A lane below threshold leaves service and rotation stops in its group. -/
  | laneFailure (dev link group lane : Nat)
  /-- SRAM_SCRUB (R272). The background scrubber reads and corrects stack words. -/
  | sramScrub (core off : Nat)
  /-- SRAM_UNCORRECTABLE (R272). An uncorrectable scratchpad word is poisoned and logged. -/
  | sramUncorrectable (core off : Nat)
  /-- GDDR7_MULTIBIT_ERROR (R274). A multi-bit GDDR7 error poisons its unit and writes a record. -/
  | gddr7MultibitError (dev pa : Nat)
  /-- REGFILE_UNCORRECTABLE (R222). An uncorrectable register-file error poisons an entry or kills the reader. -/
  | regfileUncorrectable (core file idx : Nat)
  /-- HOST_LOAD_TIMEOUT (R329). A host or peer load with no completion in 50 ms fills poisoned. -/
  | hostLoadTimeout (id : Nat)
  /-- HOST_BAR2_WRITE (R328). A host or peer posted write through BAR 2 is performed in requester order. -/
  | hostBar2Write (dev req : Nat)
  /-- HOST_BAR2_READ (R327). A host or peer read through BAR 2 is served after earlier writes. -/
  | hostBar2Read (dev req off size : Nat)
  /-- BAR0_REGISTER_WRITE (R325). A host write to a BAR 0 register with no row of its own. -/
  | bar0RegisterWrite (dev req : Nat)
  /-- CMDDB_OVERRUN (R332). A doorbell written while BUSY is ignored and sets OVERRUN. -/
  | cmddbOverrun (dev req : Nat)
  /-- PLIMIT_WRITE (R338). A write of the power limit, clamped to 600 to 1,800 W. -/
  | plimitWrite (dev req : Nat)
  /-- NOT_AN_INSTRUCTION (R31). A slot's turn issues a word with length 0b10, an unassigned op or a compact op6 of 0x1C to 0x3F, and takes ILLEGAL_LENGTH or ILLEGAL whatever the guard. -/
  | notAnInstruction (w0 : BitVec 32)
  /-- FETCH_FAULT (R37). A turn whose instruction fetch fails translation or permission takes TRANSLATION or PROTECTION with subcode 0x01. -/
  | fetchFault (core slot : Nat)
  /-- JOB_ACCESS (R209). An engine puts one element access of a running job into a channel, or ends the job on a translation, protection, format or footprint error. -/
  | jobAccess (core job elem : Nat)
  /-- TLBI_REMOVAL_DONE (R284). The removal of the named translations from every buffer and cache of the device finishes, and the waiting tlbi completes. -/
  | tlbiRemovalDone (core slot : Nat)
  /-- HEARTBEAT_RECEIVE (R357). A heartbeat flit from a device arrives on some plane and restarts that device's 16 ms silence count. -/
  | heartbeatReceive (dev plane : Nat)
  /-- LAUNCH (R296). The headframe takes a trigger word, patches launch records and starts a launch. -/
  | launch
  /-- HEARTBEAT_SEND (R357). The lamp-room core sends a heartbeat flit on every port each 1 ms. -/
  | heartbeatSend
  /-- DEVICE_FENCE (R357). A device is fenced after a fatal fault or 16 ms without heartbeat. -/
  | deviceFence
  /-- EGRESS_POST (R329). The egress queue sends its head write to PCI Express. -/
  | egressPost
  /-- POWER_TICK (R338). Each 1 ms the lamp-room core compares power and steps the clock. -/
  | powerTick
  /-- RESET (R337). A fundamental reset starts bring-up through its stages to READY. -/
  | reset
  /-- IDENTIFY (R334). Return versions, position, serial number and identity key. -/
  | identify
  /-- ATTEST (R336). Return a signed attestation report over a nonce. -/
  | attest
  /-- LOAD_FIRMWARE (R335). Verify and store an extension firmware image. -/
  | loadFirmware
  /-- MAP (R282). Write leaf page-table entries in immediate mode. -/
  | map
  /-- MAP_DEFERRED (R282). Write leaf page-table entries without invalidation. -/
  | mapDeferred
  /-- MAP_APERTURE (R327). Bind a BAR 2 aperture to an address of a space. -/
  | mapAperture
  /-- KEY_SET (R286). Install an address space's AES-256-XTS key pair. -/
  | keySet
  /-- GRAPH_LOAD (R293). Check and make a graph image resident. -/
  | graphLoad
  /-- GRAPH_UNLOAD (R290). Remove a resident graph with no launch in progress. -/
  | graphUnload
  /-- NODE_RESUME_CONTINUE (R317). Restore parked tasks of a node and resume it. -/
  | nodeResumeContinue
  /-- NODE_RESUME_RERUN (R317). Discard parked or lost tasks and restart them from their launch records. -/
  | nodeResumeRerun
  /-- RESET_SCOPE (R334). Discard the tasks of a task, graph or device scope. -/
  | resetScope
  /-- ERROR_LOG_READ (R289). Return error-log counters and records. -/
  | errorLogRead
  /-- WATCH_CONFIG (R330). Configure or disable a watch word. -/
  | watchConfig
  /-- LINK_STATUS (R334). Return lane-group status of a die link or Casris port. -/
  | linkStatus
  /-- CHECKPOINT_QUIESCE (R358). Stop a graph, spill its tasks and write a checkpoint descriptor. -/
  | checkpointQuiesce
  /-- CHECKPOINT_RELEASE (R358). Restore a quiesced graph's tasks in place and resume scheduling. -/
  | checkpointRelease
  /-- CHECKPOINT_ADOPT (R358). Take over a checkpointed graph on another device and queue its restores. -/
  | checkpointAdopt
  deriving DecidableEq, Repr

end Sys2Proof
end

