-- ==== Sys2Proof/Decode.lean ====
section
/-! DEFINITION. From words to instructions: the three formats (R36 to R48), the operand kinds (R49), the
opcode map (R52 to R54) with what each opcode's fn admits, and the checks of ILLEGAL subcodes 0x01 to
0x04 (R56). After it, the encoder. -/

namespace Sys2Proof

/-- What an operand field carries (R49), and so which specifiers it admits. -/
inductive Kind where
  /-- unused: must be zero (R40) -/
  | none
  /-- a scalar register or port, read -/
  | src
  /-- a scalar register, read -/
  | sreg
  /-- a scalar register or zero, read -/
  | sregz
  /-- a scalar register or port other than msg, written -/
  | dst
  /-- a scalar register, written -/
  | dreg
  /-- a scalar register or zero, written -/
  | dregz
  /-- a scalar register, read then written (`cas`) -/
  | rwreg
  /-- a scalar register or port in field d, read -/
  | dsrc
  /-- a scalar register in field d, read (`stw`) -/
  | dsrcreg
  /-- the register a claim binds: neither read nor given a policy -/
  | creg
  /-- a register or port whose state is tested -/
  | tst
  /-- a vector register whose state is tested -/
  | vtst
  | vsrc
  | vdst
  /-- a vector register read and written -/
  | vrw
  /-- a tile read by the matrix unit -/
  | tsrc
  /-- a tile read by an instruction that is not of the unit (`tst`) -/
  | tmem
  | tdst
  /-- a tile or accumulator whose old cells stay -/
  | trw
  | asrc
  | amem
  | adst
  | arw
  /-- the accumulator that a chain pins -/
  | apin
  | psrc
  | pdst
  /-- a stream, 136 to 139 (`hstream`) -/
  | strm
  deriving DecidableEq, Repr

/-- How a literal is read (R41). -/
inductive LitKind where
  | none
  | int
  | flt
  | vec
  | vidx
  | elem
  | f32
  | off
  deriving DecidableEq, Repr

/-- Where an opcode may execute (R52, R34, R91, R125, R191). -/
inductive Role where
  | any
  | matrix
  | haulage
  | gang
  | level
  | handlerMode
  /-- not in a user handler of the handler slot (R125) -/
  | task
  deriving DecidableEq, Repr

/-- How an instruction's operands name the home of its access, where a user handler may name a remote one only in a
relaxed access (R125): not at all, the address A, the address A + B, the address A with a displacement in field b, the
address A with a literal index, a core in A, or a home that is remote whatever the operands (R95, R184, R236, R237, R353). -/
inductive Far where
  | none
  | addr
  | sum
  | disp
  | index
  | name
  | always
  deriving DecidableEq, Repr

/-- How many of the fields a, b name the home. -/
def Far.fields : Far → Nat
  | .none | .always => 0
  | .sum => 2
  | .addr | .disp | .index | .name => 1

/-- The operand fields of an opcode under one fn value. -/
structure Desc where
  d : Kind := .none
  a : Kind := .none
  b : Kind := .none
  c : Kind := .none
  lit : LitKind := .none
  rlx : Bool := false
  /-- the policy bits are ignored (R137) -/
  anyPol : Bool := false
  role : Role := .any
  far : Far := .none
  deriving DecidableEq, Repr

/-- A row of the opcode map: operand fields and constructor. -/
structure Row where
  desc : Desc
  build : Opnd → Instr

/-! ### What fn admits -/

/-- fn[lo+len-1:lo]. -/
def fld (fn lo len : Nat) : Nat := (fn >>> lo) % 2 ^ len

/-- fn[n]. -/
def bitN (fn n : Nat) : Bool := fld fn n 1 == 1

/-- Only bits of the mask may be set (R54). -/
def only (fn mask : Nat) : Bool := decide (fn ||| mask = mask)

/-- A rounding field at `lo` with a defined code (R54). -/
def rnd (fn lo : Nat) : Bool := decide (fld fn lo 3 ≤ 4)

/-- The len of bfx and bfi runs from 1 to W (R71). -/
def lenOk (fn : Nat) : Bool := decide (1 ≤ fld fn 6 8) && decide (fld fn 6 8 ≤ if bitN fn 0 then 32 else 64)

/-- The scope and fn[13] are zero without fn[3] (R96). -/
def scopeOk (fn : Nat) : Bool := bitN fn 3 || (decide (fld fn 4 3 = 0) && !bitN fn 13)

/-- The atomic operation suits the size (R96). -/
def amoOk (fn : Nat) : Bool :=
  let op := fld fn 7 4
  decide (op ≤ 8) || (decide (op = 9) && decide (fld fn 0 2 = 2)) || (decide (op = 10) && decide (fld fn 0 2 = 3))

/-- The element type is a float type (R54). -/
def vFloat (fn : Nat) : Bool := bitN fn 2

/-- Control registers that exist (R90). -/
def ctlNum (n : Nat) : Bool :=
  decide (n ≤ 0x0E) || (decide (0x100 ≤ n) && decide (n ≤ 0x113)) || decide (n = 0x300)

/-- A `ctl` read of a listed register (R90). -/
def ctlReadOk (fn : Nat) : Bool := decide (fn < 0x1000) && ctlNum fn

/-- A `ctl` write of a slot register that is not read-only and has no step of its own (R32, R34). -/
def ctlWriteOk (fn : Nat) : Bool :=
  [0x1000, 0x1001, 0x1002, 0x1003, 0x1004, 0x1005, 0x100B, 0x100E].contains fn

/-- The pairings of `vcvt` (R174). -/
def vcvtOk (fn : Nat) : Bool :=
  let tf := vFloat fn
  let sf := decide (4 ≤ fld fn 6 3)
  let to8 := fld fn 10 2
  let from8 := fld fn 12 2
  (if tf || sf then rnd fn 3 else decide (fld fn 3 3 = 0))
    && (!bitN fn 9 || (!tf && !sf && decide (fld fn 0 3 < fld fn 6 3) && decide (to8 = 0) && decide (from8 = 0)))
    && (if to8 ≠ 0 then decide (to8 ≤ 2) && decide (from8 = 0) && decide (fld fn 0 3 = 0) && sf
        else if from8 ≠ 0 then decide (from8 ≤ 2) && decide (fld fn 6 3 = 0) && tf else true)

/-- The functions of `vsfn` and their types (R175). -/
def vsfnOk (fn : Nat) : Bool :=
  let f := fld fn 6 3
  vFloat fn && (if f ≤ 3 then rnd fn 3 && decide (fld fn 0 3 ≠ 7) else decide (f ≤ 5) && decide (fld fn 3 3 = 0))

/-- The operations of `vred` and `vscan` and their types (R181); only a float `.add` rounds. -/
def redOk (fn : Nat) : Bool :=
  let op := fld fn 6 4
  decide (op ≤ 7) && (decide (op < 6) || !vFloat fn)
    && (if vFloat fn && op == 0 then rnd fn 3 else decide (fld fn 3 3 = 0))

/-- The metrics of `vdist` (R187). -/
def distOk (fn : Nat) : Bool :=
  let m := fld fn 6 4
  (if vFloat fn then decide (m ≤ 2) && rnd fn 3 else decide (m ≤ 3) && decide (fld fn 3 3 = 0))

/-- The types and k of `vtopk` (R188). -/
def topkOk (fn : Nat) : Bool :=
  let t := fld fn 0 3
  let k := fld fn 10 4 + 1
  ([2, 6].contains t && decide (k ≤ 16)) || ([3, 7].contains t && decide (k ≤ 8))

/-! ### The opcode map -/

/-- The rows of the integer (R71) opcodes. -/
def rowsInt (op fn : Nat) : Option Row :=
  match op with
  | 0x00 => if only fn 0x1 then some ⟨{ d := .dst, a := .src, b := .src, lit := .int }, .add⟩ else none
  | 0x01 => if only fn 0x1 then some ⟨{ d := .dst, a := .src, b := .src, lit := .int }, .sub⟩ else none
  | 0x02 => if only fn 0x1 then some ⟨{ d := .dst, a := .src, b := .src, lit := .int }, .mul⟩ else none
  | 0x03 => if only fn 0x3 then some ⟨{ d := .dst, a := .src, b := .src, lit := .int }, .mulh⟩ else none
  | 0x04 => if only fn 0x3 then some ⟨{ d := .dst, a := .src, b := .src, lit := .int }, .div⟩ else none
  | 0x05 => if only fn 0x3 then some ⟨{ d := .dst, a := .src, b := .src, lit := .int }, .rem⟩ else none
  | 0x06 => if only fn 0x1 then some ⟨{ d := .dst, a := .src, b := .src, lit := .int }, .and⟩ else none
  | 0x07 => if only fn 0x1 then some ⟨{ d := .dst, a := .src, b := .src, lit := .int }, .or⟩ else none
  | 0x08 => if only fn 0x1 then some ⟨{ d := .dst, a := .src, b := .src, lit := .int }, .xor⟩ else none
  | 0x09 => if only fn 0x1 then some ⟨{ d := .dst, a := .src, b := .src, lit := .int }, .andn⟩ else none
  | 0x0A => if only fn 0x1 then some ⟨{ d := .dst, a := .src, b := .src, lit := .int }, .shl⟩ else none
  | 0x0B => if only fn 0x1 then some ⟨{ d := .dst, a := .src, b := .src, lit := .int }, .shr⟩ else none
  | 0x0C => if only fn 0x1 then some ⟨{ d := .dst, a := .src, b := .src, lit := .int }, .sra⟩ else none
  | 0x0D => if only fn 0x1 then some ⟨{ d := .dst, a := .src, b := .src, lit := .int }, .rot⟩ else none
  | 0x0E => if only fn 0x3 then some ⟨{ d := .dst, a := .src, b := .src, lit := .int }, .min⟩ else none
  | 0x0F => if only fn 0x3 then some ⟨{ d := .dst, a := .src, b := .src, lit := .int }, .max⟩ else none
  | 0x10 => if only fn 0x1 then some ⟨{ d := .dst, a := .src }, .clz⟩ else none
  | 0x11 => if only fn 0x1 then some ⟨{ d := .dst, a := .src }, .ctz⟩ else none
  | 0x12 => if only fn 0x1 then some ⟨{ d := .dst, a := .src }, .popc⟩ else none
  | 0x13 => if only fn 0x3FC3 && lenOk fn then some ⟨{ d := .dst, a := .src, b := .src, lit := .int }, .bfx⟩ else none
  | 0x14 => if only fn 0x3FC1 && lenOk fn then some ⟨{ d := .dst, a := .src, b := .src, c := .src, lit := .int }, .bfi⟩ else none
  | 0x15 => if only fn 0x3C then some ⟨{ d := .dst, a := .src, b := .src, lit := .int }, .sel⟩ else none
  | 0x16 => if only fn 0x1F then some ⟨{ d := .pdst, a := .src, b := .src, lit := .int }, .cmp⟩ else none
  | 0x17 => if only fn 0x1 then some ⟨{ d := .dst, b := .src, lit := .int }, .mov⟩ else none
  | 0x18 => if only fn 0x1C0 then some ⟨{ d := .dst, a := .src, b := .src, lit := .int }, .lea⟩ else none
  | 0x19 => if only fn 0xE && decide (fld fn 2 2 ≤ 2) then some ⟨{ d := .dst, a := .src }, .ext⟩ else none
  | 0x1A => if only fn 0x3 then some ⟨{ d := .dst, a := .src, b := .src, lit := .int }, .adds⟩ else none
  | 0x1B => if only fn 0x1 then some ⟨{ d := .dst, a := .src, b := .src, c := .src, lit := .int }, .madd⟩ else none
  | _ => none

/-- The rows of the float (R76) opcodes. -/
def rowsFlt (op fn : Nat) : Option Row :=
  match op with
  | 0x20 => if only fn 0x1F && rnd fn 2 then some ⟨{ d := .dst, a := .src, b := .src, lit := .flt }, .fadd⟩ else none
  | 0x21 => if only fn 0x1F && rnd fn 2 then some ⟨{ d := .dst, a := .src, b := .src, lit := .flt }, .fsub⟩ else none
  | 0x22 => if only fn 0x1F && rnd fn 2 then some ⟨{ d := .dst, a := .src, b := .src, lit := .flt }, .fmul⟩ else none
  | 0x23 => if only fn 0x7F && rnd fn 2 then some ⟨{ d := .dst, a := .src, b := .src, c := .src, lit := .flt }, .fma⟩ else none
  | 0x24 => if only fn 0x3 then some ⟨{ d := .dst, a := .src, b := .src, lit := .flt }, .fmin⟩ else none
  | 0x25 => if only fn 0x3 then some ⟨{ d := .dst, a := .src, b := .src, lit := .flt }, .fmax⟩ else none
  | 0x26 => if only fn 0x383 then some ⟨{ d := .pdst, a := .src, b := .src, lit := .flt }, .fcmp⟩ else none
  | 0x27 => if only fn 0x79F && rnd fn 2 then some ⟨{ d := .dst, a := .src }, .fcvt⟩ else none
  | 0x28 => if only fn 0x3 then some ⟨{ d := .dst, a := .src }, .frcp⟩ else none
  | 0x29 => if only fn 0x3 then some ⟨{ d := .dst, a := .src }, .frsq⟩ else none
  | 0x2A => if only fn 0x1F && rnd fn 2 then some ⟨{ d := .dst, a := .src, b := .src, lit := .flt }, .frcpr⟩ else none
  | 0x2B => if only fn 0x1F && rnd fn 2 then some ⟨{ d := .dst, a := .src, b := .src, lit := .flt }, .frsqr⟩ else none
  | 0x2C => if only fn 0x19F && rnd fn 2 && decide (fld fn 0 2 ≠ 0) then some ⟨{ d := .dst, a := .src }, .fsfn⟩ else none
  | 0x2D => if only fn 0x3 then some ⟨{ d := .dst, a := .src }, .fclass⟩ else none
  | 0x2E => if only fn 0x183 && decide (fld fn 7 2 ≤ 2) then some ⟨{ d := .dst, a := .src, b := .src, lit := .flt }, .fsgn⟩ else none
  | _ => none

/-- The rows of the control, predicate and system (R82 to R92, R105) opcodes. -/
def rowsCtl (op fn : Nat) : Option Row :=
  match op with
  | 0x30 => some ⟨{ lit := .off }, .br⟩
  | 0x31 => if only fn 0 then some ⟨{ a := .src, b := .src, lit := .int }, .jmp⟩ else none
  | 0x32 => some ⟨{ d := .dregz, lit := .off }, .call⟩
  | 0x33 => if only fn 0 then some ⟨{ d := .dregz, a := .src, b := .src, lit := .int }, .callr⟩ else none
  | 0x34 => if decide (fn ≠ 0) then some ⟨{ d := .dreg, a := .src }, .loop⟩ else none
  | 0x35 => if only fn 0 then some ⟨{ a := .src }, .exit⟩ else none
  | 0x36 => some ⟨{  }, .trap⟩
  | 0x37 => if only fn 0 then some ⟨{  }, .nop⟩ else none
  | 0x38 => if only fn 0xF then some ⟨{ d := .pdst, a := .psrc, b := .psrc }, .plog⟩ else none
  | 0x39 => if decide (fn = 0) then some ⟨{ d := .dst }, .pmovReadWord⟩
    else if decide (fn = 1) then some ⟨{ a := .src }, .pmovWriteWord⟩
    else if decide (fn = 2) then some ⟨{ d := .dst, a := .psrc }, .pmovReadPred⟩
    else if decide (fn = 3) then some ⟨{ d := .pdst, a := .src }, .pmovWritePred⟩ else none
  | 0x3A => if decide (fn = 0) then some ⟨{ d := .dreg }, .empty⟩
    else if decide (fn = 1) then some ⟨{ d := .vdst }, .empty⟩ else none
  | 0x3B => if decide (fn = 0) then some ⟨{ d := .pdst, a := .tst }, .fetest⟩
    else if decide (fn = 1) then some ⟨{ d := .pdst, a := .vtst }, .fetest⟩
    else if decide (fn = 2) then some ⟨{ d := .pdst, a := .tst }, .fetest⟩ else none
  | 0x3C => if ctlReadOk fn then some ⟨{ d := .dregz }, .ctlRead⟩
    else if decide (fn = 0x1006) then some ⟨{ a := .sreg }, .timerArm⟩
    else if decide (fn = 0x100A) then some ⟨{ a := .sreg, role := .handlerMode }, .modeWrite⟩
    else if decide (fn = 0x1007) then some ⟨{ a := .sreg }, .vshapeWrite⟩
    else if decide (fn = 0x1112) then some ⟨{ a := .sreg }, .runqFlush⟩
    else if decide (fn = 0x1113) then some ⟨{ a := .sreg }, .semcfgWrite⟩
    else if decide (fn = 0x1111) then some ⟨{ a := .sreg }, .traceWrite⟩
    else if decide (fn = 0x1110) then some ⟨{ a := .sreg }, .qflagsClear⟩
    else if ctlWriteOk fn then some ⟨{ a := .sreg }, .ctlWrite⟩
    else if decide (fn / 16 = 0x110) then some ⟨{ a := .sreg, role := .matrix }, .tcfgWrite⟩ else none
  | 0x3D => if only fn 0 then some ⟨{ role := .handlerMode }, .eret⟩ else none
  | 0x3E => if only fn 0x73 && decide (fld fn 0 2 ≠ 3) then some ⟨{  }, .fence⟩ else none
  | 0x3F => if only fn 0 then some ⟨{  }, .beat⟩ else none
  | _ => none

/-- The rows of the memory, claim, token, task, message and haulage (R96, R107 to R109, R350, R213, R215, R311, R137 to R140, R255) opcodes. -/
def rowsMem (op fn : Nat) : Option Row :=
  match op with
  | 0x40 => if only fn 0x7F && scopeOk fn then some ⟨{ d := .dst, a := .src, b := .src, lit := .int, rlx := true }, .ld⟩ else none
  | 0x41 => if only fn 0x7B && scopeOk fn then some ⟨{ a := .src, b := .src, c := .src, lit := .int, rlx := true }, .st⟩ else none
  | 0x42 => if only fn 0x27FF && scopeOk fn && amoOk fn then some ⟨{ d := .dst, a := .src, b := .src, c := .src, lit := .int, rlx := true }, .amo⟩ else none
  | 0x43 => if only fn 0x207F && scopeOk fn then some ⟨{ d := .rwreg, a := .src, b := .src, c := .src, lit := .int, rlx := true }, .cas⟩ else none
  | 0x44 => if only fn 0x7FB && scopeOk fn && amoOk fn then some ⟨{ a := .src, b := .src, c := .src, lit := .int, rlx := true }, .amon⟩ else none
  | 0x50 => if only fn 0x3 then some ⟨{ d := .dst, c := .creg }, .claim⟩ else none
  | 0x51 => if only fn 0 then some ⟨{ a := .src, b := .src, lit := .int, rlx := true }, .dlv⟩ else none
  | 0x52 => if only fn 0 then some ⟨{ d := .pdst, a := .src }, .cdrop⟩ else none
  | 0x53 => if only fn 0x3 then some ⟨{ d := .dregz, a := .src, b := .src, c := .src, lit := .int, rlx := true }, .stt⟩ else none
  | 0x54 => if only fn 0x83 then some ⟨{ d := .dsrcreg, a := .src, b := .src, c := .src, lit := .int, rlx := true }, .stw⟩ else none
  | 0x55 => if only fn 0 then some ⟨{ d := .pdst, a := .src }, .tokq⟩ else none
  | 0x58 => if only fn 0x7 && decide (fn ≤ 4) then some ⟨{ a := .src, b := .src, lit := .int, role := .task }, .go⟩ else none
  | 0x59 => if only fn 0 then some ⟨{ d := .dregz, a := .src, b := .src, lit := .int, role := .task }, .spawn⟩ else none
  | 0x5A => if decide (fn ≤ 7) then some ⟨{ d := .dreg, role := .level }, .lvget⟩
    else if decide (8 ≤ fn) && decide (fn ≤ 12) then some ⟨{ d := .dreg, b := .src, lit := .int, role := .level }, .lvget⟩ else none
  | 0x5B => if only fn 0 then some ⟨{ a := .src, role := .level }, .lvcommit⟩ else none
  | 0x60 => if decide (fn = 0) then some ⟨{ d := .dst, anyPol := true, role := .task }, .wmsg⟩
    else if decide (fn = 1) then some ⟨{ d := .dst, anyPol := true, role := .task }, .wmsgCount⟩ else none
  | 0x61 => if decide (fn = 0) then some ⟨{ a := .src, b := .src, lit := .int }, .send⟩
    else if decide (fn = 1) then some ⟨{ a := .src, b := .src, c := .src, lit := .int }, .sendAm⟩ else none
  | 0x62 => if decide (fn / 16 = 0) then some ⟨{ role := .task }, .semWait⟩
    else if decide (fn / 16 = 1) then some ⟨{  }, .semPost⟩
    else if decide (fn / 16 = 2) then some ⟨{ d := .pdst }, .semTry⟩ else none
  | 0x63 => if only fn 0 then some ⟨{ a := .src, b := .src, lit := .int }, .kick⟩ else none
  | 0x68 => if only fn 0 then some ⟨{ d := .dregz, a := .src, role := .haulage }, .hcopy⟩ else none
  | 0x69 => if only fn 0 then some ⟨{ d := .dregz, a := .src, b := .src, role := .haulage }, .hpull⟩ else none
  | 0x6A => if decide (fn = 0) then some ⟨{ a := .src, b := .src, c := .src, role := .haulage }, .hsub⟩
    else if decide (fn = 1) then some ⟨{ a := .src, role := .haulage }, .hsubLeave⟩ else none
  | 0x6B => if only fn 1 then some ⟨{ d := .strm, a := .src, b := .src, role := .haulage }, .hstream⟩ else none
  | _ => none

/-- The rows of the vector (R166 to R189) opcodes. -/
def rowsVec (op fn : Nat) : Option Row :=
  match op with
  | 0x70 => if (if vFloat fn then only fn 0x3F && rnd fn 3 else only fn 0xC7 && decide (fld fn 6 2 ≤ 2)) then some ⟨{ d := .vdst, a := .vsrc, b := .vsrc, lit := .vec }, .vadd⟩ else none
  | 0x71 => if (if vFloat fn then only fn 0x3F && rnd fn 3 else only fn 0xC7 && decide (fld fn 6 2 ≤ 2)) then some ⟨{ d := .vdst, a := .vsrc, b := .vsrc, lit := .vec }, .vsub⟩ else none
  | 0x72 => if (if vFloat fn then only fn 0x3F && rnd fn 3 else only fn 0xC7 && decide (fld fn 6 2 ≤ 2)) then some ⟨{ d := .vdst, a := .vsrc, b := .vsrc, lit := .vec }, .vmul⟩ else none
  | 0x73 => if (if vFloat fn then only fn 0xFF && rnd fn 3 else only fn 0xC7) then some ⟨{ d := .vdst, a := .vsrc, b := .vsrc, c := .vsrc, lit := .vec }, .vfma⟩ else none
  | 0x74 => if (if vFloat fn then only fn 0x7 else only fn 0x47) then some ⟨{ d := .vdst, a := .vsrc, b := .vsrc, lit := .vec }, .vmin⟩ else none
  | 0x75 => if (if vFloat fn then only fn 0x7 else only fn 0x47) then some ⟨{ d := .vdst, a := .vsrc, b := .vsrc, lit := .vec }, .vmax⟩ else none
  | 0x76 => if only fn 0x7 then some ⟨{ d := .vdst, a := .vsrc, b := .vsrc, lit := .vec }, .vand⟩ else none
  | 0x77 => if only fn 0x7 then some ⟨{ d := .vdst, a := .vsrc, b := .vsrc, lit := .vec }, .vor⟩ else none
  | 0x78 => if only fn 0x7 then some ⟨{ d := .vdst, a := .vsrc, b := .vsrc, lit := .vec }, .vxor⟩ else none
  | 0x79 => if !vFloat fn && only fn 0x7 then some ⟨{ d := .vdst, a := .vsrc, b := .vsrc, lit := .vec }, .vshl⟩ else none
  | 0x7A => if !vFloat fn && only fn 0x47 then some ⟨{ d := .vdst, a := .vsrc, b := .vsrc, lit := .vec }, .vshr⟩ else none
  | 0x7B => if (if vFloat fn then only fn 0x1C7 else only fn 0x5C7 && decide (fld fn 6 4 ≤ 5)) then some ⟨{ d := .vdst, a := .vsrc, b := .vsrc, lit := .vec }, .vcmp⟩ else none
  | 0x7C => if only fn 0x7 then some ⟨{ d := .vdst, a := .vsrc, b := .vsrc, c := .vsrc, lit := .vec }, .vsel⟩ else none
  | 0x7D => if vcvtOk fn then some ⟨{ d := .vdst, a := .vsrc }, .vcvt⟩ else none
  | 0x7E => if only fn 0x1FF && vsfnOk fn then some ⟨{ d := .vdst, a := .vsrc }, .vsfn⟩ else none
  | 0x7F => if only fn 0x7 then some ⟨{ d := .vdst, b := .src, lit := .elem }, .vbcast⟩
    else if only fn 0x1C47 && bitN fn 6 then some ⟨{ d := .vdst, a := .vsrc }, .vbcastRow⟩ else none
  | 0x80 => if only fn 0x7F && (if bitN fn 6 && vFloat fn then rnd fn 3 else decide (fld fn 3 3 = 0)) then some ⟨{ d := .vdst, a := .src, b := .src, c := .src, lit := .int }, .vld⟩ else none
  | 0x81 => if only fn 0x7 then some ⟨{ d := .dsrc, a := .src, b := .src, c := .vsrc, lit := .int }, .vst⟩ else none
  | 0x82 => if only fn 0xFF && (!bitN fn 7 || bitN fn 6) && (if bitN fn 7 && vFloat fn then rnd fn 3 else decide (fld fn 3 3 = 0)) then some ⟨{ d := .vdst, a := .src, b := .vsrc, lit := .vidx }, .vgather⟩ else none
  | 0x83 => if only fn 0x47 then some ⟨{ a := .src, b := .vsrc, c := .vsrc, lit := .vidx }, .vscatter⟩ else none
  | 0x84 => if only fn 0xFFF && redOk fn && decide (fld fn 10 2 = 0) then some ⟨{ d := .dst, a := .vsrc }, .vred⟩
    else if only fn 0xFFF && redOk fn && decide (fld fn 10 2 ≤ 2) then some ⟨{ d := .vdst, a := .vsrc }, .vred⟩ else none
  | 0x85 => if only fn 0x7FF && redOk fn then some ⟨{ d := .vdst, a := .vsrc }, .vscan⟩ else none
  | 0x86 => if only fn 0x47 then some ⟨{ d := .vdst, a := .vsrc, b := .vsrc, lit := .vec }, .vperm⟩ else none
  | 0x87 => if only fn 0x7 then some ⟨{ d := .vdst, a := .vsrc }, .vtrn⟩ else none
  | 0x88 => if only fn 0xFFF && distOk fn && !bitN fn 11 then some ⟨{ d := .vdst, a := .vsrc, b := .vsrc, lit := .vec }, .vdist⟩
    else if only fn 0xFFF && distOk fn && bitN fn 11 then some ⟨{ d := .vrw, a := .vsrc, b := .vsrc, lit := .vec }, .vdist⟩ else none
  | 0x89 => if only fn 0x3CC7 && topkOk fn && !bitN fn 7 then some ⟨{ d := .vdst, a := .vsrc, b := .src, lit := .int }, .vtopk⟩
    else if only fn 0x3CC7 && topkOk fn && bitN fn 7 then some ⟨{ d := .vrw, a := .vsrc, b := .src, lit := .int }, .vtopk⟩ else none
  | 0x8A => if only fn 0x7 && vFloat fn then some ⟨{ d := .vdst, a := .vsrc, b := .src, lit := .f32 }, .vquant⟩ else none
  | 0x8B => if (if vFloat fn then only fn 0x7 else only fn 0x47) then some ⟨{ d := .dst, a := .vsrc, b := .src, lit := .int }, .vext⟩ else none
  | 0x8C => if only fn 0x7 then some ⟨{ d := .vrw, a := .src, b := .src, lit := .int }, .vins⟩ else none
  | 0x8D => if only fn 0 then some ⟨{ d := .vdst, a := .vsrc }, .vmov⟩ else none
  | _ => none

/-- The rows of the matrix, sluice and system (R197, R234, R231, R284, R285) opcodes. -/
def rowsMat (op fn : Nat) : Option Row :=
  match op with
  | 0xA0 => if only fn 0x1 then some ⟨{ d := .tdst, a := .src, b := .src, c := .src, lit := .int, role := .matrix }, .tld⟩
    else if decide (fn = 2) then some ⟨{ d := .adst, a := .src, b := .src, c := .src, lit := .int, role := .matrix }, .tldAcc⟩ else none
  | 0xA1 => if only fn 0x1D && rnd fn 2 && (!bitN fn 0 || decide (fn = 1)) then some ⟨{ d := .dsrc, a := .src, b := .src, c := .tmem, lit := .int, role := .matrix }, .tst⟩
    else if decide (fn = 2) then some ⟨{ d := .dsrc, a := .src, b := .src, c := .amem, lit := .int, role := .matrix }, .tstAcc⟩ else none
  | 0xA2 => if decide (fn = 0) then some ⟨{ d := .tdst, role := .matrix }, .tzero⟩
    else if decide (fn = 1) then some ⟨{ d := .adst, role := .matrix }, .tzero⟩ else none
  | 0xA3 => if decide (fn = 0) then some ⟨{ d := .arw, b := .src, lit := .int, role := .matrix }, .tanch⟩
    else if decide (fn = 1) then some ⟨{ d := .dst, a := .asrc, role := .matrix }, .tanchRd⟩
    else if decide (fn = 2) then some ⟨{ d := .arw, role := .matrix }, .tanchClr⟩ else none
  | 0xA4 => if only fn 0x3 then some ⟨{ d := .arw, a := .tsrc, b := .tsrc, role := .matrix }, .tmma⟩ else none
  | 0xA5 => if only fn 0x1F && rnd fn 2 && decide (fld fn 0 2 ≠ 0) then some ⟨{ d := .vdst, a := .asrc, b := .src, lit := .int, role := .matrix }, .tcvt⟩
    else if only fn 0x3C && rnd fn 2 && bitN fn 5 then some ⟨{ d := .tdst, a := .asrc, role := .matrix }, .tcvtTile⟩ else none
  | 0xA6 => if only fn 0x1F && rnd fn 2 && (decide (fld fn 0 2 ≠ 0) || decide (fn = 0)) then some ⟨{ d := .vdst, a := .tsrc, b := .src, lit := .int, role := .matrix }, .tvec⟩
    else if only fn 0x43 && bitN fn 6 then some ⟨{ d := .trw, a := .vsrc, b := .src, lit := .int, role := .matrix }, .tvecIn⟩ else none
  | 0xB0 => if only fn 0 then some ⟨{ d := .apin, a := .src, b := .src, lit := .int }, .slres⟩ else none
  | 0xB1 => if only fn 0 then some ⟨{ d := .dreg, a := .src, b := .src, lit := .int }, .sljoin⟩ else none
  | 0xB2 => if only fn 0x3F then some ⟨{ a := .src, b := .src, c := .amem }, .slsend⟩ else none
  | 0xB3 => if only fn 0 then some ⟨{ d := .dregz, a := .src }, .slwait⟩ else none
  | 0xB4 => if only fn 0 then some ⟨{ a := .src }, .slclose⟩ else none
  | 0xB8 => if only fn 0 then some ⟨{ role := .gang }, .gsync⟩ else none
  | 0xB9 => if only fn 0 then some ⟨{ a := .sreg, b := .sregz, lit := .int }, .tlbi⟩ else none
  | 0xBA => if decide (fn = 0) then some ⟨{ d := .dst, a := .src }, .syscGquery⟩
    else if decide (fn = 1) then some ⟨{ a := .src }, .syscGfree⟩
    else if decide (fn = 2) then some ⟨{ d := .dst, a := .src }, .syscElog⟩ else none
  | _ => none

/-- The row of an opcode under an fn value; none where fn is undefined (R54). -/
def rowOf (op fn : Nat) : Option Row :=
  if op < 0x20 then rowsInt op fn
  else if op < 0x30 then rowsFlt op fn
  else if op < 0x40 then rowsCtl op fn
  else if op < 0x70 then rowsMem op fn
  else if op < 0x90 then rowsVec op fn
  else rowsMat op fn

/-- The opcodes R52 assigns. -/
def assigned (op : Nat) : Bool :=
  decide (op ≤ 0x1B) || (decide (0x20 ≤ op) && decide (op ≤ 0x2E)) || (decide (0x30 ≤ op) && decide (op ≤ 0x44))
    || (decide (0x50 ≤ op) && decide (op ≤ 0x55)) || (decide (0x58 ≤ op) && decide (op ≤ 0x5B))
    || (decide (0x60 ≤ op) && decide (op ≤ 0x63)) || (decide (0x68 ≤ op) && decide (op ≤ 0x6B))
    || (decide (0x70 ≤ op) && decide (op ≤ 0x8D)) || (decide (0xA0 ≤ op) && decide (op ≤ 0xA6))
    || (decide (0xB0 ≤ op) && decide (op ≤ 0xB4)) || (decide (0xB8 ≤ op) && decide (op ≤ 0xBA))

/-! ### The checks of subcodes 0x03 and 0x04 -/

/-- The specifier lies in the defined part of its kind (R49). -/
def specOk (k : Kind) (x : BitVec 8) : Bool :=
  let n := x.toNat
  match k with
  | .none => true
  | .src | .dsrc | .tst => decide (n ≤ 146)
  | .dst => decide (n ≤ 146) && decide (n ≠ 144)
  | .sreg | .dreg | .rwreg | .dsrcreg | .creg => decide (n ≤ 127)
  | .sregz | .dregz => decide (n ≤ 127) || decide (n = 145)
  | .vsrc | .vtst => decide (n ≤ 127)
  | .vdst | .vrw => decide (n ≤ 31)
  | .tsrc | .tmem | .tdst | .trw => decide (n ≤ 15)
  | .asrc | .amem | .adst | .arw | .apin => decide (n ≤ 3)
  | .psrc | .pdst => decide (n ≤ 7)
  | .strm => decide (136 ≤ n) && decide (n ≤ 139)

/-- A policy bit has a use: the operand is read, is not the zero port, and is not a tile, accumulator or
predicate (R40). -/
def polUsed (k : Kind) (x : BitVec 8) : Bool :=
  match k with
  | .src | .sreg | .sregz => decide (x ≠ 145)
  | .vsrc => true
  | _ => false

/-- A field and policy bit of an unused operand are zero (R40). -/
def fieldOk (k : Kind) (x : BitVec 8) (t : Bool) : Bool :=
  (decide (k ≠ .none) || decide (x = 0)) && (!t || polUsed k x)

/-- The literal is one that R39 and R41 allow: `ht` says that a float operand has a 16-bit format. -/
def litOk (k : LitKind) (half : Bool) (lit : BitVec 32) : Bool :=
  match k with
  | .none => false
  | .flt | .vec | .elem => !half || decide (lit.toNat < 65536)
  | _ => true

/-- Whether the operation's float literals have 16 bits (R41, R54). -/
def halfLit (op fn : Nat) : Bool :=
  if op < 0x70 then decide (2 ≤ fld fn 0 2) else decide (fld fn 0 3 = 4) || decide (fld fn 0 3 = 5)

/-- The subcode of ILLEGAL that a 64-bit or 96-bit instruction meets, the lowest first (R56). -/
def illegalSub (op : Nat) (o : Opnd) : Option Nat :=
  if !assigned op then some 1
  else match rowOf op o.fn.toNat with
    | none => some 2
    | some row =>
      let ds := row.desc
      let kb := if o.lit.isSome then Kind.none else ds.b
      -- the 96-bit `br` and `call` take their offset from the literal (R42), so no fn value is defined there
      if o.lit.isSome && decide (ds.lit = .off) && decide (o.fn ≠ 0) then some 2
      else if !(specOk ds.d o.d && specOk ds.a o.a && specOk kb o.b && specOk ds.c o.c) then some 3
      else if !(fieldOk ds.d o.d false && fieldOk ds.a o.a (o.ta && !ds.anyPol) && fieldOk kb o.b (o.tb && !ds.anyPol)
          && fieldOk ds.c o.c (o.tc && !ds.anyPol) && (!o.rlx || ds.rlx)) then some 4
      else match o.lit with
        | none => none
        | some l => if !litOk ds.lit (halfLit op o.fn.toNat) l then some 4 else none

/-! ### Decoding -/

/-- What a fetched word stands for: an instruction with its length in bytes, or ILLEGAL with a subcode. -/
inductive Dec where
  | ok (i : Instr) (len : Nat)
  | illegal (sub : Nat)
  deriving DecidableEq, Repr

/-- Bits lo+len-1 to lo of a word. -/
def wbits (w : BitVec 32) (lo len : Nat) : BitVec len := w.extractLsb' lo len

/-- The fields of a compact word (R43). -/
def compactOf (w : BitVec 32) : Compact where
  g := wbits w 23 3
  gn := w.getLsbD 26
  d := wbits w 8 5
  a := wbits w 13 5
  b := wbits w 18 5
  fn5 := wbits w 27 5

/-- The fields of a 64-bit or 96-bit instruction (R38, R39). -/
def opndOf (w0 w1 : BitVec 32) (lit : Option (BitVec 32)) : Opnd where
  d := wbits w0 10 8
  a := wbits w0 18 8
  b := wbits w1 0 2 ++ wbits w0 26 6
  c := wbits w1 2 8
  g := wbits w1 10 3
  gn := w1.getLsbD 13
  ta := w1.getLsbD 14
  tb := w1.getLsbD 15
  tc := w1.getLsbD 16
  rlx := w1.getLsbD 17
  fn := wbits w1 18 14
  lit := lit

/-- The 64-bit fields that a compact word of op6 0x00 to 0x17 stands for (R44). -/
def expand (k : Compact) : Opnd where
  g := k.g
  gn := k.gn
  d := k.d.setWidth 8
  a := k.a.setWidth 8
  b := k.b.setWidth 8
  c := 0
  ta := false
  tb := false
  tc := false
  rlx := false
  fn := k.fn5.setWidth 14
  lit := none

/-- The compact instruction of an op6 (R44 to R47). -/
def compactInstr (op6 : Nat) (k : Compact) : Instr :=
  match op6 with
  | 0x00 => .addCompact k
  | 0x01 => .subCompact k
  | 0x02 => .mulCompact k
  | 0x03 => .mulhCompact k
  | 0x04 => .divCompact k
  | 0x05 => .remCompact k
  | 0x06 => .andCompact k
  | 0x07 => .orCompact k
  | 0x08 => .xorCompact k
  | 0x09 => .andnCompact k
  | 0x0A => .shlCompact k
  | 0x0B => .shrCompact k
  | 0x0C => .sraCompact k
  | 0x0D => .rotCompact k
  | 0x0E => .minCompact k
  | 0x0F => .maxCompact k
  | 0x10 => .clzCompact k
  | 0x11 => .ctzCompact k
  | 0x12 => .popcCompact k
  | 0x15 => .selCompact k
  | 0x16 => .cmpCompact k
  | 0x17 => .movCompact k
  | 0x18 => .addi k
  | 0x19 => .ldDCompact k
  | 0x1A => .stDCompact k
  | _ => .brCompact k

/-- The subcode of ILLEGAL that a compact word of op6 0x00 to 0x1B meets (R44 to R47, R56). -/
def compactSub (op6 : Nat) (k : Compact) : Option Nat :=
  if op6 ≤ 0x17 then illegalSub op6 (expand k)
  else if op6 ≤ 0x1A then (if k.fn5 = 0 then none else some 2)
  else if k.d = 0 ∧ k.a = 0 then none else some 4

/-- The instruction of up to three words; the first gives the length (R36). A word with no length or no
opcode is `notAnInstruction` (R31, R48, R53). -/
def decode (w0 w1 w2 : BitVec 32) : Dec :=
  match (wbits w0 0 2).toNat with
  | 0 =>
    let op6 := (wbits w0 2 6).toNat
    let k := compactOf w0
    if 0x1B < op6 then .ok (.notAnInstruction w0) 4
    else match compactSub op6 k with
      | some n => .illegal n
      | none => .ok (compactInstr op6 k) 4
  | 2 => .ok (.notAnInstruction w0) 4
  | m =>
    let op := (wbits w0 2 8).toNat
    let o := opndOf w0 w1 (if m = 3 then some w2 else none)
    match illegalSub op o with
    | some 1 => .ok (.notAnInstruction w0) (if m = 3 then 12 else 8)
    | some n => .illegal n
    | none => match rowOf op o.fn.toNat with
      | some row => .ok (row.build o) (if m = 3 then 12 else 8)
      | none => .illegal 2

/-- The length in words that a first word gives; 0 where it gives none (R36). -/
def wordsOf (w0 : BitVec 32) : Nat :=
  match (wbits w0 0 2).toNat with
  | 0 => 1
  | 1 => 2
  | 2 => 0
  | _ => 3

/-- Word `n` of an instruction whose bits are `w`, the first word lowest (R3, R6). -/
def tableWord (w n : Nat) : BitVec 32 := BitVec.ofNat 32 (w >>> (32 * n))

/-- The instruction that the decoder reads from bits numbered as the opcode table numbers them: the words
follow one another from bit 0 up, little-endian, so no reordering is needed (R3). -/
def decodeTableWord (nbits w : Nat) : Option Instr :=
  let v := w % 2 ^ nbits
  match decode (tableWord v 0) (tableWord v 1) (tableWord v 2) with
  | .ok i _ => some i
  | .illegal _ => none

/-! ### Encoding -/

/-- How an instruction is encoded: a compact word, a 64-bit or 96-bit instruction, a bare word, or not at
all (an event). -/
inductive Shape where
  | compact (op6 : Nat) (k : Compact)
  | long (op : Nat) (o : Opnd)
  | bare (w : BitVec 32)
  | event
  deriving DecidableEq, Repr

/-- The shape of every constructor. -/
def shapeOf (i : Instr) : Shape :=
  match i with
  | .addCompact k => .compact 0x00 k
  | .subCompact k => .compact 0x01 k
  | .mulCompact k => .compact 0x02 k
  | .mulhCompact k => .compact 0x03 k
  | .divCompact k => .compact 0x04 k
  | .remCompact k => .compact 0x05 k
  | .andCompact k => .compact 0x06 k
  | .orCompact k => .compact 0x07 k
  | .xorCompact k => .compact 0x08 k
  | .andnCompact k => .compact 0x09 k
  | .shlCompact k => .compact 0x0A k
  | .shrCompact k => .compact 0x0B k
  | .sraCompact k => .compact 0x0C k
  | .rotCompact k => .compact 0x0D k
  | .minCompact k => .compact 0x0E k
  | .maxCompact k => .compact 0x0F k
  | .clzCompact k => .compact 0x10 k
  | .ctzCompact k => .compact 0x11 k
  | .popcCompact k => .compact 0x12 k
  | .selCompact k => .compact 0x15 k
  | .cmpCompact k => .compact 0x16 k
  | .movCompact k => .compact 0x17 k
  | .addi k => .compact 0x18 k
  | .ldDCompact k => .compact 0x19 k
  | .stDCompact k => .compact 0x1A k
  | .brCompact k => .compact 0x1B k
  | .add o => .long 0x00 o
  | .sub o => .long 0x01 o
  | .mul o => .long 0x02 o
  | .mulh o => .long 0x03 o
  | .div o => .long 0x04 o
  | .rem o => .long 0x05 o
  | .and o => .long 0x06 o
  | .or o => .long 0x07 o
  | .xor o => .long 0x08 o
  | .andn o => .long 0x09 o
  | .shl o => .long 0x0A o
  | .shr o => .long 0x0B o
  | .sra o => .long 0x0C o
  | .rot o => .long 0x0D o
  | .min o => .long 0x0E o
  | .max o => .long 0x0F o
  | .clz o => .long 0x10 o
  | .ctz o => .long 0x11 o
  | .popc o => .long 0x12 o
  | .bfx o => .long 0x13 o
  | .bfi o => .long 0x14 o
  | .sel o => .long 0x15 o
  | .cmp o => .long 0x16 o
  | .mov o => .long 0x17 o
  | .lea o => .long 0x18 o
  | .ext o => .long 0x19 o
  | .adds o => .long 0x1A o
  | .madd o => .long 0x1B o
  | .fadd o => .long 0x20 o
  | .fsub o => .long 0x21 o
  | .fmul o => .long 0x22 o
  | .fma o => .long 0x23 o
  | .fmin o => .long 0x24 o
  | .fmax o => .long 0x25 o
  | .fcmp o => .long 0x26 o
  | .fcvt o => .long 0x27 o
  | .frcp o => .long 0x28 o
  | .frsq o => .long 0x29 o
  | .frcpr o => .long 0x2A o
  | .frsqr o => .long 0x2B o
  | .fsfn o => .long 0x2C o
  | .fclass o => .long 0x2D o
  | .fsgn o => .long 0x2E o
  | .br o => .long 0x30 o
  | .jmp o => .long 0x31 o
  | .call o => .long 0x32 o
  | .callr o => .long 0x33 o
  | .loop o => .long 0x34 o
  | .exit o => .long 0x35 o
  | .trap o => .long 0x36 o
  | .nop o => .long 0x37 o
  | .plog o => .long 0x38 o
  | .pmovReadWord o => .long 0x39 o
  | .pmovWriteWord o => .long 0x39 o
  | .pmovReadPred o => .long 0x39 o
  | .pmovWritePred o => .long 0x39 o
  | .empty o => .long 0x3A o
  | .fetest o => .long 0x3B o
  | .ctlRead o => .long 0x3C o
  | .timerArm o => .long 0x3C o
  | .modeWrite o => .long 0x3C o
  | .vshapeWrite o => .long 0x3C o
  | .runqFlush o => .long 0x3C o
  | .semcfgWrite o => .long 0x3C o
  | .traceWrite o => .long 0x3C o
  | .qflagsClear o => .long 0x3C o
  | .ctlWrite o => .long 0x3C o
  | .tcfgWrite o => .long 0x3C o
  | .eret o => .long 0x3D o
  | .fence o => .long 0x3E o
  | .beat o => .long 0x3F o
  | .ld o => .long 0x40 o
  | .st o => .long 0x41 o
  | .amo o => .long 0x42 o
  | .cas o => .long 0x43 o
  | .amon o => .long 0x44 o
  | .claim o => .long 0x50 o
  | .dlv o => .long 0x51 o
  | .cdrop o => .long 0x52 o
  | .stt o => .long 0x53 o
  | .stw o => .long 0x54 o
  | .tokq o => .long 0x55 o
  | .go o => .long 0x58 o
  | .spawn o => .long 0x59 o
  | .lvget o => .long 0x5A o
  | .lvcommit o => .long 0x5B o
  | .wmsg o => .long 0x60 o
  | .wmsgCount o => .long 0x60 o
  | .send o => .long 0x61 o
  | .sendAm o => .long 0x61 o
  | .semWait o => .long 0x62 o
  | .semPost o => .long 0x62 o
  | .semTry o => .long 0x62 o
  | .kick o => .long 0x63 o
  | .hcopy o => .long 0x68 o
  | .hpull o => .long 0x69 o
  | .hsub o => .long 0x6A o
  | .hsubLeave o => .long 0x6A o
  | .hstream o => .long 0x6B o
  | .vadd o => .long 0x70 o
  | .vsub o => .long 0x71 o
  | .vmul o => .long 0x72 o
  | .vfma o => .long 0x73 o
  | .vmin o => .long 0x74 o
  | .vmax o => .long 0x75 o
  | .vand o => .long 0x76 o
  | .vor o => .long 0x77 o
  | .vxor o => .long 0x78 o
  | .vshl o => .long 0x79 o
  | .vshr o => .long 0x7A o
  | .vcmp o => .long 0x7B o
  | .vsel o => .long 0x7C o
  | .vcvt o => .long 0x7D o
  | .vsfn o => .long 0x7E o
  | .vbcast o => .long 0x7F o
  | .vbcastRow o => .long 0x7F o
  | .vld o => .long 0x80 o
  | .vst o => .long 0x81 o
  | .vgather o => .long 0x82 o
  | .vscatter o => .long 0x83 o
  | .vred o => .long 0x84 o
  | .vscan o => .long 0x85 o
  | .vperm o => .long 0x86 o
  | .vtrn o => .long 0x87 o
  | .vdist o => .long 0x88 o
  | .vtopk o => .long 0x89 o
  | .vquant o => .long 0x8A o
  | .vext o => .long 0x8B o
  | .vins o => .long 0x8C o
  | .vmov o => .long 0x8D o
  | .tld o => .long 0xA0 o
  | .tldAcc o => .long 0xA0 o
  | .tst o => .long 0xA1 o
  | .tstAcc o => .long 0xA1 o
  | .tzero o => .long 0xA2 o
  | .tanch o => .long 0xA3 o
  | .tanchRd o => .long 0xA3 o
  | .tanchClr o => .long 0xA3 o
  | .tmma o => .long 0xA4 o
  | .tcvt o => .long 0xA5 o
  | .tcvtTile o => .long 0xA5 o
  | .tvec o => .long 0xA6 o
  | .tvecIn o => .long 0xA6 o
  | .slres o => .long 0xB0 o
  | .sljoin o => .long 0xB1 o
  | .slsend o => .long 0xB2 o
  | .slwait o => .long 0xB3 o
  | .slclose o => .long 0xB4 o
  | .gsync o => .long 0xB8 o
  | .tlbi o => .long 0xB9 o
  | .syscGquery o => .long 0xBA o
  | .syscGfree o => .long 0xBA o
  | .syscElog o => .long 0xBA o
  | .qflagsRaise _ _ => .event
  | .roundStart _ => .event
  | .timerExpiry _ _ => .event
  | .spill _ _ => .event
  | .restore _ _ => .event
  | .arrive _ => .event
  | .serve _ => .event
  | .complete _ => .event
  | .claimDelivery _ => .event
  | .claimExpiry _ _ => .event
  | .messageAccept _ => .event
  | .kickAccept _ => .event
  | .activeMessageRun _ => .event
  | .handlerAbort _ => .event
  | .runqDeferredPlace _ => .event
  | .vectorComplete _ _ => .event
  | .matrixStart _ => .event
  | .matrixComplete _ => .event
  | .pairedEffectCompare _ _ => .event
  | .jobGo _ _ => .event
  | .jobComplete _ _ => .event
  | .requestResend _ => .event
  | .escapeReroute _ => .event
  | .streamDeliver _ _ => .event
  | .sluiceJoinServe _ => .event
  | .sluiceContribution _ => .event
  | .mcastRootForward _ => .event
  | .mcastDeliver _ _ => .event
  | .walkComplete _ _ _ => .event
  | .triggerWrite _ _ => .event
  | .taskPlace _ _ => .event
  | .taskPreemptPriority _ _ => .event
  | .taskMigrateSeat _ _ => .event
  | .nodeComplete _ _ _ _ => .event
  | .launchComplete _ _ _ => .event
  | .watchdogFire _ _ => .event
  | .nodeFreeze _ _ _ => .event
  | .tokenNotice _ => .event
  | .tokenDeadline _ _ => .event
  | .tokenEntryFree _ _ => .event
  | .holdEnter _ => .event
  | .holdQueryAnswer _ => .event
  | .holdRelease _ => .event
  | .escapeChannelMove _ => .event
  | .flitResend _ _ => .event
  | .linkRetire _ _ => .event
  | .portRetire _ _ => .event
  | .laneCalibrationRotate _ _ _ => .event
  | .laneFailure _ _ _ _ => .event
  | .sramScrub _ _ => .event
  | .sramUncorrectable _ _ => .event
  | .gddr7MultibitError _ _ => .event
  | .regfileUncorrectable _ _ _ => .event
  | .hostLoadTimeout _ => .event
  | .hostBar2Write _ _ => .event
  | .hostBar2Read _ _ _ _ => .event
  | .bar0RegisterWrite _ _ => .event
  | .cmddbOverrun _ _ => .event
  | .plimitWrite _ _ => .event
  | .notAnInstruction w => .bare w
  | .fetchFault _ _ => .event
  | .jobAccess _ _ _ => .event
  | .tlbiRemovalDone _ _ => .event
  | .heartbeatReceive _ _ => .event
  | .launch => .event
  | .heartbeatSend => .event
  | .deviceFence => .event
  | .egressPost => .event
  | .powerTick => .event
  | .reset => .event
  | .identify => .event
  | .attest => .event
  | .loadFirmware => .event
  | .map => .event
  | .mapDeferred => .event
  | .mapAperture => .event
  | .keySet => .event
  | .graphLoad => .event
  | .graphUnload => .event
  | .nodeResumeContinue => .event
  | .nodeResumeRerun => .event
  | .resetScope => .event
  | .errorLogRead => .event
  | .watchConfig => .event
  | .linkStatus => .event
  | .checkpointQuiesce => .event
  | .checkpointRelease => .event
  | .checkpointAdopt => .event

/-- The compact word (R43). -/
def encCompact (op6 : Nat) (k : Compact) : BitVec 32 :=
  k.fn5 ++ BitVec.ofBool k.gn ++ k.g ++ k.b ++ k.a ++ k.d ++ BitVec.ofNat 6 op6 ++ 0b00#2

/-- The first word of a longer form (R38). -/
def encWord0 (op : Nat) (o : Opnd) : BitVec 32 :=
  o.b.extractLsb' 0 6 ++ o.a ++ o.d ++ BitVec.ofNat 8 op ++ (if o.lit.isSome then 0b11#2 else 0b01#2)

/-- The second word of a longer form (R38). -/
def encWord1 (o : Opnd) : BitVec 32 :=
  o.fn ++ BitVec.ofBool o.rlx ++ BitVec.ofBool o.tc ++ BitVec.ofBool o.tb ++ BitVec.ofBool o.ta ++ BitVec.ofBool o.gn
    ++ o.g ++ o.c ++ o.b.extractLsb' 6 2

/-- The words of an instruction, the first word first; none for an event. -/
def encode (i : Instr) : List (BitVec 32) :=
  match shapeOf i with
  | .compact op6 k => [encCompact op6 k]
  | .long op o => [encWord0 op o, encWord1 o] ++ o.lit.toList
  | .bare w => [w]
  | .event => []

/-- Decoding a list of words, absent words read as zero. -/
def decodeList (ws : List (BitVec 32)) : Dec :=
  decode ((ws[0]?).getD 0) ((ws[1]?).getD 0) ((ws[2]?).getD 0)

end Sys2Proof
end

