-- ==== Sys2Proof/Config.lean ====
section
/-! DEFINITION. What the manual leaves open or leaves to each module: constants and functions with no body,
so that nothing can be proved of their values. -/

namespace Sys2Proof.Config

/-- The key pair behind a key identity that no KEY_SET gave: that of space 0, drawn at every boot, and those that a space has
before its first KEY_SET (R286). -/
opaque bootKey : Nat → BitVec 512

/-- A free value, by the number drawn so far. -/
opaque freeWord : Nat → Word

/-- The panel on which the module sits (R340). -/
opaque panel : BitVec 6

/-- The hash by which a packet chooses its plane: destination device, and address granule or source slot (R342). -/
opaque planeHash : Nat → Nat → Nat

/-- What a PCI Express read of a host or peer address returns: device, address, free-value number (R329). -/
opaque hostByte : Nat → Nat → Nat → Byte

/-- Whether a PCI Express read completes with an error status, or not within 50 ms (R329). -/
opaque hostError : Nat → Bool

/-- Measured package power of a device in watts, by millisecond (R338). -/
opaque power : Nat → Nat → Nat

/-- Serial number, ROM version and identity public key of a device (R334). -/
opaque serial : Nat → Word
opaque romVersion : Nat → BitVec 32
opaque identityKey : Nat → Nat → Word

/-- The dwords of the configuration space that the manual leaves to PCI Express and the host: device, offset, free-value number
(R324). -/
opaque pciConfig : Nat → Nat → Nat → BitVec 32

/-- Whether an extension image's signature verifies against the vendor root, and its version (R335). -/
opaque imageVerifies : List Byte → Bool
opaque imageVersion : List Byte → BitVec 32

/-- The SHAKE256-256 digest of a device's ROM, dword by dword: the manual does not give the ROM's bytes (R336). -/
opaque romDigest : Nat → Nat → Word

/-- The XMSS signature of a report, byte by byte: device, signature index, report dwords (R336). -/
opaque signature : Nat → Nat → List Word → Nat → Byte

/-- The first die of a device fails a stage of bring-up at a reset, by free-value number: 15 or more is none (R337). -/
opaque failStage : Nat → Nat

end Sys2Proof.Config
end

