-- ==== Sys2Proof/Machine/Sparse.lean ====
section
/-! DEFINITION. Reading and writing finite tables in canonical form, and the plain bit and byte helpers
that the rest of the machine uses (R3: little-endian, bits numbered from 0). -/

namespace Sys2Proof.Machine

/-- The entry of key `k`; an unlisted key stands for `d`. -/
def tabGet {α : Type} (d : α) : SMap α → Nat → α
  | [], _ => d
  | (k', v) :: r, k => if k = k' then v else tabGet d r k

/-- The table with key `k` standing for `v`: the entry is replaced where it is listed, else added in
key order. -/
def tabPut {α : Type} : SMap α → Nat → α → SMap α
  | [], k, v => [(k, v)]
  | (k', v') :: r, k, v =>
    if k = k' then (k, v) :: r
    else if k < k' then (k, v) :: (k', v') :: r
    else (k', v') :: tabPut r k v

/-- The entry of key `k`, if listed. -/
def tabFind {α : Type} : SMap α → Nat → Option α
  | [], _ => none
  | (k', v) :: r, k => if k = k' then some v else tabFind r k

/-- The table with key `k` no longer listed. -/
def tabDel {α : Type} (m : SMap α) (k : Nat) : SMap α := m.filter (fun p => p.1 != k)

/-- Bits lo+len-1 to lo of `x` as a number. -/
def bitsN {w : Nat} (x : BitVec w) (lo len : Nat) : Nat := (x.toNat >>> lo) % 2 ^ len

/-- Bit `n` of `x`. -/
def bit {w : Nat} (x : BitVec w) (n : Nat) : Bool := x.getLsbD n

/-- `x` with bits lo+len-1 to lo replaced by the low bits of `v`. -/
def putBits {w : Nat} (x : BitVec w) (lo len v : Nat) : BitVec w :=
  (x &&& ~~~(BitVec.ofNat w ((2 ^ len - 1) <<< lo))) ||| BitVec.ofNat w ((v % 2 ^ len) <<< lo)

/-- The low `n` bits of `x`, read as two's complement. -/
def sgnN (n : Nat) (x : Nat) : Int :=
  if 2 ^ n ≤ 2 * (x % 2 ^ n) then (x % 2 ^ n : Int) - 2 ^ n else (x % 2 ^ n : Int)

/-- An integer kept as its low `n` bits. -/
def wrapN (n : Nat) (i : Int) : Nat := (i % (2 ^ n : Int)).toNat

/-- The 64-bit word of an integer (R5: assigning keeps the low bits). -/
def wordOfInt (i : Int) : Word := BitVec.ofInt 64 i

/-- Sign-extension of the low `n` bits to 64 bits (R69). -/
def signExt (n : Nat) (x : Nat) : Word := wordOfInt (sgnN n x)

/-- The bits of a Bool. -/
def b2n (b : Bool) : Nat := if b then 1 else 0

/-- `n` bytes of a number, lowest first (R3). -/
def bytesOf : Nat → Nat → List Byte
  | 0, _ => []
  | n + 1, x => BitVec.ofNat 8 x :: bytesOf n (x >>> 8)

/-- The number whose bytes, lowest first, are given (R3). -/
def numOf : List Byte → Nat
  | [] => 0
  | b :: r => b.toNat + 256 * numOf r

/-- The numbers lo, lo + 1, …, lo + n - 1. -/
def rangeFrom : Nat → Nat → List Nat
  | _, 0 => []
  | lo, n + 1 => lo :: rangeFrom (lo + 1) n

/-- Round up to a multiple of `n`. -/
def ceilTo (n x : Nat) : Nat := (x + n - 1) / n * n

/-- Entry `n` of a list, or a default. -/
def nth {α : Type} (d : α) (l : List α) (n : Nat) : α := (l[n]?).getD d

/-- A list with entry `n` replaced, if it has one. -/
def setNth {α : Type} : List α → Nat → α → List α
  | [], _, _ => []
  | _ :: r, 0, v => v :: r
  | x :: r, n + 1, v => x :: setNth r n v

/-- The first number below lo + n, from lo on, that meets a test. -/
def firstFrom (p : Nat → Bool) : Nat → Nat → Option Nat
  | _, 0 => none
  | lo, n + 1 => if p lo then some lo else firstFrom p (lo + 1) n

/-- Whether two byte ranges share a byte; a range of length 0 overlaps nothing (R250). -/
def overlap (a n b m : Nat) : Bool := decide (0 < n) && decide (0 < m) && decide (a < b + m) && decide (b < a + n)

/-- Whether every number below `n` meets a test. -/
def allBelow (n : Nat) (p : Nat → Bool) : Bool := (rangeFrom 0 n).all p

/-- Whether some number below `n` meets a test. -/
def anyBelow (n : Nat) (p : Nat → Bool) : Bool := (rangeFrom 0 n).any p

end Sys2Proof.Machine
end

