-- ==== Sys2Proof/Machine/Aes.lean ====
section
/-! DEFINITION. AES-256-XTS, in which the slices hold device memory (R286). The manual names the cipher by IEEE 1619; its steps
are those of FIPS 197 and of that standard (assumption log 73). -/

namespace Sys2Proof.Machine

/-! ### Bytes -/

/-- A byte times the element x, modulo x^8 + x^4 + x^3 + x + 1. -/
def xtime (b : Byte) : Byte := (b <<< 1) ^^^ (if b.msb then 0x1B else 0)

/-- A byte times an element of degree below 4. -/
def gmul (k : Nat) (b : Byte) : Byte :=
  let part (i : Nat) (v : Byte) : Byte := if k.testBit i then v else 0
  part 0 b ^^^ part 1 (xtime b) ^^^ part 2 (xtime (xtime b)) ^^^ part 3 (xtime (xtime (xtime b)))

/-- Byte `a` of a table in rows of 32 bytes, the lowest first. -/
def tableByte (rows : List Nat) (a : Byte) : Byte := BitVec.ofNat 8 (nth 0 rows (a.toNat / 32) >>> (8 * (a.toNat % 32)))

/-- The substitution of a byte. -/
def subByte : Byte → Byte := tableByte
  [0xC072A49CAFA2D4ADF04759FA7DC982CA76ABD7FE2B670130C56F6BF27B777C63,
   0x75B227EBE28012079A059618C323C7041531D871F1E5A534CCF73F362693FDB7,
   0xCF584C4A39BECB6A5BB1FC20ED00D153842FE329B3D63B52A05A6E1B1A2C8309,
   0xD2F3FF1021DAB6BCF5389D928F40A351A89F3C507F02F94585334D43FBAAEFD0,
   0xDB0B5EDE14B8EE4688902A22DC4F816073195D643D7EA7C41744975FEC130CCD,
   0x08AE7A65EAF4566CA94ED58D6D37C8E779E4959162ACD3C25C2406490A3A32E0,
   0x9E1DC186B95735610EF6034866B53E708A8BBD4B1F74DDE8C6B4A61C2E2578BA,
   0x16BB54B00F2D99416842E6BF0D89A18CDF2855CEE9871E9B948ED9691198F8E1]

/-- The inverse of the substitution. -/
def unsubByte : Byte → Byte := tableByte
  [0xCBE9DEC444438E3487FF2F9B8239E37CFBD7F3819EA340BF38A53630D56A0952,
   0x25D18B6D49A25B76B224D92866A12E084EC3FA420B954CEE3D23C2A632947B54,
   0x849D8DA75746155EDAB9EDFD5048706C92B6655DCC5CA4D41698688664F6F872,
   0x6B8A130103BDAFC1020F3FCA8F1E2CD00645B3B80558E4F70AD3BC8C00ABD890,
   0x6EDF751CE837F9E28535ADE72274AC9673E6B4F0CECFF297EADC674F4111913A,
   0xF45ACD78FEC0DB9A2079D2C64B3E56FC1BBE18AA0E62B76F89C5291D711AF147,
   0xEF9CC9939F7AE52D0D4AB519A97F51605FEC8027591012B131C7078833A8DD1F,
   0x7D0C2155631469E126D677BA7E042B17619953833CBBEBC8B0F52AAE4D3BE0A0]

/-! ### Round keys -/

/-- Bytes added one by one. -/
def addBytes (a b : List Byte) : List Byte := (a.zip b).map (fun p => p.1 ^^^ p.2)

/-- Round keys from the bytes of the key: every step adds the four bytes of the next word; `rc` is the round constant. -/
def expandFrom : Nat → Nat → Byte → List Byte → List Byte
  | 0, _, _, ks => ks
  | f + 1, i, rc, ks =>
    let t := ks.drop (4 * i - 4)
    let u := if i % 8 = 0 then addBytes ((t.drop 1 ++ t.take 1).map subByte) [rc, 0, 0, 0]
      else if i % 8 = 4 then t.map subByte
      else t
    expandFrom f (i + 1) (if i % 8 = 0 then xtime rc else rc) (ks ++ addBytes (ks.drop (4 * i - 32)) u)

/-- The round keys of a 32-byte key: 15 of 16 bytes. -/
def expandKey (key : List Byte) : List Byte := expandFrom 52 8 1 key

def roundKey (ks : List Byte) (r : Nat) : List Byte := (ks.drop (16 * r)).take 16

/-! ### The cipher and its inverse -/

/-- Byte r + 4 c of a block moves with its row: row r goes by `k r` columns. -/
def moveRows (k : Nat → Nat) (b : List Byte) : List Byte :=
  (rangeFrom 0 16).map (fun i => nth 0 b (i % 4 + 4 * ((i / 4 + k (i % 4)) % 4)))

/-- Every column of a block times a matrix of the field, of which each row is the one above moved by one place. -/
def mixColumns (m : List Nat) (b : List Byte) : List Byte :=
  (rangeFrom 0 16).map (fun i => (rangeFrom 0 4).foldl
    (fun x j => x ^^^ gmul (nth 0 m ((j + 4 - i % 4) % 4)) (nth 0 b (i / 4 * 4 + j))) 0)

/-- A block of 16 bytes enciphered. -/
def aesEncrypt (ks : List Byte) (b : List Byte) : List Byte :=
  let shifted (b : List Byte) : List Byte := moveRows (fun r => r) (b.map subByte)
  let inner := (rangeFrom 1 13).foldl (fun x r => addBytes (mixColumns [2, 3, 1, 1] (shifted x)) (roundKey ks r))
    (addBytes b (roundKey ks 0))
  addBytes (shifted inner) (roundKey ks 14)

/-- A block of 16 bytes deciphered. -/
def aesDecrypt (ks : List Byte) (b : List Byte) : List Byte :=
  let shifted (b : List Byte) : List Byte := (moveRows (fun r => 4 - r) b).map unsubByte
  let inner := (rangeFrom 1 13).foldl (fun x r => mixColumns [14, 11, 13, 9] (addBytes (shifted x) (roundKey ks (14 - r))))
    (addBytes b (roundKey ks 14))
  addBytes (shifted inner) (roundKey ks 0)

/-! ### XTS -/

/-- The tweak of a block from that of the block before: times the element x of the field of 2^128 elements. -/
def nextTweak (t : Nat) : Nat := t * 2 % 2 ^ 128 ^^^ (if t.testBit 127 then 0x87 else 0)

/-- A data unit in blocks of 16 bytes, each added to its tweak before and after `f`. -/
def xtsBlocks (f : List Byte → List Byte) : Nat → Nat → List Byte → List Byte
  | 0, _, _ => []
  | n + 1, t, bs =>
    let tw := bytesOf 16 t
    addBytes (f (addBytes (bs.take 16) tw)) tw ++ xtsBlocks f n (nextTweak t) (bs.drop 16)

/-- Key `k` of a pair, 32 bytes: key 0 enciphers data, key 1 the tweak. A pair is its eight dwords, the first in the highest
bits, each with its lowest byte first (R3, R334). -/
def keyBytes (pair : Nat) (k : Nat) : List Byte := (rangeFrom 0 4).flatMap (fun i => bytesOf 8 (pair / 2 ^ (64 * (7 - 4 * k - i))))

/-- A data unit of 64 bytes under a key pair, enciphered (`enc`) or deciphered, where `unit` is its number. -/
def xtsUnit (enc : Bool) (pair unit : Nat) (bs : List Byte) : List Byte :=
  let ks := expandKey (keyBytes pair 0)
  let t := numOf (aesEncrypt (expandKey (keyBytes pair 1)) (bytesOf 16 unit))
  xtsBlocks (if enc then aesEncrypt ks else aesDecrypt ks) 4 t bs

end Sys2Proof.Machine
end

