-- ==== Sys2Proof/Machine/Float.lean ====
section
/-! DEFINITION. Number formats and correctly rounded arithmetic (08: R141 to R161; 04: R74 to R81).
Values are exact integers scaled by powers of two, or exact quotients, and are rounded once. -/

namespace Sys2Proof.Machine

/-- A binary format laid out as sign, exponent, fraction (R141, R144). -/
structure Fmt where
  ebits : Nat
  mbits : Nat
  deriving DecidableEq, Repr

/-- FP64 (R141). -/
def fp64 : Fmt := ⟨11, 52⟩
/-- FP32 (R141). -/
def fp32 : Fmt := ⟨8, 23⟩
/-- FP16 (R141). -/
def fp16 : Fmt := ⟨5, 10⟩
/-- BF16 (R141). -/
def bf16 : Fmt := ⟨8, 7⟩
/-- E5M2 (R142). -/
def e5m2 : Fmt := ⟨5, 2⟩
/-- E4M3 as a layout; its special patterns are handled apart (R142). -/
def e4m3 : Fmt := ⟨4, 3⟩
/-- X19 (R144). -/
def x19 : Fmt := ⟨8, 10⟩

/-- The scalar float format of fn[1:0] (R54). -/
def fmtOf (n : Nat) : Fmt :=
  match n with
  | 0 => fp64
  | 1 => fp32
  | 2 => fp16
  | _ => bf16

def Fmt.bias (f : Fmt) : Int := 2 ^ (f.ebits - 1) - 1
/-- Precision: significant bits of a normal number. -/
def Fmt.prec (f : Fmt) : Nat := f.mbits + 1
/-- Exponent of the smallest normal number. -/
def Fmt.emin (f : Fmt) : Int := 1 - f.bias
def Fmt.width (f : Fmt) : Nat := 1 + f.ebits + f.mbits
/-- The all-ones exponent field. -/
def Fmt.emax (f : Fmt) : Nat := 2 ^ f.ebits - 1
/-- Bits of +∞ (R141). -/
def Fmt.infBits (f : Fmt) : Nat := f.emax <<< f.mbits
/-- The canonical quiet NaN (R75); for E5M2 it is 0x7E and for X19 0x3_FE00 by the same layout (R142, R144). -/
def Fmt.nanBits (f : Fmt) : Nat := f.infBits + 2 ^ (f.mbits - 1)
/-- Bits of the largest finite value (R141). -/
def Fmt.maxBits (f : Fmt) : Nat := f.infBits - 1
/-- The sign bit in place. -/
def Fmt.signBits (f : Fmt) (neg : Bool) : Nat := if neg then 2 ^ (f.ebits + f.mbits) else 0

/-- A decoded value: NaN (signalling or not), infinity, or ± m × 2^e. -/
inductive FVal where
  | nan (sig : Bool)
  | inf (neg : Bool)
  | fin (neg : Bool) (m : Nat) (e : Int)
  deriving DecidableEq, Repr

def FVal.isNan : FVal → Bool
  | .nan _ => true
  | _ => false

def FVal.isSig : FVal → Bool
  | .nan s => s
  | _ => false

def FVal.isInf : FVal → Bool
  | .inf _ => true
  | _ => false

def FVal.isZero : FVal → Bool
  | .fin _ m _ => m == 0
  | _ => false

def FVal.neg : FVal → Bool
  | .nan _ => false
  | .inf n => n
  | .fin n _ _ => n

/-- The value with its sign changed when `c` holds. -/
def FVal.flip (c : Bool) : FVal → FVal
  | .nan s => .nan s
  | .inf n => .inf (n != c)
  | .fin n m e => .fin (n != c) m e

/-- Decode the low bits of `x` in format `f` (R141). -/
def fdecode (f : Fmt) (x : Nat) : FVal :=
  let frac := x % 2 ^ f.mbits
  let ex := (x >>> f.mbits) % 2 ^ f.ebits
  let neg := (x >>> (f.ebits + f.mbits)) % 2 == 1
  if ex = f.emax then
    if frac = 0 then .inf neg else .nan (decide (frac < 2 ^ (f.mbits - 1)))
  else if ex = 0 then .fin neg frac (f.emin - f.mbits)
  else .fin neg (2 ^ f.mbits + frac) ((ex : Int) - f.bias - f.mbits)

/-- Decode E4M3: no infinities, NaN only at 0x7F and 0xFF (R142). -/
def decodeE4M3 (x : Nat) : FVal :=
  let frac := x % 8
  let ex := (x >>> 3) % 16
  let neg := (x >>> 7) % 2 == 1
  if ex = 15 ∧ frac = 7 then .nan false
  else if ex = 0 then .fin neg frac (-9)
  else .fin neg (8 + frac) ((ex : Int) - 10)

/-- Decode E5M2: every NaN is quiet (R142). -/
def decodeE5M2 (x : Nat) : FVal :=
  match fdecode e5m2 x with
  | .nan _ => .nan false
  | v => v

/-- Rounding modes (R153). -/
inductive RMode where
  | rne | rtz | rup | rdn
  deriving DecidableEq, Repr

/-- The mode held in the RM field (R18). -/
def rmOf (n : Nat) : RMode :=
  match n with
  | 1 => .rtz
  | 2 => .rup
  | 3 => .rdn
  | _ => .rne

/-- The mode of a rounding field, RM being the dynamic mode (R54, R19). -/
def roundMode (field rm : Nat) : RMode :=
  match field with
  | 1 => .rne
  | 2 => .rtz
  | 3 => .rup
  | 4 => .rdn
  | _ => rmOf rm

/-- IEEE flags as %flags [4:0]: NV 4, DZ 3, OF 2, UF 1, NX 0 (R19). -/
abbrev Flags := BitVec 5

def flNone : Flags := 0
def flNV : Flags := 16
def flDZ : Flags := 8
def flOF : Flags := 4
def flUF : Flags := 2
def flNX : Flags := 1

/-- floor(log2 (num / den)) for positive num and den. -/
def log2Q (num den : Nat) : Int :=
  let l : Int := (Nat.log2 num : Int) - Nat.log2 den
  let ge : Bool := if 0 ≤ l then decide (den <<< l.toNat ≤ num) else decide (den ≤ num <<< (-l).toNat)
  if ge then l else l - 1

/-- The quotient num / den × 2^e over the grid 2^q, rounded: (integer part after rounding, inexact). -/
def roundGrid (mode : RMode) (neg : Bool) (num den : Nat) (e q : Int) : Nat × Bool :=
  let n := if q ≤ e then num <<< (e - q).toNat else num
  let d := if q ≤ e then den else den <<< (q - e).toNat
  let k := n / d
  let r := n % d
  let up : Bool := match mode with
    | .rne => decide (d < 2 * r) || (decide (2 * r = d) && k % 2 == 1)
    | .rtz => false
    | .rup => !neg && decide (r ≠ 0)
    | .rdn => neg && decide (r ≠ 0)
  (if up then k + 1 else k, decide (r ≠ 0))

/-- Encode the integer k on the grid 2^q, where k has at most `prec` bits or is 2^prec. -/
def encodeMag (f : Fmt) (k : Nat) (q : Int) : Nat :=
  let (k, q) := if k = 2 ^ f.prec then (2 ^ f.mbits, q + 1) else (k, q)
  if k < 2 ^ f.mbits then k
  else (((q + f.mbits + f.bias).toNat) <<< f.mbits) + (k - 2 ^ f.mbits)

/-- Round the exact value ± num / den × 2^e (num, den positive) to format `f` once (R153, R75): bits and flags.
Tininess is detected after rounding and UF is raised only with NX. -/
def roundQ (f : Fmt) (mode : RMode) (neg : Bool) (num den : Nat) (e : Int) : Nat × Flags :=
  if num = 0 then (f.signBits neg, flNone) else
  let ex := log2Q num den + e
  let qn := ex - f.mbits
  let q := max qn (f.emin - f.mbits)
  let (k, inex) := roundGrid mode neg num den e q
  let top := f.emin - f.mbits + (f.emax : Int) - 2
  let big : Bool := decide (top < q) || (decide (q = top) && decide (k = 2 ^ f.prec))
  if big then
    let toInf : Bool := match mode with
      | .rne => true
      | .rtz => false
      | .rup => !neg
      | .rdn => neg
    (f.signBits neg + (if toInf then f.infBits else f.maxBits), flOF ||| flNX)
  else
    let tiny : Bool := decide (ex < f.emin) &&
      !(decide (ex = f.emin - 1) && decide ((roundGrid mode neg num den e qn).1 = 2 ^ f.prec))
    (f.signBits neg + encodeMag f k q, if inex then (if tiny then flUF ||| flNX else flNX) else flNone)

/-- Round an exact dyadic value. -/
def roundD (f : Fmt) (mode : RMode) (neg : Bool) (m : Nat) (e : Int) : Nat × Flags := roundQ f mode neg m 1 e

/-- Round an exact integer × 2^e; an exact zero takes the given sign. -/
def roundZ (f : Fmt) (mode : RMode) (i : Int) (e : Int) (zneg : Bool) : Nat × Flags :=
  if i = 0 then (f.signBits zneg, flNone) else roundD f mode (decide (i < 0)) i.natAbs e

/-- The NaN result with NV when a signalling NaN was read (R75). -/
def nanOut (f : Fmt) (sig : Bool) : Nat × Flags := (f.nanBits, if sig then flNV else flNone)

/-- An infinite result. -/
def infOut (f : Fmt) (neg : Bool) : Nat × Flags := (f.signBits neg + f.infBits, flNone)

/-- The signed integer of ± m. -/
def sgn (neg : Bool) (m : Nat) : Int := if neg then -(m : Int) else m

/-- The exact sum of two dyadic values as integer and exponent. -/
def addExact (n1 : Bool) (m1 : Nat) (e1 : Int) (n2 : Bool) (m2 : Nat) (e2 : Int) : Int × Int :=
  let e := min e1 e2
  (sgn n1 (m1 <<< (e1 - e).toNat) + sgn n2 (m2 <<< (e2 - e).toNat), e)

/-- The sign of an exact zero sum: kept when both addends have it, else by the mode (R75). -/
def zeroSign (mode : RMode) (n1 n2 : Bool) : Bool := if n1 = n2 then n1 else decide (mode = .rdn)

/-- Sum of two values whose NaNs have been dealt with (R75). -/
def sumVal (f : Fmt) (mode : RMode) (x y : FVal) : Nat × Flags :=
  match x, y with
  | .inf a, .inf b => if a = b then infOut f a else (f.nanBits, flNV)
  | .inf a, _ => infOut f a
  | _, .inf b => infOut f b
  | .fin n1 m1 e1, .fin n2 m2 e2 =>
    let (i, e) := addExact n1 m1 e1 n2 m2 e2
    roundZ f mode i e (zeroSign mode n1 n2)
  | _, _ => (f.nanBits, flNone)

/-- A + B in format f (R76). -/
def fAdd (f : Fmt) (mode : RMode) (a b : Nat) : Nat × Flags :=
  let x := fdecode f a
  let y := fdecode f b
  if x.isNan || y.isNan then nanOut f (x.isSig || y.isSig) else sumVal f mode x y

/-- A − B (R76). -/
def fSub (f : Fmt) (mode : RMode) (a b : Nat) : Nat × Flags :=
  let x := fdecode f a
  let y := fdecode f b
  if x.isNan || y.isNan then nanOut f (x.isSig || y.isSig) else sumVal f mode x (y.flip true)

/-- The exact product of two values without NaN; none for 0 × ∞. -/
def prodVal (x y : FVal) : Option FVal :=
  match x, y with
  | .inf a, .inf b => some (.inf (a != b))
  | .inf a, .fin n m _ => if m = 0 then none else some (.inf (a != n))
  | .fin n m _, .inf b => if m = 0 then none else some (.inf (n != b))
  | .fin n1 m1 e1, .fin n2 m2 e2 => some (.fin (n1 != n2) (m1 * m2) (e1 + e2))
  | _, _ => none

/-- A × B (R76). -/
def fMul (f : Fmt) (mode : RMode) (a b : Nat) : Nat × Flags :=
  let x := fdecode f a
  let y := fdecode f b
  if x.isNan || y.isNan then nanOut f (x.isSig || y.isSig) else
  match prodVal x y with
  | none => (f.nanBits, flNV)
  | some (.inf n) => infOut f n
  | some (.fin n m e) => if m = 0 then (f.signBits n, flNone) else roundD f mode n m e
  | some (.nan _) => (f.nanBits, flNone)

/-- (±A × B) + (±C) with one rounding (R76); 0 × ∞ raises NV even beside a quiet NaN (R75). -/
def fFma (f : Fmt) (mode : RMode) (np na : Bool) (a b c : Nat) : Nat × Flags :=
  let x := (fdecode f a).flip np
  let y := fdecode f b
  let z := (fdecode f c).flip na
  let bad : Bool := (x.isZero && y.isInf) || (x.isInf && y.isZero)
  if x.isNan || y.isNan then nanOut f (x.isSig || y.isSig || z.isSig)
  else if bad then (f.nanBits, flNV)
  else if z.isNan then nanOut f z.isSig
  else match prodVal x y with
    | none => (f.nanBits, flNV)
    | some p => sumVal f mode p z

/-- Numerical order of two values without NaN: x < y, −0 equal to +0. -/
def valLt (x y : FVal) : Bool :=
  match x, y with
  | .inf a, .inf b => a && !b
  | .inf a, _ => a
  | _, .inf b => !b
  | .fin n1 m1 e1, .fin n2 m2 e2 => decide ((addExact n1 m1 e1 (!n2) m2 e2).1 < 0)
  | _, _ => false

/-- Numerical equality of two values without NaN. -/
def valEq (x y : FVal) : Bool := !valLt x y && !valLt y x && !x.isNan && !y.isNan

/-- fmin and fmax (R76): −0 below +0; a NaN beside a number yields the number. -/
def fMinMax (f : Fmt) (isMax : Bool) (a b : Nat) : Nat × Flags :=
  let a := a % 2 ^ f.width
  let b := b % 2 ^ f.width
  let x := fdecode f a
  let y := fdecode f b
  let fl := if x.isSig || y.isSig then flNV else flNone
  if x.isNan && y.isNan then (f.nanBits, fl)
  else if x.isNan then (b, fl)
  else if y.isNan then (a, fl)
  else
    let less : Bool := valLt x y || (valEq x y && x.neg && !y.neg)
    (if less != isMax then a else b, fl)

/-- fcmp (R77): the predicate and the flags. -/
def fCmp (f : Fmt) (cond : Nat) (a b : Nat) : Bool × Flags :=
  let x := fdecode f a
  let y := fdecode f b
  let un : Bool := x.isNan || y.isNan
  let sig : Bool := x.isSig || y.isSig
  let any : Bool := decide (2 ≤ cond) && decide (cond ≤ 5)
  let fl := if (any && un) || sig then flNV else flNone
  let t : Bool := match cond with
    | 0 => !un && valEq x y
    | 1 => un || !valEq x y
    | 2 => !un && valLt x y
    | 3 => !un && !valLt y x
    | 4 => !un && valLt y x
    | 5 => !un && !valLt x y
    | 6 => un
    | _ => !un
  (t, fl)

/-- fclass mask (R77). -/
def fClass (f : Fmt) (a : Nat) : Nat :=
  match fdecode f a with
  | .nan true => 256
  | .nan false => 512
  | .inf true => 1
  | .inf false => 128
  | .fin n m _ =>
    if m = 0 then (if n then 8 else 16)
    else if m < 2 ^ f.mbits then (if n then 4 else 32)
    else (if n then 2 else 64)

/-- fsgn (R76): codes 0 `.cp`, 1 `.cn`, 2 `.cx`; NaN bits pass unchanged. -/
def fSgn (f : Fmt) (code : Nat) (a b : Nat) : Nat :=
  let top := f.ebits + f.mbits
  let sa := (a >>> top) % 2 == 1
  let sb := (b >>> top) % 2 == 1
  let s : Bool := match code with
    | 0 => sb
    | 1 => !sb
    | _ => sa != sb
  a % 2 ^ top + f.signBits s

/-- Float to float, from an already decoded value (R78, R75). -/
def cvtVal (g : Fmt) (mode : RMode) (x : FVal) : Nat × Flags :=
  match x with
  | .nan s => nanOut g s
  | .inf n => infOut g n
  | .fin n m e => if m = 0 then (g.signBits n, flNone) else roundD g mode n m e

/-- Float to E4M3 (R78): magnitudes above 448 give ±448 with OF and NX; ±∞ gives the NaN of its sign with NV. -/
def cvtE4M3 (mode : RMode) (x : FVal) : Nat × Flags :=
  match x with
  | .nan s => (0x7F, if s then flNV else flNone)
  | .inf n => (if n then 0xFF else 0x7F, flNV)
  | .fin n m e =>
    let sb := if n then 128 else 0
    if m = 0 then (sb, flNone) else
    let ex := log2Q m 1 + e
    let qn := ex - 3
    let q := max qn (-9)
    let (k, inex) := roundGrid mode n m 1 e q
    let isOver : Bool := decide (5 < q) || (decide (q = 5) && decide (14 < k))
    if isOver then (sb + 0x7E, flOF ||| flNX)
    else
      let tiny : Bool := decide (ex < -6) && !(decide (ex = -7) && decide ((roundGrid mode n m 1 e qn).1 = 16))
      (sb + encodeMag e4m3 k q, if inex then (if tiny then flUF ||| flNX else flNX) else flNone)

/-- Float to E5M2 (R78): overflow under IEEE 754, a NaN gives 0x7E. -/
def cvtE5M2 (mode : RMode) (x : FVal) : Nat × Flags := cvtVal e5m2 mode x

/-- Float to integer between lo and hi (R78): the integer and the flags. -/
def cvtInt (lo hi : Int) (mode : RMode) (x : FVal) : Int × Flags :=
  match x with
  | .nan _ => (0, flNV)
  | .inf n => (if n then lo else hi, flNV)
  | .fin n m e =>
    let (k, inex) := roundGrid mode n m 1 e 0
    let v := sgn n k
    if v < lo then (lo, flNV) else if hi < v then (hi, flNV)
    else (v, if inex then flNX else flNone)

/-- Integer to float (R78). -/
def cvtFromInt (f : Fmt) (mode : RMode) (i : Int) : Nat × Flags := roundZ f mode i 0 false

/-- fcvt under conversion code fn[10:7] (R78). -/
def fCvt (f : Fmt) (mode : RMode) (code : Nat) (a : Word) : Word × Flags :=
  let x := fdecode f a.toNat
  let w (p : Nat × Flags) : Word × Flags := (BitVec.ofNat 64 p.1, p.2)
  let i (p : Int × Flags) : Word × Flags := (wordOfInt p.1, p.2)
  match code with
  | 0 => w (cvtVal fp64 mode x)
  | 1 => w (cvtVal fp32 mode x)
  | 2 => w (cvtVal fp16 mode x)
  | 3 => w (cvtVal bf16 mode x)
  | 4 => i (cvtInt (-2 ^ 63) (2 ^ 63 - 1) mode x)
  | 5 => i (cvtInt 0 (2 ^ 64 - 1) mode x)
  | 6 => i (cvtInt (-2 ^ 31) (2 ^ 31 - 1) mode x)
  | 7 => i (cvtInt 0 (2 ^ 32 - 1) mode x)
  | 8 => w (cvtFromInt f mode a.toInt)
  | 9 => w (cvtFromInt f mode a.toNat)
  | 10 => w (cvtFromInt f mode (sgnN 32 a.toNat))
  | 11 => w (cvtFromInt f mode ((a.toNat % 2 ^ 32 : Nat) : Int))
  | 12 => w (cvtE4M3 mode x)
  | 13 => w (cvtE5M2 mode x)
  | 14 => w (cvtVal f mode (decodeE4M3 (a.toNat % 256)))
  | _ => w (cvtVal f mode (decodeE5M2 (a.toNat % 256)))

/-! ### Estimates and Newton steps (R80, R81) -/

/-- floor(√n), by deciding the result bit by bit from bit `k` down. -/
def isqrtBits (n : Nat) : Nat → Nat → Nat
  | 0, r => r
  | k + 1, r => let t := r + 2 ^ k
    isqrtBits n k (if t * t ≤ n then t else r)

/-- floor(√n). -/
def isqrt (n : Nat) : Nat := isqrtBits n (Nat.log2 n / 2 + 1) 0

/-- Significant bits kept by an estimate: P = min(15, p) (R80). -/
def Fmt.estBits (f : Fmt) : Nat := min 15 f.prec

/-- Truncate the positive value given by `floorAt q = floor(y / 2^q)` (and whether that is exact) to P
significant bits, then to the subnormal grid (R80). `ex` is floor(log2 y). -/
def truncEst (f : Fmt) (neg : Bool) (ex : Int) (floorAt : Int → Nat × Bool) : Nat × Flags :=
  let q1 := ex - ((f.estBits : Int) - 1)
  let (k1, exact1) := floorAt q1
  let qs := f.emin - f.mbits
  if f.emax - 1 - f.bias < ex then (f.signBits neg + f.infBits, flOF ||| flNX)
  else if q1 < qs then
    let k2 := k1 >>> (qs - q1).toNat
    let same : Bool := exact1 && decide (k2 <<< (qs - q1).toNat = k1)
    let tiny : Bool := decide (ex < f.emin)
    (f.signBits neg + encodeMag f k2 qs, if tiny && !same then flUF ||| flNX else flNone)
  else
    let tiny : Bool := decide (ex < f.emin)
    let (m, e) : Nat × Int := (k1, q1)
    let sh := (e - max (ex - f.mbits) qs).toNat
    (f.signBits neg + encodeMag f (m <<< sh) (max (ex - f.mbits) qs), if tiny && !exact1 then flUF ||| flNX else flNone)

/-- floor(num / den / 2^q) and whether it is exact. -/
def floorQ (num den : Nat) (q : Int) : Nat × Bool :=
  let n := if q ≤ 0 then num <<< (-q).toNat else num
  let d := if q ≤ 0 then den else den <<< q.toNat
  (n / d, decide (n % d = 0))

/-- frcp (R80). -/
def fRcp (f : Fmt) (a : Nat) : Nat × Flags :=
  match fdecode f a with
  | .nan s => nanOut f s
  | .inf n => (f.signBits n, flNone)
  | .fin n m e =>
    if m = 0 then (f.signBits n + f.infBits, flDZ)
    else truncEst f n (log2Q 1 m - e) (fun q => floorQ 1 m (q + e))

/-- frsq (R80). -/
def fRsq (f : Fmt) (a : Nat) : Nat × Flags :=
  match fdecode f a with
  | .nan s => nanOut f s
  | .inf n => if n then (f.nanBits, flNV) else (0, flNone)
  | .fin n m e =>
    if m = 0 then (f.signBits n + f.infBits, flDZ)
    else if n then (f.nanBits, flNV)
    else
      -- make the exponent even, so that 1/√(m × 2^(2h)) = 2^-h / √m
      let m := if e % 2 = 0 then m else m * 2
      let h := (if e % 2 = 0 then e else e - 1) / 2
      -- floor(2^-h / √m / 2^q) = floor(√(2^(2 × (-h-q)) / m))
      let at' (q : Int) : Nat × Bool :=
        let s := -h - q
        let x := if 0 ≤ s then (2 ^ (2 * s.toNat)) / m else 0
        let r := isqrt x
        (r, decide (0 ≤ s) && decide (r * r * m = 2 ^ (2 * s.toNat)))
      -- floor(log2): try the larger candidate first
      let l := Nat.log2 m
      let c : Int := -h - (l / 2 : Nat)
      let ex := if 1 ≤ (at' c).1 then c else c - 1
      truncEst f false ex at'

/-- The exact value u − A × v for dyadic A, v and small integer u, as integer and exponent. -/
def subMul (u : Nat) (x : Int × Int) : Int × Int :=
  let e := min x.2 0
  ((u : Int) * 2 ^ (-e).toNat - x.1 * 2 ^ (x.2 - e).toNat, e)

/-- frcpr and frsqr (R81): one Newton step on the estimate B. The sign of a step whose exact value is zero is the model's
choice: the inner difference is a zero as R75 gives for a sum, -0 in RDN and +0 in the other modes, and the product with B
takes the sign of both (assumption log 71). -/
def fNewton (f : Fmt) (mode : RMode) (rsq : Bool) (a b : Nat) : Nat × Flags :=
  let b := b % 2 ^ f.width
  match fdecode f b with
  | .nan _ => (b, flNone)
  | .inf _ => (b, flNone)
  | .fin nb mb eb =>
    if mb = 0 then (b, flNone) else
    match fdecode f a with
    | .nan s => nanOut f s
    | .inf na =>
      -- B × (2 − A × B) and B × (3 − A × B × B) / 2 with A infinite
      let inner : Bool := if rsq then !na else !(na != nb)
      infOut f (nb != inner)
    | .fin na ma ea =>
      let ab : Int × Int := (sgn (na != nb) (ma * mb), ea + eb)
      let t : Int × Int := if rsq then subMul 3 (ab.1 * sgn nb mb, ab.2 + eb) else subMul 2 ab
      let y : Int × Int := (t.1 * sgn nb mb, t.2 + eb - (if rsq then 1 else 0))
      roundZ f mode y.1 y.2 ((decide (mode = .rdn)) != nb)

/-! ### Correctly rounded functions (R79): fixed point with 400 fraction bits and a sticky bit -/

/-- Fraction bits of the fixed-point evaluation. -/
def fxBits : Nat := 400

/-- floor(π × 2^400). -/
def fxPi : Nat := 0x3243f6a8885a308d313198a2e03707344a4093822299f31d0082efa98ec4e6c89452821e638d01377be5466cf34e90c6cc0ac

/-- floor(ln 2 × 2^400). -/
def fxLn2 : Nat := 0xb17217f7d1cf79abc9e3b39803f2f6af40f343267298b62d8a0d175b8baafa2be7b876206debac98559552fb4afa1b10ed2e

/-- Σ x^n / n! with fixed-point x below 1, `t` the term n − 1. -/
def fxExpGo (x : Nat) : Nat → Nat → Nat → Nat
  | 0, _, _ => 0
  | k + 1, n, t =>
    let t' := ((t * x) >>> fxBits) / n
    t + (if t' = 0 then 0 else fxExpGo x k (n + 1) t')

/-- exp of a fixed-point number below 1. -/
def fxExp (x : Nat) : Nat := fxExpGo x 130 1 (2 ^ fxBits)

/-- 2^fr for a fixed-point fraction below 1. -/
def fxExp2 (fr : Nat) : Nat := fxExp ((fr * fxLn2) >>> fxBits)

/-- Σ z^(2i+1) / (2i+1). -/
def fxAtanhGo (z2 : Nat) : Nat → Nat → Nat → Nat
  | 0, _, _ => 0
  | k + 1, n, p => if p = 0 then 0 else p / n + fxAtanhGo z2 k (n + 2) ((p * z2) >>> fxBits)

/-- ln of a fixed-point number in [1, 2]: 2 atanh((m − 1) / (m + 1)). -/
def fxLn (m : Nat) : Nat :=
  let z := ((m - 2 ^ fxBits) <<< fxBits) / (m + 2 ^ fxBits)
  2 * fxAtanhGo ((z * z) >>> fxBits) 140 1 z

/-- Σ ± x^(2i+1) / (2i+1)! . -/
def fxSinGo (x2 : Nat) : Nat → Nat → Nat → Int
  | 0, _, _ => 0
  | k + 1, n, t => if t = 0 then 0 else (t : Int) - fxSinGo x2 k (n + 2) (((t * x2) >>> fxBits) / ((n + 1) * (n + 2)))

/-- sin of a fixed-point number in [0, π/2]. -/
def fxSin (x : Nat) : Nat := (fxSinGo ((x * x) >>> fxBits) 100 1 x).toNat

/-- Round an inexact positive value known as floor(y × 2^s) with a sticky bit. -/
def roundSticky (f : Fmt) (mode : RMode) (neg : Bool) (k : Nat) (s : Nat) : Nat × Flags :=
  roundD f mode neg (2 * k + 1) (-(s : Int) - 1)

/-- m × 2^e as a fixed-point number, truncated. -/
def toFx (m : Nat) (e : Int) : Nat :=
  let s := e + fxBits
  if 0 ≤ s then m <<< s.toNat else m >>> (-s).toNat

/-- 2^A for finite non-zero A = ± m × 2^e. -/
def fExp2 (f : Fmt) (mode : RMode) (neg : Bool) (m : Nat) (e : Int) : Nat × Flags :=
  let big : Bool := decide (12 < log2Q m 1 + e)
  if big then
    (if neg then roundSticky f mode false 0 4000 else roundD f mode false 1 4000)
  else if log2Q m 1 + e < -200 then
    -- 1 ± a quantity far below the grid
    (if neg then roundSticky f mode false (2 ^ 200 - 1) 200 else roundSticky f mode false (2 ^ 200) 200)
  else
    let v : Int := sgn neg (toFx m e)
    let n := v / 2 ^ fxBits
    let fr := (v % 2 ^ fxBits).toNat
    if fr = 0 then roundD f mode false 1 n
    else roundD f mode false (2 * fxExp2 fr + 1) (n - fxBits - 1)

/-- log2 A for positive A = m × 2^e. -/
def fLog2 (f : Fmt) (mode : RMode) (m : Nat) (e : Int) : Nat × Flags :=
  let l := Nat.log2 m
  let n : Int := (l : Int) + e
  if m = 2 ^ l then roundZ f mode n 0 false
  else
    let fx := m <<< (fxBits - l)
    let lg := (fxLn fx <<< fxBits) / fxLn2
    let v : Int := n * 2 ^ fxBits + lg
    if v < 0 then roundSticky f mode true ((-v).toNat - 1) fxBits else roundSticky f mode false v.toNat fxBits

/-- sin(2πA) for finite non-zero A = ± m × 2^e. -/
def fSin (f : Fmt) (mode : RMode) (neg : Bool) (m : Nat) (e : Int) : Nat × Flags :=
  if log2Q m 1 + e < -100 then
    -- sin(2πA) is 2πA but for a relative quantity far below the grid
    roundD f mode neg (2 * (m * fxPi) - 1) (e - fxBits)
  else if 0 ≤ e then (0, flNone)
  else
    let d := 2 ^ (-e).toNat
    let r := m % d                      -- A mod 1 = r / d
    let half : Bool := decide (d ≤ 2 * r)
    let r := if half then r - d / 2 else r
    let sneg : Bool := neg != half
    if r = 0 then (0, flNone)
    else if 4 * r = d then roundD f mode sneg 1 0
    else
      let r := if d < 4 * r then d / 2 - r else r
      let x := (2 * fxPi * r) / d
      roundSticky f mode sneg (fxSin x) fxBits

/-- tanh A for finite non-zero A = ± m × 2^e. -/
def fTanh (f : Fmt) (mode : RMode) (neg : Bool) (m : Nat) (e : Int) : Nat × Flags :=
  let ex := log2Q m 1 + e
  if ex < -60 then roundD f mode neg (m * 2 ^ 100 - 1) (e - 100)
  else if 7 < ex then roundSticky f mode neg (2 ^ 200 - 1) 200
  else
    -- E = e^(2x) = 2^(2x / ln 2)
    let y := (2 * toFx m e <<< fxBits) / fxLn2
    let n := y >>> fxBits
    let fr := y % 2 ^ fxBits
    let ee := fxExp2 fr <<< n
    roundSticky f mode neg (((ee - 2 ^ fxBits) <<< fxBits) / (ee + 2 ^ fxBits)) fxBits

/-- fsfn: 0 exp2, 1 log2, 2 sin, 3 tanh (R79). -/
def fSfn (f : Fmt) (mode : RMode) (fun' : Nat) (a : Nat) : Nat × Flags :=
  match fdecode f a with
  | .nan s => nanOut f s
  | .inf n =>
    match fun' with
    | 0 => if n then (0, flNone) else infOut f false
    | 1 => if n then (f.nanBits, flNV) else infOut f false
    | 2 => (f.nanBits, flNV)
    | _ => roundD f mode n 1 0
  | .fin n m e =>
    match fun' with
    | 0 => if m = 0 then roundD f mode false 1 0 else fExp2 f mode n m e
    | 1 => if m = 0 then (f.signBits true + f.infBits, flDZ)
      else if n then (f.nanBits, flNV) else fLog2 f mode m e
    | 2 => if m = 0 then (f.signBits n, flNone) else fSin f mode n m e
    | _ => if m = 0 then (f.signBits n, flNone) else fTanh f mode n m e

/-! ### X19, QC4 and A80 (R144 to R161) -/

/-- RoundX19 (R145): once to nearest even; a result of zero becomes +0. -/
def roundX19 (neg : Bool) (num den : Nat) (e : Int) : Nat :=
  let r := (roundQ x19 .rne neg num den e).1
  if r % 2 ^ 18 = 0 then 0 else r

/-- FP16, BF16, E4M3, E5M2 and FP32 values into X19 (R145). -/
def toX19 (v : FVal) : Nat :=
  match v with
  | .nan _ => x19.nanBits
  | .inf n => x19.signBits n + x19.infBits
  | .fin n m e => if m = 0 then x19.signBits n else roundX19 n m 1 e

/-- The QC4 levels L(c) × 256 (R146). -/
def qc4Level (c : Nat) : Int :=
  nth 0 [-256, -181, -139, -107, -80, -55, -33, -11, 11, 33, 55, 80, 107, 139, 181, 256] c

/-- An exact QC4 element (R147): special or ± num / den × 2^e. -/
inductive QVal where
  | zero
  | nan
  | inf (neg : Bool)
  | quo (neg : Bool) (num den : Nat) (e : Int)
  deriving DecidableEq, Repr

/-- The value L(c) × (q / 255) × S (R147). -/
def qc4Val (c q s : Nat) : QVal :=
  if q = 0 then .zero else
  let l := qc4Level c
  match fdecode fp32 s with
  | .nan _ => .nan
  | .inf n => .inf (n != decide (l < 0))
  | .fin n m e => if m = 0 then .zero else .quo (n != decide (l < 0)) (l.natAbs * q * m) 255 (e - 8)

/-- A QC4 element in X19 (R147). -/
def qc4ToX19 (c q s : Nat) : Nat :=
  match qc4Val c q s with
  | .zero => 0
  | .nan => x19.nanBits
  | .inf n => x19.signBits n + x19.infBits
  | .quo n a b e => roundX19 n a b e

/-- A QC4 element in a float format, rounded once (R147, R152). A signalling NaN in the super-scale raises nothing, which is
the model's choice (assumption log 71). -/
def qc4ToF (f : Fmt) (mode : RMode) (c q s : Nat) : Nat × Flags :=
  match qc4Val c q s with
  | .zero => (0, flNone)
  | .nan => nanOut f false
  | .inf n => infOut f n
  | .quo n a b e => roundQ f mode n a b e

/-- X(x) of a finite non-zero X19 value: floor(log2 |x|) (R144). -/
def x19Exp (x : Nat) : Option Int :=
  match fdecode x19 x with
  | .fin _ m e => if m = 0 then none else some (log2Q m 1 + e)
  | _ => none

/-- floor(i × 2^e) toward minus infinity. -/
def floorScale (i : Int) (e : Int) : Int := if 0 ≤ e then i * 2 ^ e.toNat else i / 2 ^ (-e).toNat

/-- PlaceProduct of two values at anchor e (R157): the integer and whether OVF is set. -/
def placeVal (x y : FVal) (e : Int) : Int × Bool :=
  match x, y with
  | .nan _, _ => (0, true)
  | _, .nan _ => (0, true)
  | .inf a, .inf b => (sgn (a != b) (2 ^ 63 - 1), true)
  | .inf a, .fin n m _ => if m = 0 then (0, true) else (sgn (a != n) (2 ^ 63 - 1), true)
  | .fin n m _, .inf b => if m = 0 then (0, true) else (sgn (n != b) (2 ^ 63 - 1), true)
  | .fin n1 m1 e1, .fin n2 m2 e2 =>
    let m := m1 * m2
    let neg := n1 != n2
    if m = 0 then (0, false)
    else if e + 63 ≤ log2Q m 1 + e1 + e2 then (sgn neg (2 ^ 63 - 1), true)
    else (floorScale (sgn neg m) (e1 + e2 - e), false)

/-- The value of a tile cell: X19, or an I8 integer (R190). -/
def cellVal (i8 : Bool) (x : Nat) : FVal :=
  if i8 then (let i := sgnN 8 x; .fin (decide (i < 0)) i.natAbs 0) else fdecode x19 x

/-- Realign (R160): the integer and whether OVF is set. -/
def realign (m f e : Int) : Int × Bool :=
  if e ≤ f then
    let v := m * 2 ^ (f - e).toNat
    if (2 : Int) ^ 79 - 1 < v then (2 ^ 79 - 1, true)
    else if v < -((2 : Int) ^ 79 - 1) then (-(2 ^ 79 - 1), true)
    else (v, false)
  else (m / 2 ^ (e - f).toNat, false)

/-- Conversion of an A80 cell m at anchor e to a float format (R161). -/
def a80ToF (f : Fmt) (mode : RMode) (m : BitVec 80) (e : Int) : Nat × Flags := roundZ f mode m.toInt e false

end Sys2Proof.Machine
end

