-- ==== Sys2Proof/Machine/State.lean ====
section
/-! DEFINITION. The state of a panel of 64 devices as plain data: every register, table, queue and
engine the manual names, with the reset state. A core is named by its %core [14:0], device x 512 + core
identifier (R9, R32). Tables are `SMap`s; an unlisted key stands for the entry named beside the table. -/

namespace Sys2Proof.Machine

/-! ### Registers -/

/-- One scalar-file entry: value, full/empty bit, whether a producer is outstanding, poison bit and
provenance tag (R15, R21, R24). -/
structure Entry where
  val : Word := 0
  full : Bool := true
  pend : Bool := false
  poison : Bool := false
  tag : BitVec 12 := 0
  deriving DecidableEq, Repr

/-- One vector register (R15, R162). -/
structure VReg where
  val : VData := 0
  full : Bool := true
  pend : Bool := false
  deriving DecidableEq, Repr

/-- One tile register: cells by row x 64 + column, and its full/empty bit (R190, R193). -/
structure Tile where
  cells : SMap (BitVec 20) := []
  full : Bool := true
  pend : Bool := false
  deriving DecidableEq, Repr

/-- One accumulator tile: cells, anchor, UNSET, OVF and full/empty bit (R156, R192). The anchor 0 of an accumulator that is
UNSET at reset, which `tanch.rd` reads, is the model's choice: the manual gives none (assumption log 3). -/
structure Acc where
  cells : SMap (BitVec 80) := []
  anchor : Int := 0
  unset : Bool := true
  ovf : Bool := false
  full : Bool := true
  pend : Bool := false
  deriving DecidableEq, Repr

/-- A cause, its subcode and the value for %tval (R55). -/
structure Trap where
  cause : Nat
  sub : Nat
  val : Word
  deriving DecidableEq, Repr

/-- One entry of a port (R50, R127): `key` names the instruction whose reservation it is while unfilled;
`writer` is the slot that pushed it (R134). -/
structure PEntry where
  val : Word
  filled : Bool := true
  poison : Bool := false
  tag : BitVec 12 := 0
  key : Nat := 0
  writer : Nat := 0
  /-- in a load-value queue: the trap that the instruction took in place of a value (R217) -/
  trap : Option Trap := none
  deriving DecidableEq, Repr

/-- Where a completion puts a scalar result: a scalar-file entry, a port reservation, the run queue, a
predicate of the slot, or nowhere (R21, R50). -/
inductive Dst where
  | none
  | reg (e : Nat)
  | port (spec key : Nat)
  | runq
  | pred (n : Nat)
  deriving DecidableEq, Repr

/-- An entry that an instruction popped at its issue, kept until it can no longer trap (R5): the port, the entry,
whether a message-queue entry is of a system kind, and the hand-over slot before a mailbox's pop. -/
structure Popped where
  spec : Nat
  ent : PEntry
  sys : Bool := false
  hand : Option Nat := none
  deriving DecidableEq, Repr

/-- What a LOST or SILENT_MISMATCH record says (R114, R219). -/
structure LostRec where
  kind : Nat := 2
  cause : Nat
  tag : Nat := 0
  nested : Bool := false
  tepc : Nat := 0
  tval : Nat := 0
  deriving DecidableEq, Repr

/-! ### Places -/

/-- Where an address leads (R94, R275): a byte of a scratchpad, of a device's memory, an address of PCI
Express, or a translated address of another device of the panel. -/
inductive Loc where
  | pad (core off : Nat)
  | dram (dev pa : Nat)
  | pci (dev addr : Nat)
  | far (dev va : Nat)
  deriving DecidableEq, Repr

/-! ### Waits -/

/-- What a slot out of rotation waits for; it rejoins at the first round start after every wait named is
over (R27). -/
inductive Wait where
  | reg (e : Nat)
  | regFree (e : Nat)
  | vreg (core v : Nat)
  | vregFree (v : Nat)
  | tile (n : Nat)
  | acc (n : Nat)
  | tileFull (n : Nat)
  | accFull (n : Nat)
  | filled (spec n : Nat)
  | room (spec : Nat)
  | runqRoom (pr : Nat)
  | runqPlaced
  | access (id : Nat)
  | drain
  | rbRoom
  | apart (l : Loc) (n : Nat)
  | gone (ids jobs : List Nat)
  | replyRoom
  | message
  | sem (n : Nat)
  | barrier
  | chain (n : Nat)
  | book (slot : Nat)
  | seqRoom
  | kickIn
  | tokenRoom
  | vectorIdle
  | vector (id : Nat)
  | unitIdle
  | unitPlace
  | unitReads (tile : Bool) (n : Nat)
  | lvq (n : Nat)
  | lvqRoom (n : Nat)
  | cmpRoom
  | cmpMatch
  | cmpEmpty
  | walk (space page : Nat)
  | tlbRemoval
  | spilled
  | killed
  | placement (l : List (Nat × Nat × Nat))
  | over
  deriving DecidableEq, Repr

/-- What a slot is doing: no task, in rotation, out of rotation, or ended with its windows kept for its
gang (R25, R29, R230). -/
inductive Run where
  | free
  | ready
  | out (ws : List Wait)
  | ended
  deriving DecidableEq, Repr

/-- Why a slot is being spilled (R117): the headframe's watchdog, priority, an escalated trap with its
nested mark, a host discard, a checkpoint, or a gang member's spill. -/
inductive SpillWhy where
  | watchdog
  | priority
  | trap
  | discard
  | checkpoint
  | gang
  deriving DecidableEq, Repr

/-- A message-queue entry (R135) and whether it is of a system kind (R136). -/
structure Msg where
  word : Word
  sys : Bool
  deriving DecidableEq, Repr

/-- A thread slot (R15, R32). -/
structure Slot where
  run : Run := .free
  pc : BitVec 56 := 0
  preds : Word := 1
  trapEn : BitVec 5 := 0
  tvec : Word := 0
  tcause : Word := 0
  tepc : Word := 0
  tval : Word := 0
  hmode : Bool := false
  /-- %timer as of cycle `timerFrom` (R35) -/
  timer : Word := 0
  timerFrom : Nat := 0
  timerHit : Bool := false
  vshape : Word := 0x0808
  taskw : Word := 0
  savearea : Word := 0
  space : Nat := 0
  sbase : Nat := 0
  scount : Nat := 0
  vbase : Nat := 0
  vcount : Nat := 0
  msgs : List Msg := []
  booked : Nat := 0
  /-- the task's record in the headframe (R290) -/
  task : Nat := 0
  matrix : Bool := false
  haulage : Bool := false
  gang : Bool := false
  paired : Bool := false
  level : Bool := false
  /-- acquires and release fences not yet satisfied: access, scope (R104); scope, accesses, jobs (R105) -/
  acqs : List (Nat × Nat) := []
  rels : List (Nat × List Nat × List Nat) := []
  /-- a trap to be taken at the next turn (R111) -/
  hit : Option Trap := none
  spill : Option SpillWhy := none
  nested : Bool := false
  /-- the record of a kill whose outstanding accesses are not complete (R116) -/
  kill : Option LostRec := none
  /-- arrived at the gang barrier (R231) -/
  arrived : Bool := false
  /-- a trailing slot whose effect is compared and whose value is still to come: where the value goes, the
  instruction's address, and the access whose reply it is, 0 while the effect is not performed (R218) -/
  pairWait : Option (Dst × BitVec 56 × Nat) := none
  /-- start of the watchdog interval, and the cycles that it had counted before this seating (R304) -/
  dogFrom : Nat := 0
  dogRan : Nat := 0
  /-- the range of a `tlbi` that waits for its removals; length 0 is every page (R284) -/
  tlbi : Option (Nat × Nat) := none
  /-- a killed gang member whose task starts again in this slot (R230) -/
  again : Bool := false
  /-- the hand-over slot of the haulage task (R256) -/
  handover : Option Nat := none
  deriving DecidableEq, Repr

/-! ### Accesses -/

/-- Home ports (R94, R100, R138, R140, R215, R232, R260, R353). -/
inductive Home where
  | bank (core b : Nat)
  | memPort (core : Nat)
  | slice (dev n : Nat)
  | claims (core : Nat)
  | msgs (core : Nat)
  | kicks (core : Nat)
  | chains (core : Nat)
  | part (dev die : Nat)
  | tokens (dev : Nat)
  | root (dev die tag : Nat)
  | host (dev : Nat)
  deriving DecidableEq, Repr

/-- Where an access is (R100, R101, R236, R352): held in RB, in a channel, in its home FIFO, in a hold
queue, in the pending-join table, refused and waiting for its back-off, answered, or waiting at runq for room
(R50). -/
inductive Stage where
  | held
  | sent
  | queued
  | hold
  | parked
  | refused
  | replied
  | placing
  deriving DecidableEq, Repr

/-- What a home port performs. -/
inductive AKind where
  | ld (sgn : Bool)
  | st
  | amo (op : Nat) (sgn ret : Bool)
  | cas (sgn : Bool)
  | vread
  | vwrite
  | dlv
  | send
  | am
  | kick
  | spawn
  | sljoin
  | slsend
  | lvget (item : Nat)
  | lvcommit
  | tokq
  | stt
  | stw
  | hsub
  | hleave
  | gquery
  | gfree
  | card (stream : Bool) (sm : Nat) (out : Bool)
  | jwrite
  | jamo (op : Nat)
  | mcast
  | notice (ok : Bool)
  | query (hold : Nat)
  | answer (ok : Bool)
  deriving DecidableEq, Repr

/-- One element of a vector or tile access: its index k, address, place, size and data (R183, R186). -/
structure Elem where
  k : Nat
  va : Nat
  loc : Loc
  n : Nat
  dat : Nat
  deriving DecidableEq, Repr

/-- What a home answers. -/
structure Reply where
  val : Word := 0
  poison : Bool := false
  tag : BitVec 12 := 0
  trap : Option Trap := none
  refused : Bool := false
  elems : List Elem := []
  deriving DecidableEq, Repr

/-- One access in flight (R100, R101): requester, home, operands, destination, what must complete before
it is sent (R104, R105), and its answer. -/
structure Access where
  id : Nat
  kind : AKind
  core : Nat
  slot : Nat
  taskw : Word
  space : Nat
  home : Home
  stage : Stage := .sent
  relaxed : Bool := false
  pc : BitVec 56 := 0
  va : Nat := 0
  loc : Loc := .pad 0 0
  n : Nat := 0
  val : Word := 0
  aux : Word := 0
  bulk : List Nat := []
  elems : List Elem := []
  dst : Dst := .none
  /-- whether the destination was full at issue -/
  dstWas : Bool := true
  /-- the vector operation or job it belongs to; 0 is none -/
  par : Nat := 0
  jobNo : Nat := 0
  after : List Nat := []
  afterJobs : List Nat := []
  acq : Option Nat := none
  /-- what its instruction popped, to be put back if it traps at its completion (R5) -/
  popped : List Popped := []
  /-- an access of a PEER job (R251, R348) -/
  peer : Bool := false
  booked : Bool := false
  /-- its slot no longer waits for it: an active message to the own core (R138) -/
  loose : Bool := false
  dead : Bool := false
  /-- moved to the escape network of a die, and to the escape channel of the fabric (R246, R347) -/
  escape : Bool := false
  aside : Bool := false
  answers : List (Nat × Bool) := []
  reply : Reply := {}
  deriving DecidableEq, Repr

/-! ### Core units -/

/-- A minting-table entry (R106): bound scalar-file entry, or the save area it was repointed to (R117). -/
structure Claim where
  valid : Bool := false
  gen : BitVec 16 := 0
  slot : Nat := 0
  reg : Nat := 0
  deadline : Option Nat := none
  /-- space, save area and register number while the slot is spilled -/
  saved : Option (Nat × Nat × Nat) := none
  deriving DecidableEq, Repr

/-- A semaphore: count and waiter list (R130). -/
structure Sem where
  count : Nat := 0
  waiters : List Nat := []
  deriving DecidableEq, Repr

/-- A stream register (R133, R258). -/
structure Stream where
  bound : Bool := false
  slot : Nat := 0
  out : Bool := false
  job : Nat := 0
  ents : List PEntry := []
  /-- elements popped (inbound) or pushed (outbound) by the slot so far, and elements in all -/
  moved : Nat := 0
  total : Nat := 0
  deriving DecidableEq, Repr

/-- A kick-queue entry (R140, R257). -/
structure Kick where
  notice : Word
  core : Nat
  slot : Nat
  taskw : Word
  deriving DecidableEq, Repr

/-- States of a chain entry (R232). -/
inductive ChainSt where
  | free
  | opened
  | done
  deriving DecidableEq, Repr

/-- A chain-table entry (R232). -/
structure Chain where
  st : ChainSt := .free
  chain : Nat := 0
  acc : Nat := 0
  slot : Nat := 0
  task : Nat := 0
  expected : Nat := 0
  received : Nat := 0
  /-- the owner's %task [49:0], and the CHAIN_DONE word of a DONE entry -/
  num : Nat := 0
  word : Word := 0
  /-- `slwait` has taken the CHAIN_DONE message (R239) -/
  taken : Bool := false
  serial : BitVec 16 := 0
  idents : List (Nat × Nat × Nat × Nat) := []
  deriving DecidableEq, Repr

/-- A region of a card or footprint (R207, R250). -/
structure Region where
  base : Nat
  len : Nat
  deriving DecidableEq, Repr

/-- One read of an element of a job: its access, its bytes, and once it has returned their number and the tag of a
poisoned word, 0 for none (R209, R220). -/
structure Part where
  id : Nat
  n : Nat
  got : Option (Nat × Nat) := none
  deriving DecidableEq, Repr

/-- What the bytes that an element's reads return are: an entry of an index list, data for the destination, words of a
scale frame for another, a multicast packet, or an element of an inbound stream (R151, R251, R258). -/
inductive WorkSort where
  | index
  | move
  | scale (l : Loc)
  | packet
  | stream (sm : Nat)
  deriving DecidableEq, Repr

/-- An element whose reads are under way: where it goes, and its reads in the order of their bytes. -/
structure Work where
  elem : Nat
  sort : WorkSort
  dst : Nat := 0
  parts : List Part := []
  deriving DecidableEq, Repr

/-- A job in the sequencer of its core (R207, R209, R249). -/
structure Job where
  no : Nat
  kind : Nat
  scope : Nat
  raw : Bool
  sem : Option Nat
  redop : Nat
  esize : Nat
  card : Nat
  src : Nat
  dst : Nat
  ex : Nat
  ey : Nat
  ez : Nat
  sy : Int
  sz : Int
  dy : Int
  dz : Int
  srcList : Nat
  dstList : Nat
  reads : List Region
  writes : List Region
  /-- starting slot, its task record, space, task word and launch -/
  slot : Nat
  task : Nat
  space : Nat
  taskw : Word
  launch : Nat
  /-- notified slot and its task word; for hpull the kicking core, slot and task word (R257) -/
  notify : Option (Nat × Word)
  kicker : Option Kick := none
  going : Bool := false
  /-- the engine whose queue it is in, and the cycle until which a refused one waits (R254) -/
  engine : Option Nat := none
  backoff : Nat := 0
  /-- elements whose reads are under way, elements done, and the accesses of its posted writes -/
  work : List Work := []
  did : List Nat := []
  posted : List Nat := []
  err : Option (Nat × Nat) := none
  stream : Option Nat := none
  /-- the access that writes STATUS, once it is posted (R252) -/
  statusDone : Bool := false
  statusId : Nat := 0
  deriving DecidableEq, Repr

/-- What a vector instruction writes at its result's cycle (R164, R167, R168). -/
structure VOp where
  id : Nat
  slot : Nat
  vdst : Option Nat := none
  vval : VData := 0
  /-- every byte of the register is written (R222) -/
  whole : Bool := false
  sdst : Dst := .none
  sval : Word := 0
  flags : BitVec 5 := 0
  /-- enables read at issue; with them the slot is out until completion -/
  en : BitVec 5 := 0
  popped : List Popped := []
  pc : BitVec 56 := 0
  dead : Bool := false
  deriving DecidableEq, Repr

/-- A vector or tile memory instruction in flight (R186, R200): what its element data become. -/
structure VMem where
  id : Nat
  slot : Nat
  space : Nat := 0
  /-- 0 vld or vgather, 1 tld, 2 tld.acc, 3 a store -/
  sort : Nat
  dst : Nat
  etype : Nat := 0
  fmt : Nat := 0
  rm : RMode := .rne
  /-- trap enables read at issue (R168) -/
  en : BitVec 5 := 0
  cols : Nat := 0
  i8 : Bool := false
  raw : Bool := false
  /-- for QC4 pages: k, the element's index in its page, and its scale frame as device x 2^48 + address (R150) -/
  scale : List (Nat × Nat × Nat) := []
  got : List Elem := []
  /-- lowest tag of a poisoned word; 0 is none -/
  poison : Nat := 0
  /-- the fault of its elements that comes first, with its place in the order of R170 -/
  trap : Option Trap := none
  rank : Nat := 0
  pc : BitVec 56 := 0
  popped : List Popped := []
  /-- the vector register of a load was full before it (R5, R88) -/
  was : Bool := true
  dead : Bool := false
  deriving DecidableEq, Repr

/-- A matrix-unit instruction in its waiting or running place, with the operands read at issue (R194). -/
structure MOp where
  id : Nat
  slot : Nat
  ins : Instr
  /-- scalar operands a, b and configurations of tiles a, b, d read at issue -/
  vals : List Word := []
  vsrc : VData := 0
  vshape : Word := 0
  rmode : RMode := .rne
  /-- destinations, decided at issue -/
  vdst : Option Nat := none
  sdst : Dst := .none
  pc : BitVec 56 := 0
  en : BitVec 5 := 0
  popped : List Popped := []
  dead : Bool := false
  /-- tiles and accumulators read and written -/
  rT : List Nat := []
  rA : List Nat := []
  wT : List Nat := []
  wA : List Nat := []
  deriving DecidableEq, Repr

/-- An entry of the store comparator or a trailing effect not yet compared (R218): the instruction, its
address and its operand values. -/
structure Effect where
  kind : Nat
  addr : Word
  size : Nat
  val : Word
  ins : Instr
  pc : BitVec 56
  vals : List Word
  poison : Bool := false
  tag : BitVec 12 := 0
  /-- bound to a trap entry instead of an effect -/
  trap : Option Trap := none
  /-- the leading slot went on without waiting for the match -/
  ahead : Bool := false
  popped : List Popped := []
  deriving DecidableEq, Repr

/-- The queues of a pair of slots 2k, 2k + 1 (R217, R218). -/
structure Pair where
  lvq : List PEntry := []
  cmp : List Effect := []
  trail : List Effect := []
  /-- claims whose register the trailing slot has made empty, and values of claims it has not reached -/
  bound : List Word := []
  given : List (Word × PEntry) := []
  deriving DecidableEq, Repr

/-- A translation-buffer or cache entry (R278, R280). -/
structure Tlb where
  space : Nat
  page : Nat
  size : Nat
  tgt : Nat
  fmt : Nat
  frame : Nat
  r : Bool
  w : Bool
  x : Bool
  scale : Nat
  owner : Option Nat
  deriving DecidableEq, Repr

/-- A match-table entry of a core's network interface (R259). -/
structure Sub where
  tag : Nat
  base : Nat
  len : Nat
  space : Nat
  acked : Bool := false
  deriving DecidableEq, Repr

/-- A packet in a member's delivery FIFO (R261, R264). -/
structure MPkt where
  tag : Nat
  off : Nat
  bytes : List Byte
  /-- the tag of the poisoned word that each byte comes from; 0 is clean (R220) -/
  tags : List Nat := []
  deriving DecidableEq, Repr

/-- A spill-directory entry (R139). -/
structure SpillEnt where
  taskw : Word
  space : Nat
  area : Nat
  deriving DecidableEq, Repr

/-- The active message the handler slot runs (R125): sender's core and task, instructions issued so far, and the
first cycle of the round in which it took its last turn. -/
structure Am where
  core : Nat
  taskw : Word
  count : Nat
  last : Option Nat := none
  deriving DecidableEq, Repr

/-- A core (R8). -/
structure Core where
  /-- slots 0 to 63; unlisted, a free slot -/
  slots : SMap Slot := []
  /-- scalar-file entries 0 to 2,047; unlisted, 0 and full -/
  sfile : SMap Entry := []
  /-- vector-file registers 0 to 255 -/
  vfile : SMap VReg := []
  tiles : SMap Tile := []
  accs : SMap Acc := []
  /-- %tcfg0 to %tcfg15; unlisted, 0x4040 (R192) -/
  tcfg : SMap Word := []
  /-- q0-q7 at 128-135, mb0-mb3 at 140-143, the priorities of runq at 160-163 -/
  ports : SMap (List PEntry) := []
  /-- values waiting at runq for room (R50) -/
  runqWait : List PEntry := []
  sems : SMap Sem := []
  streams : SMap Stream := []
  claims : SMap Claim := []
  kicks : List Kick := []
  chains : SMap Chain := []
  /-- sequence number of each slot's next slsend (R237) -/
  seqNos : SMap Nat := []
  seq : List Job := []
  lastJob : BitVec 16 := 0
  vops : List VOp := []
  vmems : List VMem := []
  munit : Option MOp := none
  mwait : Option MOp := none
  pairs : SMap Pair := []
  tlb : List Tlb := []
  subs : List Sub := []
  deliver : List MPkt := []
  spillDir : List SpillEnt := []
  /-- slots whose spill is requested, in the order of the requests (R117) -/
  spillQ : List Nat := []
  /-- slots that wait to write a mailbox, in the order in which they began, by its specifier (R134) -/
  mbWait : SMap (List Nat) := []
  am : Option Am := none
  /-- %trace (R262) -/
  traceEn : Bool := false
  traceWrap : Bool := false
  traceSeq : BitVec 32 := 0
  /-- trace entries not yet seen since the last clear -/
  traceNew : Nat := 0
  /-- the round: slots in rotation, next turn, first cycle, length (R25) -/
  order : List Nat := []
  pos : Nat := 0
  start : Nat := 0
  len : Nat := 8
  deriving DecidableEq, Repr

/-! ### Device units -/

/-- An error-log record (R287). -/
structure LogRec where
  seq : BitVec 32
  cls : Nat
  space : Nat
  location : Word
  vaddr : Word
  cycle : Nat
  unit : Nat
  deriving DecidableEq, Repr

/-- A watch word (R330) and its write count. -/
structure Watch where
  en : Bool := false
  space : Nat := 0
  pa : Nat := 0
  line : Word := 0
  count : BitVec 32 := 0
  deriving DecidableEq, Repr

/-- A write on its way to PCI Express: address, bytes, and the watched word of a mirror (R329, R330). -/
structure Egress where
  addr : Nat
  bytes : List Byte
  mirror : Option Nat := none
  deriving DecidableEq, Repr

/-- A posted write of a host or peer requester: BAR, offset, bytes (R328). -/
structure Posted where
  bar2 : Bool
  off : Nat
  bytes : List Byte
  deriving DecidableEq, Repr

/-- States of a token-table entry (R349). -/
inductive TokSt where
  | free
  | inflight
  | landed
  | expired
  deriving DecidableEq, Repr

/-- A token-table entry (R349). -/
structure Token where
  st : TokSt := .free
  gen : BitVec 12 := 0
  deadline : Nat := 0
  /-- waiting holds -/
  waiting : List Nat := []
  deriving DecidableEq, Repr

/-- States of a block (R306). -/
inductive BlockSt where
  | idle
  | ready
  | running
  | provisional
  | frozen
  | done
  deriving DecidableEq, Repr

/-- What the board recorded of one neighbour at a step's start (R311, R315). -/
structure NbrRec where
  level : BitVec 32
  prev : BitVec 32
  cur : Nat
  old : Nat
  deriving DecidableEq, Repr

/-- A level-board entry (R305). -/
structure Block where
  level : BitVec 32 := 0
  step : BitVec 32 := 1
  prev : BitVec 32 := 0
  st : BlockSt := .idle
  buf : Bool := false
  nbrs : List Nat := []
  /-- steps started in this launch (R297) -/
  started : Nat := 0
  recs : List NbrRec := []
  committed : Bool := false
  spread : Bool := false
  deriving DecidableEq, Repr

/-- A resident node: its record, base launch record, footprint, board and error count (R292, R303). -/
structure GNode where
  raw : List Word
  regs : List Word
  reads : List Region
  writes : List Region
  board : List Block := []
  frozen : Bool := false
  freezeCause : Nat := 0
  part : Nat := 0
  errs : Nat := 0
  deriving DecidableEq, Repr

/-- Progress of a node in a launch (R298, R299). -/
inductive NodeSt where
  | waiting
  | eligible
  | complete
  deriving DecidableEq, Repr

/-- A launch in progress (R296). -/
structure Launch where
  no : Nat
  regs : List (List Word)
  nodes : List NodeSt
  /-- launched tasks with a record so far, and spawned tasks, node by node (R297) -/
  made : List Nat
  spawned : List Nat := []
  lost : Nat := 0
  /-- footprints, level boards and board partitions of this launch, node by node (R296, R298, R305) -/
  foot : List (List Region × List Region) := []
  boards : List (List Block) := []
  parts : List Nat := []
  /-- STATUS of the completion entry: 1 once RESET_SCOPE has acted on it (R299, R334) -/
  status : Nat := 0
  deriving DecidableEq, Repr

/-- A resident graph (R290, R291). -/
structure Graph where
  space : Nat
  compl : Nat
  errq : Nat
  save : Nat
  saven : Nat
  nodes : List GNode
  next : Nat := 0
  launches : List Launch := []
  areas : List Nat := []
  quiesced : Bool := false
  deriving DecidableEq, Repr

/-- States of a task record (R290): waiting for a seat, seated, spilled and waiting to be restored,
parked, in transit by `go`, lost, or quiesced. -/
inductive TaskSt where
  | waiting
  | seated
  | spilled
  | parked
  | transit
  | lost
  | quiesced
  deriving DecidableEq, Repr

/-- What a task moved by `go` carries (R214). -/
structure Carry where
  slot : Slot
  regs : List Entry
  hint : Nat
  radius : Nat
  deriving DecidableEq, Repr

/-- A task record of the headframe (R290, R297). -/
structure TaskRec where
  graph : Nat
  node : Nat
  num : Nat
  launch : Nat
  st : TaskSt := .waiting
  regs : List Entry := []
  core : Nat := 0
  slot : Nat := 0
  since : Nat := 0
  seated : Nat := 0
  /-- watchdog cycles counted before it left its last seat (R304) -/
  ran : Nat := 0
  /-- pool area, 0 for none, else its index + 1 (R363) -/
  area : Nat := 0
  savearea : Word := 0
  /-- the die of the spawning slot (R300) -/
  spawnDie : Option Nat := none
  carry : Option Carry := none
  /-- held to its core: the matrix role, a bound claim, an owned chain entry or a bound stream (R119, R241, R258),
  or a killed gang member (R230) -/
  home : Bool := false
  matrix : Bool := false
  /-- cycle of the last pre-emption for it (R301) -/
  lastPreempt : Nat := 0
  /-- vector windows of the gang members that had ended at the spill, by core-in-gang (R230) -/
  ended : List (Nat × List (Nat × VReg)) := []
  /-- release fences whose jobs are not over, kept for its core (R210) -/
  rels : List (Nat × List Nat × List Nat) := []
  /-- kept while it is spilled, since the save area has no field for it: a TIMER not yet taken (R35), the hand-over
  slot (R256), and the trailing slot of a pair with its registers (R219) -/
  timerHit : Bool := false
  handover : Option Nat := none
  trail : Option (Slot × List Entry) := none
  /-- the pushes of its trailing slot still to be compared (R218) -/
  pushed : List Effect := []
  deriving DecidableEq, Repr

/-- One lane group of a link or port (R269, R270, R334). -/
structure LaneGrp where
  cal : Nat := 0
  out : Option Nat := none
  /-- a second lane of the group has failed -/
  second : Bool := false
  deriving DecidableEq, Repr

/-- A die-to-die link or Casris port (R269-R271, R341). -/
structure Link where
  groups : SMap LaneGrp := []
  retired : Bool := false
  resends : BitVec 32 := 0
  /-- failed resends in a row of the oldest flit -/
  row : Nat := 0
  deriving DecidableEq, Repr

/-- A multicast router's subscription entry: tag and member core (R259). -/
structure Member where
  tag : Nat
  core : Nat
  /-- the routers that its join passed (R245, R259) -/
  path : List Nat := []
  deriving DecidableEq, Repr

/-- A device (R8). -/
structure Dev where
  /-- the management die's cycle counter, kept at the latest of its cores' -/
  cycle : Nat := 0
  /-- bring-up (R326, R337): the stage, and while it runs the stage at which it stops, 6 for none, and whether the check of
  the stored image fails -/
  stage : Nat := 6
  boot : Option Nat := none
  failcode : Nat := 0
  romonly : Bool := true
  fenced : Bool := false
  onPanel : Bool := true
  /-- error log by index, next record number, corrected-error counters by class (R287, R289) -/
  log : SMap LogRec := []
  logSeq : BitVec 32 := 0
  counters : SMap (BitVec 32) := []
  /-- headframe -/
  trig : List Word := []
  graphs : SMap Graph := []
  tasks : SMap TaskRec := []
  nextTask : Nat := 1
  arrivals : List Nat := []
  /-- tasks that have completed: %task [49:0] and the status of its `exit`, oldest first (R84) -/
  exits : List (Nat × BitVec 32) := []
  /-- page-table roots by space, and the next free physical address of the table pool (R277, R334) -/
  roots : SMap Nat := []
  pool : Nat := 0x2F00000000
  cache : SMap (List Tlb) := []
  /-- key identity by space; unlisted, keyBase + space + 1 (R286) -/
  keys : SMap Nat := []
  nextKey : Nat := 2049
  keyBase : Nat := 0
  /-- the jobs in the queue of each engine (die x 16 + engine): starting core and job number (R254, R264) -/
  engines : SMap (List (Nat × Nat)) := []
  tokens : SMap Token := []
  lastMint : Nat := 16383
  members : List Member := []
  /-- %qflags by quadrant (die x 4 + quadrant), and raises on their way: quadrant, flags, cycle (R155) -/
  qflags : SMap (BitVec 5) := []
  /-- the latest raising cycle of each flag that has reached its register, by quadrant x 5 + bit -/
  qwhen : SMap Nat := []
  raises : List (Nat × BitVec 5 × Nat) := []
  /-- host interface -/
  cmdbuf : SMap Word := []
  busy : Bool := false
  done : Bool := false
  overrun : Bool := false
  /-- a RESET_SCOPE or CHECKPOINT under way: its count, the tasks and the launches (graph, number) still to go -/
  pending : Option (Nat × List Nat × List (Nat × Nat)) := none
  plimit : Nat := 1800
  clock : Nat := 1600
  power : Nat := 0
  ms : Nat := 0
  pevtn : Word := 0
  pevt : SMap Word := []
  msix : SMap Word := []
  msixCount : SMap Nat := []
  wtab : SMap Watch := []
  apertures : SMap (Nat × Nat) := []
  /-- posted writes by requester: the commit queue, and those that wait for flow-control credits (R328) -/
  posted : SMap (List Posted) := []
  withheld : SMap (List Posted) := []
  egress : List Egress := []
  /-- last value a host or peer read returned, by requester (R327) -/
  hostRead : SMap (List Byte) := []
  /-- writes that have left for PCI Express, oldest first -/
  sentOut : List Egress := []
  links : SMap Link := []
  /-- extension firmware: the active and the stored image, minimum accepted version, signatures used (R335) -/
  extActive : Option (List Byte) := none
  extStored : Option (List Byte) := none
  minVersion : BitVec 32 := 0
  sigUsed : Nat := 0
  /-- milliseconds at which heartbeats were last sent and last heard, and a fatal fault reported (R357) -/
  beatSent : Nat := 0
  heard : Nat := 0
  fatal : Bool := false
  deriving DecidableEq, Repr

/-! ### The whole machine -/

/-- What happens next: a turn of a core's issue point, a turn of its handler slot, the arrival of a host or
peer posted write, one event, or one event of the device named. -/
inductive Choice where
  | turn (core : Nat)
  | handler (core : Nat)
  | post (dev req : Nat) (w : Posted)
  | event (i : Instr)
  | eventAt (dev : Nat) (i : Instr)
  deriving DecidableEq, Repr

/-- The panel. -/
structure State where
  /-- unlisted, a core after reset -/
  cores : SMap Core
  /-- unlisted, a device at READY after reset -/
  devs : SMap Dev
  /-- device memory at device x 2^48 + physical address; scratchpads at device x 2^48 + 2^40 +
  core identifier x 2^24 + offset -/
  mem : List Host.Cell
  /-- poison tags by 8-byte word (memory key / 8); 0 is clean (R24, R274) -/
  poison : SMap Nat
  /-- key identity of each 64-byte unit of device memory (memory key / 64); 0 is never written (R286) -/
  unitKey : SMap Nat
  /-- owner of each scratchpad granule (memory key / 2^16): 0 FREE, else space + 1 (R283) -/
  owner : SMap Nat
  /-- accesses in flight, oldest first, and the arrival order of those in home FIFOs -/
  net : List Access
  fifo : List Nat
  nextId : Nat
  /-- words of register files that hold an uncorrectable error: core, file, index (R222) -/
  badRegs : List (Nat × Nat × Nat)
  /-- flows that a switch has moved to its escape channel: class, source device, destination device, plane (R347) -/
  flows : List (Nat × Nat × Nat × Nat)
  /-- the inputs that are next, and the steps already due -/
  inbox : List Choice
  agenda : List Choice
  /-- the core and slot whose turn it is, and the core whose issue point moves when nothing else does -/
  cur : Nat × Nat
  /-- the device whose headframe, lamp-room core or mailbox moves -/
  dev : Nat
  focus : Nat
  /-- free values drawn so far -/
  drawn : Nat
  deriving DecidableEq, Repr

/-- Why a step stops. -/
inductive Fault where
  /-- Raised by `issueWith` (Machine/Operands.lean) and `execNotAnInstruction` (Machine/System.lean) when an
  instruction is run in a slot that has no task: such a slot is not in rotation (R29), so no step of the machine
  does this. Safe. -/
  | noTask
  deriving DecidableEq, Repr

/-- Why a meaning is missing. -/
inductive Refusal where
  /-- Raised by an arm of `exec` whose meaning is not written. Safe: nothing can be proved of it. -/
  | notModelled (mnemonic : String)
  deriving DecidableEq, Repr

/-- The outcome of one step. -/
abbrev Out := Host.Outcome State Fault Refusal

/-- The machine right after reset: every device at READY with no graph resident, every core idle, memory with
nothing listed (R106, R126, R130, R192, R232, R283, R337, R349). -/
def State.reset : State where
  cores := []
  devs := []
  mem := []
  poison := []
  unitKey := []
  owner := []
  net := []
  fifo := []
  nextId := 1
  badRegs := []
  flows := []
  inbox := []
  agenda := []
  cur := (0, 0)
  dev := 0
  focus := 0
  drawn := 0

end Sys2Proof.Machine
end

