-- ==== Sys2Proof/Machine/Memory.lean ====
section
/-! DEFINITION. Reading and writing the parts of the state: cores, slots, devices, memory bytes with their
poison marks and keys, the error log, page tables and translation. -/

namespace Sys2Proof.Machine

/-! ### Cores, slots, devices -/

def State.core (s : State) (c : Nat) : Core := tabGet {} s.cores c
def State.setCore (s : State) (c : Nat) (k : Core) : State := { s with cores := tabPut s.cores c k }
def State.modCore (s : State) (c : Nat) (f : Core → Core) : State := s.setCore c (f (s.core c))
def State.dv (s : State) (d : Nat) : Dev := tabGet {} s.devs d
def State.setDev (s : State) (d : Nat) (v : Dev) : State := { s with devs := tabPut s.devs d v }
def State.modDev (s : State) (d : Nat) (f : Dev → Dev) : State := s.setDev d (f (s.dv d))
def Core.slot (k : Core) (n : Nat) : Slot := tabGet {} k.slots n
def Core.setSlot (k : Core) (n : Nat) (v : Slot) : Core := { k with slots := tabPut k.slots n v }
def State.slot (s : State) (c n : Nat) : Slot := (s.core c).slot n
def State.setSlot (s : State) (c n : Nat) (v : Slot) : State := s.setCore c ((s.core c).setSlot n v)
def State.modSlot (s : State) (c n : Nat) (f : Slot → Slot) : State := s.setSlot c n (f (s.slot c n))

/-- The device of a core, its identifier there, its die, quadrant of the device, and gang (R9, R32). -/
def devOf (c : Nat) : Nat := c / 512
def cidOf (c : Nat) : Nat := c % 512
def dieOf (c : Nat) : Nat := cidOf c / 128
def quadOf (c : Nat) : Nat := cidOf c / 32
def gangBase (c : Nat) : Nat := c / 4 * 4
/-- The management die, as the UNIT of a record (R287). -/
def unitOf (d : Nat) : Nat := Config.panel.toNat * 2 ^ 15 + d * 512
/-- The number of a core of the panel, as %core [20:0] gives it (R32). -/
def coreReg (c : Nat) : Nat := Config.panel.toNat * 2 ^ 15 + c

/-- The core's current cycle: that of the turn taken last in its round (R25). -/
def Core.now (k : Core) : Nat := k.start + (k.pos - 1)
def State.now (s : State) (c : Nat) : Nat := (s.core c).now

/-- %core [20:0] as a core reads it: panel and device are 0 until stage 5 of bring-up is over, and on no panel (R340). -/
def State.coreId (s : State) (c : Nat) : Nat :=
  let v := s.dv (devOf c)
  if v.onPanel && decide (v.stage = 6) then coreReg c else cidOf c

/-- Put a choice at the end of the steps due. -/
def State.due (s : State) (x : Choice) : State := { s with agenda := s.agenda ++ [x] }
def State.later (s : State) (i : Instr) : State := s.due (.event i)
def State.laterAt (s : State) (d : Nat) (i : Instr) : State := s.due (.eventAt d i)

/-- A fresh identifier. -/
def State.fresh (s : State) : Nat × State := (s.nextId, { s with nextId := s.nextId + 1 })

/-- A free value's number (assumption log 4). -/
def State.draw (s : State) : Nat × State := (s.drawn, { s with drawn := s.drawn + 1 })

/-- A value that the manual does not state (assumption log 4). -/
def State.freeVal (s : State) : Word × State := (Config.freeWord s.drawn, { s with drawn := s.drawn + 1 })

/-! ### Registers and files -/

def Core.entry (k : Core) (e : Nat) : Entry := tabGet {} k.sfile e
def Core.setEntry (k : Core) (e : Nat) (v : Entry) : Core := { k with sfile := tabPut k.sfile e v }
def Core.vreg (k : Core) (v : Nat) : VReg := tabGet {} k.vfile v
def Core.setVreg (k : Core) (v : Nat) (x : VReg) : Core := { k with vfile := tabPut k.vfile v x }
def Core.tile (k : Core) (n : Nat) : Tile := tabGet {} k.tiles n
def Core.setTile (k : Core) (n : Nat) (x : Tile) : Core := { k with tiles := tabPut k.tiles n x }
def Core.acc (k : Core) (n : Nat) : Acc := tabGet {} k.accs n
def Core.setAcc (k : Core) (n : Nat) (x : Acc) : Core := { k with accs := tabPut k.accs n x }
def Core.port (k : Core) (p : Nat) : List PEntry := tabGet [] k.ports p
def Core.setPort (k : Core) (p : Nat) (l : List PEntry) : Core := { k with ports := tabPut k.ports p l }
def Core.sem (k : Core) (n : Nat) : Sem := tabGet {} k.sems n
def Core.setSem (k : Core) (n : Nat) (x : Sem) : Core := { k with sems := tabPut k.sems n x }
def Core.stream (k : Core) (n : Nat) : Stream := tabGet {} k.streams n
def Core.setStream (k : Core) (n : Nat) (x : Stream) : Core := { k with streams := tabPut k.streams n x }
def Core.claim (k : Core) (n : Nat) : Claim := tabGet {} k.claims n
def Core.setClaim (k : Core) (n : Nat) (x : Claim) : Core := { k with claims := tabPut k.claims n x }
def Core.chain (k : Core) (n : Nat) : Chain := tabGet {} k.chains n
def Core.setChain (k : Core) (n : Nat) (x : Chain) : Core := { k with chains := tabPut k.chains n x }
def Core.tcfgAt (k : Core) (n : Nat) : Word := tabGet 0x4040 k.tcfg n
def Core.pair (k : Core) (n : Nat) : Pair := tabGet {} k.pairs n
def Core.setPair (k : Core) (n : Nat) (x : Pair) : Core := { k with pairs := tabPut k.pairs n x }

/-- A full, unpoisoned entry with tag 0 (R24, R69). -/
def entryOf (v : Word) : Entry := { val := v }

/-! ### Memory bytes -/

/-- What an unlisted byte of memory reads as (assumption log 1). -/
def blankByte : Byte := 0

/-- The byte at a memory key. -/
def cellGet : List Host.Cell → Nat → Byte
  | [], _ => blankByte
  | (a, b) :: r, k => if k = a then b else if k < a then blankByte else cellGet r k

/-- The memory with one byte written, in canonical form: keys rising, blank bytes not listed. -/
def cellPut : List Host.Cell → Nat → Byte → List Host.Cell
  | [], k, v => if v = blankByte then [] else [(k, v)]
  | (a, b) :: r, k, v =>
    if k < a then (if v = blankByte then (a, b) :: r else (k, v) :: (a, b) :: r)
    else if k = a then (if v = blankByte then r else (k, v) :: r)
    else (a, b) :: cellPut r k v

/-- Write bytes from a key upward. -/
def cellsPut : List Host.Cell → Nat → List Byte → List Host.Cell
  | m, _, [] => m
  | m, k, b :: r => cellsPut (cellPut m k b) (k + 1) r

/-- The canonical form, keys at or above `lo`. -/
def memOkFrom : Nat → List Host.Cell → Bool
  | _, [] => true
  | lo, (a, b) :: r => decide (lo ≤ a) && decide (b ≠ blankByte) && memOkFrom (a + 1) r

/-- The memory is in canonical form. -/
def Memory.wf (m : List Host.Cell) : Bool := memOkFrom 0 m

/-- The memory key of a place: scratchpads lie above device memory (R94, R273, R275). -/
def keyOf : Loc → Nat
  | .pad c off => devOf c * 2 ^ 48 + 2 ^ 40 + cidOf c * 2 ^ 24 + off
  | .dram d pa => d * 2 ^ 48 + pa
  | .pci d a => d * 2 ^ 48 + a
  | .far d va => d * 2 ^ 48 + va

/-- A place `n` bytes further on. -/
def Loc.plus : Loc → Nat → Loc
  | .pad c off, n => .pad c (off + n)
  | .dram d pa, n => .dram d (pa + n)
  | .pci d a, n => .pci d (a + n)
  | .far d va, n => .far d (va + n)

/-- Two ranges of bytes share a byte. The bytes of another device's memory are known by their virtual addresses until they
reach it, and are compared by those, which is the model's choice (assumption log 71). -/
def Loc.meets (l : Loc) (n : Nat) (m : Loc) (k : Nat) : Bool :=
  match l, m with
  | .pad c a, .pad c' b => decide (c = c') && overlap a n b k
  | .dram d a, .dram d' b => decide (d = d') && overlap a n b k
  | .pci d a, .pci d' b => decide (d = d') && overlap a n b k
  | .far d a, .far d' b => decide (d = d') && overlap a n b k
  | _, _ => false

def Loc.isDram : Loc → Bool
  | .dram _ _ => true
  | _ => false

/-- The identity of the key of an address space on a device (R286). -/
def State.keyId (s : State) (d space : Nat) : Nat := tabGet ((s.dv d).keyBase + space + 1) (s.dv d).keys space

/-- The key pair of an identity: KEY_SET's identities hold their pair (R286, R334). -/
def keyPairOf (kid : Nat) : Nat := if kid < 2 ^ 64 then (Config.bootKey kid).toNat else kid / 2 ^ 64 % 2 ^ 512

/-- A unit as read under key `kid` where it was written under key `old`: its ciphertext deciphered with the wrong key. The number
of unit `u` is bits [55:6] of its physical address (R286). -/
def rekeyed (old kid u : Nat) (bs : List Byte) : List Byte :=
  xtsUnit false (keyPairOf kid) (u % 2 ^ 42) (xtsUnit true (keyPairOf old) (u % 2 ^ 42) bs)

/-- The byte at key `a` of device memory as read under key `kid` (R286). -/
def State.plainByte (s : State) (kid a : Nat) : Byte :=
  let u := a / 64
  let old := tabGet 0 s.unitKey u
  if old = 0 ∨ old = kid then cellGet s.mem a
  else nth 0 (rekeyed old kid u ((rangeFrom (u * 64) 64).map (cellGet s.mem))) (a % 64)

/-- The unit holding key `a` re-encrypted for writing under `kid`: the slices do read-modify-writes on
plaintext (R286). -/
def State.openUnit (s : State) (kid u : Nat) : State :=
  let old := tabGet 0 s.unitKey u
  if old = kid then s
  else if old = 0 then { s with unitKey := tabPut s.unitKey u kid }
  else { s with mem := cellsPut s.mem (u * 64) ((rangeFrom (u * 64) 64).map (s.plainByte kid)),
                unitKey := tabPut s.unitKey u kid }

/-- The `n` bytes at a place, for the space given. -/
def State.readBytes (s : State) (space : Nat) (l : Loc) (n : Nat) : List Byte :=
  match l with
  | .dram d pa => (rangeFrom (keyOf (.dram d pa)) n).map (s.plainByte (s.keyId d space))
  | l => (rangeFrom (keyOf l) n).map (cellGet s.mem)

/-- The number in the `n` bytes at a place (R3). -/
def State.readNum (s : State) (space : Nat) (l : Loc) (n : Nat) : Nat := numOf (s.readBytes space l n)

/-- Poison tag of the 8-byte word that holds key `a`; 0 is clean. -/
def State.wordTag (s : State) (a : Nat) : Nat := tabGet 0 s.poison (a / 8)

/-- The lower of two tags, 0 meaning none (R220). -/
def lowTag (x y : Nat) : Nat := if x = 0 then y else if y = 0 then x else min x y

/-- The lowest tag among the words that hold any of `n` bytes at key `a`. -/
def State.tagOf (s : State) (a n : Nat) : Nat :=
  (rangeFrom (a / 8) ((a + n - 1) / 8 + 1 - a / 8)).foldl (fun t w => lowTag t (tabGet 0 s.poison w)) 0

/-- The tag that the 64-byte unit of word `w` carries; 0 when no word of it is poisoned (R274). -/
def State.unitTag (s : State) (w : Nat) : Nat :=
  (rangeFrom (w / 8 * 8) 8).foldl (fun t x => lowTag t (tabGet 0 s.poison x)) 0

/-- The tag that a poisoned word takes: in device memory a unit that holds a poisoned word keeps its tag (R274), also where
R220 would take the lower tag (assumption log 70). -/
def State.keptTag (s : State) (dram : Bool) (w tag : Nat) : Nat :=
  if dram && decide (s.unitTag w ≠ 0) then s.unitTag w else tag

/-- Mark a word poisoned. -/
def State.markWord (s : State) (dram : Bool) (w tag : Nat) : State := { s with poison := tabPut s.poison w (s.keptTag dram w tag) }

/-- Words wholly covered by `n` bytes at key `a` lose their mark (R99). -/
def State.clearWords (s : State) (a n : Nat) : State :=
  { s with poison := s.poison.filter (fun p => !(decide (a ≤ p.1 * 8) && decide (p.1 * 8 + 8 ≤ a + n))) }

/-- Store bytes at a place for a space; wholly covered words become clean (R97, R99, R286). -/
def State.writeBytes (s : State) (space : Nat) (l : Loc) (bs : List Byte) : State :=
  let a := keyOf l
  let s := match l with
    | .dram d _ => (rangeFrom (a / 64) ((a + bs.length - 1) / 64 + 1 - a / 64)).foldl
        (fun (x : State) u => x.openUnit (x.keyId d space) u) s
    | _ => s
  { s with mem := cellsPut s.mem a bs }.clearWords a bs.length

/-- Store a number of `n` bytes. -/
def State.writeNum (s : State) (space : Nat) (l : Loc) (n v : Nat) : State := s.writeBytes space l (bytesOf n v)

/-! ### The error log (R287 to R289) -/

/-- The classes of R288. -/
def clsGddr7 : Nat := 1
def clsPad : Nat := 2
def clsRegfile : Nat := 3
def clsLink : Nat := 4
def clsNetwork : Nat := 5
def clsCasris : Nat := 6
def clsHost : Nat := 7
def clsClaim : Nat := 8
def clsHead : Nat := 9

/-- MSI-X vector v is signalled once more (R324). -/
def Dev.signal (v : Dev) (n : Nat) : Dev := { v with msixCount := tabPut v.msixCount n (tabGet 0 v.msixCount n + 1) }

/-- The cycle that a record is dated: that of its detection, or the first later one in which no record of a greater class or
UNIT stands yet, since the errors of one cycle are recorded in ascending class and UNIT (R287, assumption log 69). -/
def Dev.recordCycle (v : Dev) (cls unit cycle : Nat) : Nat :=
  let above (r : LogRec) : Bool := decide (cls < r.cls) || (decide (cls = r.cls) && decide (unit < r.unit))
  ((firstFrom (fun k => !v.log.any (fun p => decide (p.2.cycle = (cycle + k) % 2 ^ 32) && above p.2)) 0 257).map (cycle + ·)).getD cycle

/-- Write one record; the answer is its provenance tag (R24, R287). Where the record has no physical address, the
manual states no LOCATION (assumption log 4). -/
def State.logErr (s : State) (d cls space : Nat) (location : Option Word) (vaddr : Word) (cycle unit : Nat) : Nat × State :=
  let (loc, s1) := match location with
    | some l => (l, s)
    | none => s.freeVal
  let v := s1.dv d
  let n := v.logSeq.toNat
  let r : LogRec := { seq := v.logSeq, cls, space, location := loc, vaddr, cycle := v.recordCycle cls unit cycle % 2 ^ 32, unit }
  (cls * 256 + n % 256,
    s1.setDev d ({ v with log := tabPut v.log (n % 256) r, logSeq := v.logSeq + 1 }.signal 1))

/-! ### Which devices reach each other (R337, R340, R345, R357) -/

/-- Some plane still joins two devices: a port of both is in service (R341). -/
def State.plane (s : State) (d e : Nat) : Bool :=
  anyBelow 32 (fun p => !(tabGet {} (s.dv d).links (8 + p)).retired && !(tabGet {} (s.dv e).links (8 + p)).retired)

/-- A device's ports are in use: stage 5 of bring-up has trained them, and no fence has disabled them (R337, R340, R357). -/
def Dev.onFabric (v : Dev) : Bool := v.onPanel && decide (v.stage = 6) && !v.fenced

/-- A device can be reached from another (R340, R345, R357). -/
def State.reach (s : State) (d e : Nat) : Bool :=
  decide (d = e) || ((s.dv d).onFabric && (s.dv e).onFabric && s.plane d e)

/-! ### The address map (R275, R276) -/

/-- The region of an address. -/
inductive Area where
  | near (off : Nat)
  | pad (cid off : Nat)
  | xlat
  | panel (dev va : Nat)
  | bad
  deriving DecidableEq, Repr

/-- The region that an address lies in (R275). -/
def areaOf (va : Nat) : Area :=
  if va < 0x1000000 then .near va
  else if 0x10000000000 ≤ va ∧ va < 0x10200000000 then .pad ((va - 0x10000000000) / 0x1000000) (va % 0x1000000)
  else if 0x100000000000 ≤ va ∧ va < 0x10000000000000 then .xlat
  else if 0x10000000000000 ≤ va ∧ va < 0x14000000000000 then
    .panel ((va - 0x10000000000000) / 2 ^ 44) (0x100000000000 + va % 2 ^ 44)
  else .bad

/-- The memory slice of a physical address (R273). -/
def sliceOf (pa : Nat) : Nat :=
  let g := pa / 2048
  ((g % 64) ^^^ (g / 64 % 64) ^^^ (g / 4096 % 64) ^^^ (g / 2 ^ 18 % 64) ^^^ (g / 2 ^ 24 % 8))

/-- The size of device memory (R273). -/
def dramSize : Nat := 0x3000000000

/-! ### Page tables (R277 to R279) -/

/-- A page-table entry's two dwords and the poison tag of its words, read in space 0. -/
def State.pte (s : State) (d pa : Nat) : Nat × Nat × Nat :=
  (s.readNum 0 (.dram d pa) 8, s.readNum 0 (.dram d (pa + 8)) 8, s.tagOf (keyOf (.dram d pa)) 16)

/-- The end of a walk: a leaf, or TRANSLATION with a subcode. -/
inductive Walk where
  | leaf (e : Tlb)
  | fault (sub : Nat)
  deriving DecidableEq, Repr

/-- Field lo+len-1:lo of a number. -/
def nbits (x lo len : Nat) : Nat := (x >>> lo) % 2 ^ len

/-- A leaf entry of a page of `size` bytes as orders 4 and 5 of R279 check it: the subcode it would raise. -/
def leafSub (w0 w1 size : Nat) : Option Nat :=
  let tgt := nbits w0 60 2
  let fmt := nbits w0 56 4
  let frame := nbits w0 16 40 * 65536
  let scale := nbits w1 12 44 * 4096
  if tgt = 3 ∨ nbits w0 3 13 ≠ 0 ∨ nbits w1 57 7 ≠ 0 ∨ nbits w1 9 3 ≠ 0 ∨ (fmt ≠ 1 ∧ scale ≠ 0) then some 4
  else if frame % size ≠ 0 ∨ (tgt = 0 ∧ dramSize < frame + size) ∨ (fmt = 1 ∧ dramSize < scale + 4096) then some 4
  else if 8 ≤ fmt ∨ (fmt = 1 ∧ size ≠ 65536) ∨ (fmt ≠ 0 ∧ tgt ≠ 0) then some 5
  else none

/-- The translation that a leaf entry gives (R278). -/
def leafOf (space va size w0 w1 : Nat) : Tlb where
  space := space
  page := va / size * size
  size := size
  tgt := nbits w0 60 2
  fmt := nbits w0 56 4
  frame := nbits w0 16 40 * 65536
  r := nbits w0 0 1 == 1
  w := nbits w0 1 1 == 1
  x := nbits w0 2 1 == 1
  scale := nbits w1 12 44 * 4096
  owner := if nbits w1 56 1 = 1 then some (nbits w1 0 9) else none

/-- One walk from the table at `tab` through the levels left: low bit and width of each index, and the page
size of a leaf there, 0 where no leaf may stand (R277). The faults are taken in the order of R279's table over all
entries of the walk: `bad` says that an entry above meets order 4 with a reserved bit alone, `hurt` that one was read
poisoned. -/
def State.walkFrom (s : State) (d space va : Nat) (bad hurt : Bool) : Nat → List (Nat × Nat × Nat) → Walk
  | _, [] => .fault 4
  | tab, (lo, len, size) :: rest =>
    let (w0, w1, tag) := s.pte d (tab + 16 * nbits va lo len)
    if nbits w0 63 1 = 0 then .fault 3
    else if nbits w0 62 1 = 1 then
      if size = 0 ∨ bad then .fault 4
      else match leafSub w0 w1 size with
        | some n => .fault n
        | none => if hurt ∨ tag ≠ 0 then .fault 8 else .leaf (leafOf space va size w0 w1)
    else if rest = [] ∨ dramSize ≤ nbits w0 4 52 * 16 then .fault 4
    else s.walkFrom d space va (bad || decide (nbits w0 56 6 ≠ 0 ∨ nbits w0 0 4 ≠ 0 ∨ w1 ≠ 0)) (hurt || decide (tag ≠ 0))
      (nbits w0 4 52 * 16) rest

/-- The levels of R277. -/
def levels : List (Nat × Nat × Nat) := [(44, 12, 0), (30, 14, 2 ^ 30), (21, 9, 2 ^ 21), (16, 5, 65536)]

/-- The page tables' answer for an address of the translated region. -/
def State.walk (s : State) (d space va : Nat) : Walk :=
  match tabFind (s.dv d).roots space with
  | none => .fault 6
  | some root => s.walkFrom d space va false false root levels

/-- The first entry of a walk that is read poisoned. -/
def State.hurtEntry (s : State) (d va : Nat) : Nat → List (Nat × Nat × Nat) → Option Nat
  | _, [] => none
  | tab, (lo, len, _) :: rest =>
    let pa := tab + 16 * nbits va lo len
    let (w0, _, tag) := s.pte d pa
    if tag ≠ 0 then some pa else s.hurtEntry d va (nbits w0 4 52 * 16) rest

/-- A walk that ended with TRANSLATION subcode `sub`: an entry read poisoned writes a record, of class GDDR7 since that is
where it was read (R279, R287; assumption log 58). -/
def State.noteWalk (s : State) (d space va sub unit : Nat) : State :=
  if sub ≠ 8 then s
  else match (tabFind (s.dv d).roots space).bind (fun root => s.hurtEntry d va root levels) with
    | none => s
    | some pa => (s.logErr d clsGddr7 space (some (BitVec.ofNat 64 pa)) (BitVec.ofNat 64 va) (s.dv d).cycle unit).2

/-- A walk of device `d`'s own tables at `va`, for a unit without a translation buffer. -/
def State.noteRoot (s : State) (d space va : Nat) : State :=
  match s.walk d space va with
  | .fault n => s.noteWalk d space va n (unitOf d)
  | .leaf _ => s

/-- The record, if one is due, of an access by a unit of device `d` whose address `va` did not translate (R279). -/
def State.noteAt (s : State) (d space va : Nat) : State :=
  match areaOf va with
  | .xlat => s.noteRoot d space va
  | .panel d' va' => s.noteRoot d' space va'
  | _ => s

/-- Whether a cached translation is of this space and covers this address. -/
def Tlb.covers (e : Tlb) (space va : Nat) : Bool := decide (e.space = space) && decide (e.page = va / e.size * e.size)

/-- A buffer or cache with an entry used or filled: most recently used first, `cap` entries at most (R280). -/
def tlbUse (l : List Tlb) (e : Tlb) (cap : Nat) : List Tlb := (e :: l.filter (fun x => x ≠ e)).take cap

/-- What a look-up of the translation buffers gives: an entry, a miss whose walk would succeed, a fault. -/
inductive Look where
  | hit (e : Tlb)
  | miss
  | fault (sub : Nat)
  deriving DecidableEq, Repr

/-- The die's translation cache (R280). -/
def State.dieCache (s : State) (d die : Nat) : List Tlb := tabGet [] (s.dv d).cache die

/-- The buffer of a core, then the cache of its die, then the tables (R280, R281). -/
def State.look (s : State) (c space va : Nat) : Look :=
  match (s.core c).tlb.find? (fun e => e.covers space va) with
  | some e => .hit e
  | none => match (s.dieCache (devOf c) (dieOf c)).find? (fun e => e.covers space va) with
    | some e => .hit e
    | none => match s.walk (devOf c) space va with
      | .leaf _ => .miss
      | .fault n => .fault n

/-- The core's buffer after an entry is used. -/
def State.touch (s : State) (c : Nat) (e : Tlb) : State := s.modCore c (fun k => { k with tlb := tlbUse k.tlb e 64 })

/-- The cache of a die after an entry is used or filled. R280 gives the cache no rule of replacement: that the least recently used
entry goes is the model's choice (assumption log 74). -/
def State.fillDie (s : State) (d die : Nat) (e : Tlb) : State :=
  s.modDev d (fun v => { v with cache := tabPut v.cache die (tlbUse (tabGet [] v.cache die) e 4096) })

/-- A walk's end fills the die cache and the core's buffer (R281). -/
def State.fillTlb (s : State) (c : Nat) (e : Tlb) : State := (s.touch c e).fillDie (devOf c) (dieOf c) e

/-! ### Places of addresses -/

/-- How an access uses a page (R279 orders 7 to 9). -/
inductive Use where
  | load
  | store
  | both
  | fetch
  deriving DecidableEq, Repr

/-- Where an access leads, or why it does not: a trap, or a page whose walk must end first (R281). -/
inductive Place where
  | at (l : Loc) (e : Option Tlb)
  | trap (cause sub : Nat)
  | walk (page : Nat)
  deriving DecidableEq, Repr

/-- The permission checks of orders 7 and 8 (R279). -/
def permSub (e : Tlb) (u : Use) : Option Nat :=
  match u with
  | .load => if e.r then none else some 2
  | .store => if e.w then none else some 3
  | .both => if !e.r then some 2 else if !e.w then some 3 else none
  | .fetch => if !e.x || e.w || decide (e.tgt ≠ 0) then some 1 else none

/-- Where addresses of another panel lie among those of PCI Express (R348). -/
def farPanel : Nat := 2 ^ 56

/-- The place that a leaf gives an address on device `d`. -/
def leafLoc (d : Nat) (e : Tlb) (va : Nat) : Loc :=
  if e.tgt = 0 then .dram d (e.frame + va % e.size)
  else if e.tgt = 2 ∧ 2 ^ 55 ≤ e.frame then .pci d (farPanel + e.frame + va % e.size)
  else .pci d (e.frame + va % e.size)

/-- A translated address through a look-up's answer. -/
def placeOf (d va : Nat) (u : Use) : Look → Place
  | .miss => .walk (va / 65536)
  | .fault n => .trap 9 n
  | .hit e => match permSub e u with
    | some n => .trap 10 n
    | none => .at (leafLoc d e va) (some e)

/-- Where the slot access of core `c` at `va` leads (R93, R94, R275, R276, R279). -/
def State.place (s : State) (c space va : Nat) (u : Use) : Place :=
  match areaOf va with
  | .near off => .at (.pad c off) none
  | .pad cid off => .at (.pad (devOf c * 512 + cid) off) none
  | .xlat => placeOf (devOf c) va u (s.look c space va)
  | .panel d va' => if d = devOf c then placeOf d va' u (s.look c space va') else .at (.far d va') none
  | .bad => .trap 9 2

/-- A translated address of device `d` through its page tables alone, for the headframe, engines and
accesses from other devices. -/
def State.placeAt (s : State) (d space va : Nat) (u : Use) : Place :=
  match s.walk d space va with
  | .leaf e => placeOf d va u (.hit e)
  | .fault n => placeOf d va u (.fault n)

/-- The home port of a place as core `c` sees it (R94). -/
def homeOf (c : Nat) : Loc → Home
  | .pad c' off => if c' = c then .bank c' (off / 8 % 64) else .memPort c'
  | .dram d pa => .slice d (sliceOf pa)
  | .pci d _ => .host d
  | .far d _ => .slice d 0

/-- The answer of a die's translation cache, or of the tables where it holds no entry (R280, R281). -/
def State.dieAnswer (s : State) (d die space va : Nat) : Look :=
  match (s.dieCache d die).find? (fun e => e.covers space va) with
  | some e => .hit e
  | none => match s.walk d space va with
    | .leaf e => .hit e
    | .fault n => .fault n

/-- A translated address of device `d` as an access from another device finds it: through the cache of that device in which
translations of panel-window addresses stand, that of its die 0 (R276, R284; assumption log 59). -/
def State.farPlace (s : State) (d space va : Nat) (u : Use) : Place := placeOf d va u (s.dieAnswer d 0 space va)

/-- The destination's cache after the use of a translation for a place at another device. -/
def State.farUsed (s : State) (space : Nat) : Loc → State
  | .far d va => (match s.dieAnswer d 0 space va with
    | .hit e => s.fillDie d 0 e
    | _ => s)
  | _ => s

/-- The home of an access at another device, found with that device's translations for what the access does (R94, R276). -/
def State.farHome (s : State) (space : Nat) (d va : Nat) (u : Use) : Home :=
  match s.farPlace d space va u with
  | .at (.dram d' pa) _ => .slice d' (sliceOf pa)
  | .at (.pci d' _) _ => .host d'
  | _ => .slice d 0

/-- Owner of the scratchpad granule of a place: 0 FREE, else space + 1 (R283). -/
def State.ownerOf (s : State) (l : Loc) : Nat := tabGet 0 s.owner (keyOf l / 65536)

/-- Whether a space may access a scratchpad place: its granule is FREE or its own (R283). -/
def State.mayPad (s : State) (space : Nat) (l : Loc) : Bool :=
  let o := s.ownerOf l
  decide (o = 0) || decide (o = space + 1)

/-- A FREE granule becomes owned by the accessor's space (R283). -/
def State.takePad (s : State) (space : Nat) (l : Loc) : State :=
  match l with
  | .pad _ _ => { s with owner := tabPut s.owner (keyOf l / 65536) (space + 1) }
  | _ => s

/-- Whether a home lies within a scope of a core: 0 SLOT to 7 SYS (R103). -/
def inScope (c scope : Nat) : Home → Bool
  | .bank h _ | .memPort h | .claims h | .msgs h | .kicks h | .chains h =>
    if scope = 0 then false
    else if scope = 1 then decide (h = c)
    else if scope = 2 then decide (h / 4 = c / 4)
    else if scope = 3 then decide (h / 32 = c / 32)
    else if scope = 4 then decide (h / 128 = c / 128)
    else if scope = 5 then decide (h / 512 = c / 512)
    else true
  | .slice d n => if scope ≤ 3 then false else if scope = 4 then decide (d = devOf c) && decide (n / 16 = dieOf c)
      else if scope = 5 then decide (d = devOf c) else true
  | .part d die | .root d die _ => if scope ≤ 3 then false
      else if scope = 4 then decide (d = devOf c) && decide (die = dieOf c)
      else if scope = 5 then decide (d = devOf c) else true
  | .tokens d => if scope ≤ 4 then false else if scope = 5 then decide (d = devOf c) else true
  | .host _ => decide (scope = 7)

end Sys2Proof.Machine
end

