-- ==== Sys2Proof/Machine/Graphs.lean ====
section
/-! DEFINITION. Graphs, launches, task records, level boards and error queues of the headframe (R290 to
R317), as far as traps, task ends and commits need them. -/

namespace Sys2Proof.Machine

/-! ### Node records (R292) -/

/-- Bits lo+len-1:lo of dword `i` of a node record. -/
def GNode.f (n : GNode) (i lo len : Nat) : Nat := bitsN (nth 0 n.raw i) lo len
def GNode.kind (n : GNode) : Nat := n.f 0 62 2
def GNode.role (n : GNode) : Nat := n.f 0 60 2
def GNode.prio (n : GNode) : Nat := n.f 0 58 2
def GNode.radius (n : GNode) : Nat := n.f 0 55 3
def GNode.hint (n : GNode) : Nat := n.f 0 53 2
def GNode.paired (n : GNode) : Bool := n.f 0 52 1 == 1
def GNode.idemp (n : GNode) : Bool := n.f 0 51 1 == 1
def GNode.gang (n : GNode) : Bool := n.f 0 50 1 == 1
def GNode.runahead (n : GNode) : Bool := n.f 0 49 1 == 1
def GNode.cscope (n : GNode) : Nat := n.f 0 46 3
def GNode.hreg (n : GNode) : Nat := n.f 0 41 5
def GNode.hcore (n : GNode) : Nat := n.f 0 32 9
def GNode.scount (n : GNode) : Nat := n.f 0 24 8
def GNode.vcount (n : GNode) : Nat := n.f 0 18 6
def GNode.openN (n : GNode) : Bool := n.f 0 17 1 == 1
def GNode.entry (n : GNode) : Nat := n.f 1 0 56
def GNode.count (n : GNode) : Nat := n.f 2 0 32
def GNode.beat (n : GNode) : Nat := n.f 4 32 32
def GNode.budget (n : GNode) : Nat := n.f 4 0 32
def GNode.rule (n : GNode) : Nat := n.f 5 62 2
def GNode.kbound (n : GNode) : Nat := n.f 5 0 32
def GNode.bufsize (n : GNode) : Nat := n.f 6 32 32
def GNode.stepmax (n : GNode) : Nat := n.f 6 0 32
def GNode.bufbase (n : GNode) : Nat := n.f 7 0 64
def GNode.boardAddr (n : GNode) : Nat := n.f 8 0 64
def GNode.front (n : GNode) : Nat := n.f 9 0 64

def noNode : GNode := { raw := [], regs := [], reads := [], writes := [] }
def noGraph : Graph := { space := 0, compl := 0, errq := 0, save := 0, saven := 0, nodes := [] }
def noLaunch : Launch := { no := 0, regs := [], nodes := [], made := [] }
def noTaskRec : TaskRec := { graph := 0, node := 0, num := 0, launch := 0 }

/-! ### Reaching records -/

def State.graph (s : State) (d g : Nat) : Graph := (tabFind (s.dv d).graphs g).getD noGraph
def State.modGraph (s : State) (d g : Nat) (f : Graph → Graph) : State :=
  match tabFind (s.dv d).graphs g with
  | some x => s.modDev d (fun v => { v with graphs := tabPut v.graphs g (f x) })
  | none => s
def State.gnode (s : State) (d g n : Nat) : GNode := nth noNode (s.graph d g).nodes n
def State.modNode (s : State) (d g n : Nat) (f : GNode → GNode) : State :=
  s.modGraph d g (fun x => { x with nodes := setNth x.nodes n (f (nth noNode x.nodes n)) })
def Graph.launch (g : Graph) (l : Nat) : Option Launch := g.launches.find? (fun x => x.no == l)
def State.modLaunch (s : State) (d g l : Nat) (f : Launch → Launch) : State :=
  s.modGraph d g (fun x => { x with launches := x.launches.map (fun y => if y.no = l then f y else y) })
def State.taskRec (s : State) (d t : Nat) : Option TaskRec := tabFind (s.dv d).tasks t
def State.setTask (s : State) (d t : Nat) (r : TaskRec) : State := s.modDev d (fun v => { v with tasks := tabPut v.tasks t r })
def State.delTask (s : State) (d t : Nat) : State := s.modDev d (fun v => { v with tasks := tabDel v.tasks t })

/-- The step that seats a waiting task. -/
def seatStep (d t : Nat) (r : TaskRec) : Instr :=
  match r.st with
  | .spilled => .restore d t
  | .transit => .taskMigrateSeat d t
  | _ => .taskPlace d t

/-- Insert by a strict order, after its equals. -/
def insertBy {α : Type} (lt : α → α → Bool) (x : α) : List α → List α
  | [] => [x]
  | y :: r => if lt x y then x :: y :: r else y :: insertBy lt x r

/-- A list sorted by a strict order, stably. -/
def sortBy {α : Type} (lt : α → α → Bool) (l : List α) : List α := l.foldl (fun acc x => insertBy lt x acc) []

/-- The order in which blocks of one node are offered (R306, R315): provisional starts last, then target level,
then index. -/
def blockLt (n : GNode) (x y : TaskRec) : Bool :=
  let i := x.num % 65536
  let j := y.num % 65536
  let b := nth {} n.board i
  let c := nth {} n.board j
  if (b.st == .provisional) != (c.st == .provisional) then c.st == .provisional
  else
    let df := (b.level + b.step - (c.level + c.step)).toInt
    decide (df < 0) || (decide (df = 0) && decide (i < j))

/-- The task records waiting for a seat, in order of arrival. -/
def State.waiting (s : State) (d : Nat) : List (Nat × TaskRec) :=
  (s.dv d).arrivals.filterMap (fun t => (s.taskRec d t).map (fun r => (t, r)))

/-- A block whose node starts no more blocks (R314, R316). -/
def GNode.stopped (nd : GNode) : Bool := nd.frozen || nd.board.any (fun b => b.st == .frozen && b.spread)

/-- The headframe may start a waiting task: its node is eligible in its launch and starts tasks. -/
def State.mayStart (s : State) (d : Nat) (r : TaskRec) : Bool :=
  let gr := s.graph d r.graph
  let nd := s.gnode d r.graph r.node
  !gr.quiesced && (match gr.launch r.launch with
    | some l => nth .waiting l.nodes r.node == .eligible
    | none => false) &&
  (nd.kind != 2 || !nd.stopped || (nth {} nd.board (r.num % 65536)).st == .provisional)

/-- The tasks of a gang instance, by task number. -/
def State.gangTasks (s : State) (d : Nat) (r : TaskRec) : List (Nat × TaskRec) :=
  sortBy (fun x y => decide (x.2.num < y.2.num)) ((s.dv d).tasks.filter (fun p =>
    p.2.graph == r.graph && p.2.node == r.node && p.2.launch == r.launch && p.2.num / 4 == r.num / 4))

/-- A gang member that starts again from its launch record while its gang is spilled: it takes its seat when the gang does
(R230). -/
def State.reseats (s : State) (d : Nat) (r : TaskRec) : Bool :=
  (s.gnode d r.graph r.node).gang && r.st == .waiting && !r.home
    && (r.ended != [] || (s.gangTasks d r).any (fun p => p.2.st != .waiting))

/-- A task seeks a seat: it may start, with the rest of its gang, or is restored or moves (R215, R228, R298, R301). -/
def State.seeks (s : State) (d : Nat) (r : TaskRec) : Bool :=
  match r.st with
  | .waiting => s.mayStart d r && (!(s.gnode d r.graph r.node).gang || decide ((s.gangTasks d r).length = 4) || r.home || r.ended != [])
  | .spilled => !(s.graph d r.graph).quiesced
  | _ => true

/-- Task records of one node that are offered in an order of their own: the blocks of a LEVEL node, and of another node the
tasks of one launch that have not started (R297, R306). -/
def sameOffer (nd : GNode) (x y : TaskRec) : Bool :=
  x.graph == y.graph && x.node == y.node && (nd.kind == 2 || (x.launch == y.launch && x.st == .waiting && y.st == .waiting))

/-- The order in which they are offered. -/
def offerLt (nd : GNode) (x y : TaskRec) : Bool := if nd.kind = 2 then blockLt nd x y else decide (x.num < y.num)

/-- The waiting tasks in the order in which a seat is offered: descending PRIO, then arrival, the tasks of one
node standing among themselves by their own order (R297, R301, R306). -/
def State.ranked (s : State) (d : Nat) : List (Nat × TaskRec) :=
  let all := s.waiting d
  let prio (p : Nat × TaskRec) : Nat := (s.gnode d p.2.graph p.2.node).prio
  let byPrio := sortBy (fun x y => decide (prio y < prio x)) all
  byPrio.zipIdx.map (fun q =>
    let r := q.1.2
    let nd := s.gnode d r.graph r.node
    let same (p : Nat × TaskRec) : Bool := sameOffer nd r p.2
    let k := ((byPrio.take q.2).filter same).length
    nth q.1 (sortBy (fun x y => offerLt nd x.2 y.2) (byPrio.filter same)) k)

/-- Every waiting task is offered what is free, in order (R301). -/
def State.offerAll (s : State) (d : Nat) : State :=
  { s with agenda := s.agenda ++ (s.ranked d).map (fun p => .event (seatStep d p.1 p.2)) }

/-- A new task record, offered for placement (R290, R301). -/
def State.newTask (s : State) (d : Nat) (r : TaskRec) : State :=
  let v := s.dv d
  let t := v.nextTask
  (s.setDev d { v with tasks := tabPut v.tasks t { r with since := v.cycle }, nextTask := t + 1,
                       arrivals := v.arrivals ++ [t] }).later (.taskPlace d t)

/-- %task [49:0] of a task (R32, R297). -/
def TaskRec.word (r : TaskRec) : Nat := r.graph * 2 ^ 44 + r.node * 2 ^ 32 + r.num % 2 ^ 32

/-- The launch record that a task starts from (R211, R297). -/
def State.launchRegs (s : State) (d g l n : Nat) : List Entry :=
  match (s.graph d g).launch l with
  | some x => (nth [] x.regs n).map entryOf
  | none => (nth noNode (s.graph d g).nodes n).regs.map entryOf

/-! ### Watch words (R330) -/

/-- The enabled watch words that a write meets. -/
def State.watched (s : State) (d pa n : Nat) : List (Nat × Watch) := (s.dv d).wtab.filter (fun p => p.2.en && overlap pa n p.2.pa 8)

/-- A write to an enabled watch word puts a mirror into the egress queue; earlier mirrors of the word that have not left are
removed, whichever entry they came from. The value is what the writer's space reads there, the word's new value. -/
def State.mirror (s : State) (space : Nat) (l : Loc) (n : Nat) : State :=
  match l with
  | .dram d pa =>
    let ws := s.watched d pa n
    if ws = [] then s
    else
      let s1 := s.modDev d (fun v => { v with egress := v.egress.filter (fun q => ws.all (fun p => q.mirror != some p.2.pa)) })
      ws.foldl (fun (s : State) p =>
        let w := p.2
        let cnt := w.count + 1
        let v := s.dv d
        let e : Egress := { addr := w.line.toNat, bytes := bytesOf 8 (s.readNum space (.dram d w.pa) 8) ++ bytesOf 8 cnt.toNat,
                            mirror := some w.pa }
        (s.setDev d { v with wtab := tabPut v.wtab p.1 { w with count := cnt }, egress := v.egress ++ [e] }).laterAt d .egressPost) s1
  | _ => s

/-! ### Headframe reads and writes in a graph's space (assumption log 12) -/

/-- Where a headframe access of device `d` leads (R275, R276). The headframe has no near window; in a core's window it must own
the granule or find it FREE, with the graph's space as the accessor's (R283, assumption log 12). -/
def State.hfPlace (s : State) (d space va : Nat) (u : Use) : Option Loc :=
  match areaOf va with
  | .pad cid off => if s.mayPad space (.pad (512 * d + cid) off) then some (.pad (512 * d + cid) off) else none
  | .xlat => (match s.placeAt d space va u with
    | .at (.dram d' pa) _ => some (.dram d' pa)
    | _ => none)
  | .panel d' va' => (match (if d' = d then s.placeAt d' space va' u else s.farPlace d' space va' u) with
    | .at (.dram d'' pa) _ => if s.reach d d' then some (.dram d'' pa) else none
    | _ => none)
  | _ => none

/-- The dword at a virtual address. -/
def State.vdword (s : State) (d space va : Nat) : Option Nat :=
  (s.hfPlace d space va .load).map (fun l => s.readNum space l 8)

/-- `n` dwords at a virtual address. -/
def State.vdwords (s : State) (d space va : Nat) : Nat → Option (List Nat)
  | 0 => some []
  | n + 1 => do
    let x ← s.vdword d space va
    let r ← s.vdwords d space (va + 8) n
    some (x :: r)

/-- What reading `n` dwords leaves: FREE granules are claimed, and the first dword that a walk could not reach has its record
(R279, R283). -/
def State.noteWords (s : State) (d space va : Nat) : Nat → State
  | 0 => s
  | n + 1 => match s.hfPlace d space va .load with
    | some l => (s.takePad space l).noteWords d space (va + 8) n
    | none => s.noteAt d space va

/-- Write a dword at a virtual address; a write that fails translation, permission or the owner check is dropped. -/
def State.vput (s : State) (d space va v : Nat) : State :=
  match s.hfPlace d space va .store with
  | some l => ((s.takePad space l).writeNum space l 8 v).mirror space l 8
  | none => s.noteAt d space va

/-- Write dwords one after another. -/
def State.vputs (s : State) (d space : Nat) : Nat → List Nat → State
  | _, [] => s
  | va, x :: r => (s.vput d space va x).vputs d space (va + 8) r

/-! ### Error queues (R114, R303) -/

/-- One record of a node's error queue: four dwords, then the count (R303). -/
def State.errPut (s : State) (d g n : Nat) (ws : List Nat) : State :=
  let gr := s.graph d g
  let base := gr.errq + n * 4096
  let k := (s.gnode d g n).errs
  let s := s.vputs d gr.space (base + 64 + 32 * (k % 64)) ws
  (s.vput d gr.space base (k + 1)).modNode d g n (fun x => { x with errs := x.errs + 1 })

/-- Dword 1 of a record (R114). -/
def errWord1 (cause tag : Nat) (nested rest : Bool) (slot id : Nat) : Nat :=
  cause % 65536 * 2 ^ 48 + tag % 4096 * 2 ^ 36 + b2n nested * 2 ^ 35 + b2n rest * 2 ^ 34 + slot % 64 * 2 ^ 21 + id

/-- A LOST or SILENT_MISMATCH record counts in the launch's completion entry (R299). -/
def State.countLost (s : State) (d g l : Nat) : State := s.modLaunch d g l (fun x => { x with lost := x.lost + 1 })

/-! ### Level boards (R305 to R317) -/

/-- d(a, b) of R307. -/
def levelDiff (a b : BitVec 32) : Int := (a - b).toInt

/-- Whether block `b` meets the node's rule, with neighbour levels as `lv` gives them (R308). -/
def ruleHolds (n : GNode) (b : Block) (lv : Block → BitVec 32) : Bool :=
  b.nbrs.all fun i =>
    let x := nth {} n.board i
    decide (x.st = .done) ||
      (if n.rule = 0 then decide (0 ≤ levelDiff (lv x) b.level)
       else if n.rule = 1 then decide (0 ≤ levelDiff (lv x + x.step) (b.level + b.step))
       else decide (levelDiff (b.level + b.step) (lv x) ≤ n.kbound))

/-- The address of buffer `p` of block `b` (R310). -/
def GNode.buffer (n : GNode) (b : Nat) (p : Bool) : Nat := (n.bufbase + (2 * b + b2n p) * n.bufsize) % 2 ^ 64

/-- What the board records of each neighbour (R311, R315). -/
def nbrRecs (n : GNode) (b : Block) : List NbrRec :=
  b.nbrs.map fun i =>
    let x := nth {} n.board i
    { level := x.level, prev := x.prev, cur := n.buffer i x.buf, old := n.buffer i (!x.buf) }

/-- Put a block on a board. -/
def State.setBlock (s : State) (d g n b : Nat) (x : Block) : State :=
  s.modNode d g n (fun y => { y with board := setNth y.board b x })

def State.block (s : State) (d g n b : Nat) : Block := nth {} (s.gnode d g n).board b

/-- The launch in which a node runs: the oldest in progress in which it is eligible. -/
def Graph.running (g : Graph) (n : Nat) : Option Launch := g.launches.find? (fun l => nth .waiting l.nodes n == .eligible)

/-- A block's new step: its task is offered (R297, R306, R315). -/
def State.offerBlock (s : State) (d g n b : Nat) (l : Launch) (prov : Bool) : State :=
  let nd := s.gnode d g n
  let x := nth {} nd.board b
  let y := { x with started := x.started + 1, st := if prov then .provisional else .ready, committed := false, spread := false,
                    recs := if prov then nbrRecs nd x else [] }
  (s.setBlock d g n b y).newTask d
    { graph := g, node := n, num := (x.started + 1) % 65536 * 65536 + b, launch := l.no, regs := s.launchRegs d g l.no n }

/-- Evaluate one block: an IDLE block whose rule holds becomes READY, or PROVISIONAL in a RUNAHEAD node
(R306, R308, R315). The headframe holds 262,144 task records; a block that finds none waits IDLE (R290). -/
def State.evalBlock (s : State) (d g n b : Nat) (l : Launch) : State :=
  let nd := s.gnode d g n
  let x := nth {} nd.board b
  if x.st ≠ .idle ∨ 262144 ≤ (s.dv d).tasks.length then s
  else if ruleHolds nd x (·.level) then s.offerBlock d g n b l false
  else if nd.runahead && ruleHolds nd x (fun y => if y.st = .running then y.level + y.step else y.level) then
    s.offerBlock d g n b l true
  else s

/-- Evaluate the blocks of a LEVEL node that is eligible, not frozen and not stopping (R306, R314, R316, R358). -/
def State.evalBlocks (s : State) (d g n : Nat) : State :=
  let gr := s.graph d g
  let nd := nth noNode gr.nodes n
  match gr.running n with
  | none => s
  | some l =>
    if nd.kind ≠ 2 || nd.frozen || gr.quiesced || nd.board.any (fun b => b.st == .frozen && b.spread) then s
    else (rangeFrom 0 nd.board.length).foldl (fun (x : State) b => x.evalBlock d g n b l) s

/-- Evaluate a LEVEL node; it may freeze then. -/
def State.evalNode (s : State) (d g n : Nat) : State :=
  let gr := s.graph d g
  let nd := nth noNode gr.nodes n
  if (gr.running n).isNone || nd.kind ≠ 2 || nd.frozen then s else (s.evalBlocks d g n).later (.nodeFreeze d g n)

/-- A step's end leaves a block IDLE after a commit and DONE without one; a FROZEN block stays (R306, R313). -/
def State.endBlock (s : State) (d g n b : Nat) : State :=
  let x := s.block d g n b
  let x' := if x.st = .frozen then x else if x.committed then { x with st := .idle, committed := false } else { x with st := .done }
  (s.setBlock d g n b x').evalNode d g n

/-- A block becomes FROZEN at its committed level (R314, R316); the first freeze's cause is kept. -/
def State.freezeBlock (s : State) (d g n b cause : Nat) (spread : Bool) : State :=
  let x := s.block d g n b
  let had := (s.gnode d g n).board.any (fun z => z.st == .frozen)
  let s := s.setBlock d g n b { x with st := .frozen, spread := x.spread || spread }
  (s.modNode d g n (fun y => { y with freezeCause := if had then y.freezeCause else cause })).later (.nodeFreeze d g n)

/-- The steps that a task's end may make due: its node, the OPEN nodes and its launch may complete (R299). -/
def State.afterEnd (s : State) (d : Nat) (r : TaskRec) : State :=
  let gr := s.graph d r.graph
  let opens := (rangeFrom 0 gr.nodes.length).filter (fun i => (nth noNode gr.nodes i).openN)
  let s := s.later (.nodeComplete d r.graph r.launch r.node)
  match opens with
  | [] => s
  | i :: _ => s.later (.nodeComplete d r.graph r.launch i)

/-- A task's save area returns to its pool (R363). -/
def State.freeArea (s : State) (d : Nat) (r : TaskRec) : State :=
  if r.area = 0 then s else s.modGraph d r.graph (fun g => { g with areas := g.areas.filter (fun x => x != r.area - 1) })

/-- A lost task: restarted from its launch record in an idempotent node, else kept LOST; a LEVEL block goes
IDLE or FROZEN (R116, R306, R316). -/
def State.loseTask (s : State) (d t : Nat) (r : TaskRec) (cause : Nat) : State :=
  let nd := s.gnode d r.graph r.node
  let s := s.countLost d r.graph r.launch
  if nd.kind = 2 then
    let b := r.num % 65536
    let s := (s.freeArea d r).delTask d t
    let x := s.block d r.graph r.node b
    if x.st = .frozen then s.later (.nodeFreeze d r.graph r.node)
    else if nd.idemp then (s.setBlock d r.graph r.node b { x with st := .idle, committed := false }).evalNode d r.graph r.node
    else s.freezeBlock d r.graph r.node b cause false
  else if nd.idemp then
    ((s.freeArea d r).delTask d t).newTask d
      { graph := r.graph, node := r.node, num := r.num, launch := r.launch, regs := r.regs, spawnDie := r.spawnDie,
        core := r.core, slot := r.slot, home := r.home }
  else s.setTask d t { r with st := .lost, carry := none }

end Sys2Proof.Machine
end

