-- ==== Sys2Proof/Machine/Ops.lean ====
section
/-! DEFINITION. The shared operations of a core: the timer, leaving and rejoining rotation, ports, full and
empty registers, taking a trap, escalation and slot kill (R21 to R35, R50, R51, R111 to R116, R126 to R136). -/

namespace Sys2Proof.Machine

/-! ### The timer (R35) -/

/-- %timer counts while the slot is in rotation and not in handler mode. -/
def Slot.counting (sl : Slot) : Bool := decide (sl.run = .ready) && !sl.hmode && decide (sl.timer ≠ 0)

/-- The count at the start of cycle `t`. -/
def Slot.timerAt (sl : Slot) (t : Nat) : Word :=
  if sl.counting then (if sl.timer.toNat ≤ t - sl.timerFrom then 0 else sl.timer - BitVec.ofNat 64 (t - sl.timerFrom))
  else sl.timer

/-- The timer has reached 0 and TIMER is not yet taken. -/
def Slot.timerDue (sl : Slot) (t : Nat) : Bool := sl.timerHit || (sl.counting && decide (sl.timerAt t = 0))

/-- Bring the count up to the start of cycle `t`. -/
def Slot.settle (sl : Slot) (t : Nat) : Slot :=
  { sl with timer := sl.timerAt t, timerFrom := t, timerHit := sl.timerDue t }

/-! ### Rotation (R25, R27) -/

/-- A specifier is a mailbox. -/
def isMbox (spec : Nat) : Bool := decide (140 ≤ spec) && decide (spec ≤ 143)

/-- The slots that wait to write a mailbox, in the order in which they began (R134). -/
def Core.mbQueue (k : Core) (spec : Nat) : List Nat := tabGet [] k.mbWait spec

/-- Slot `n` waits for the mailboxes given and for no other; where it waits already it keeps its place. -/
def Core.queueMbox (k : Core) (n : Nat) (specs : List Nat) : Core :=
  let left := k.mbWait.map (fun p => if specs.contains p.1 then p else (p.1, p.2.filter (fun x => x != n)))
  let join (m : SMap (List Nat)) (p : Nat) : SMap (List Nat) := if (tabGet [] m p).contains n then m else tabPut m p (tabGet [] m p ++ [n])
  { k with mbWait := specs.foldl join left }

/-- The mailboxes among what a slot waits for. -/
def mboxesOf (ws : List Wait) : List Nat :=
  ws.filterMap (fun w => match w with
    | .room spec => if isMbox spec then some spec else none
    | _ => none)

/-- The missing translations among the waits of a core's slot have their walks due (R281). -/
def State.dueWalks (s : State) (c : Nat) (ws : List Wait) : State :=
  ws.foldl (fun (s : State) w => match w with
    | .walk space page => s.later (.walkComplete c space (page * 65536))
    | _ => s) s

/-- A slot leaves rotation at the current turn, which still counts for its timer (R27, R35); a missing
translation has its walk due (R281), and a writer of a full mailbox joins those that wait for it (R134). -/
def State.leave (s : State) (c n : Nat) (ws : List Wait) : State :=
  ((s.dueWalks c ws).modCore c (fun k => k.queueMbox n (mboxesOf ws))).modSlot c n
      (fun sl => { (if n = 62 then sl else sl.settle (s.now c + 1)) with run := .out ws })

/-- A slot in rotation or out of it. -/
def Slot.live (sl : Slot) : Bool := decide (sl.run ≠ .free) && decide (sl.run ≠ .ended)

/-- A slot holds a task; the handler slot never does (R125). -/
def Core.holdsTask (k : Core) (n : Nat) : Bool := (k.slot n).live && n != 62

/-- A HAULAGE task runs on the core (R134). -/
def Core.haulageRuns (k : Core) : Bool := (k.slot 63).live && (k.slot 63).haulage

/-- Accesses in flight of a slot: those of OAR(s) and RB(s) (R100). -/
def State.own (s : State) (c n : Nat) : List Access := s.net.filter (fun a => a.core == c && a.slot == n && !a.loose)

/-- Relaxed accesses of a slot: RB(s). -/
def State.rb (s : State) (c n : Nat) : List Access := (s.own c n).filter (·.relaxed)

/-- OAR(s) and RB(s) are empty. -/
def State.drained (s : State) (c n : Nat) : Bool := (s.own c n).isEmpty

/-- Reply buffers of a core in use (R247). -/
def State.replyUse (s : State) (c : Nat) : Nat :=
  (s.net.filter (fun a => a.core == c && (a.relaxed || a.kind == .sljoin || (match a.kind with | .card _ _ _ => true | _ => false)))).length

/-- System entries of a message queue, booked or filled (R136). -/
def Slot.sysUse (sl : Slot) : Nat := sl.booked + (sl.msgs.filter (·.sys)).length

/-! ### Ports (R50, R51, R126 to R128, R133, R134) -/

/-- Filled entries at the head of a port's FIFO. -/
def ready (l : List PEntry) : Nat := (l.takeWhile (·.filled)).length

/-- The key under which a priority of runq is kept. -/
def runqKey (pr : Nat) : Nat := 160 + pr

/-- How many entries a pop by slot `n` finds at a source port; a scalar register or zero is not counted. -/
def Core.avail (k : Core) (n spec : Nat) : Nat :=
  if spec = 144 then (k.slot n).msgs.length
  else if spec = 146 then ready (k.port 160) + ready (k.port 161) + ready (k.port 162) + ready (k.port 163)
  else if 136 ≤ spec ∧ spec ≤ 139 then ready (k.stream (spec - 136)).ents
  else ready (k.port spec)

/-- Entries a port can hold. -/
def portCap (spec : Nat) : Nat := if 140 ≤ spec ∧ spec ≤ 143 then 1 else 64

/-- Whether a port other than runq has room for a push by slot `n` (R126, R133): a mailbox takes the writer that has
waited longest, and none while no HAULAGE task runs (R134). -/
def Core.hasRoom (k : Core) (n spec : Nat) : Bool :=
  if 136 ≤ spec ∧ spec ≤ 139 then decide ((k.stream (spec - 136)).ents.length < 64)
  else decide ((k.port spec).length < portCap spec) &&
    (!isMbox spec || (k.haulageRuns && decide ((k.mbQueue spec).headD n = n)))

/-- The highest priority of runq that is not empty (R128). -/
def Core.runqTop (k : Core) : Nat :=
  if 0 < ready (k.port 163) then 163 else if 0 < ready (k.port 162) then 162
  else if 0 < ready (k.port 161) then 161 else 160

def noEntry : PEntry := { val := 0 }

/-- The oldest entry that a pop of `spec` by slot `n` finds. -/
def Core.front (k : Core) (n spec : Nat) : PEntry :=
  if spec = 144 then (match (k.slot n).msgs with | m :: _ => { val := m.word } | [] => noEntry)
  else if spec = 146 then (k.port k.runqTop).headD noEntry
  else if 136 ≤ spec ∧ spec ≤ 139 then (k.stream (spec - 136)).ents.headD noEntry
  else (k.port spec).headD noEntry

/-- Pop one entry (R50). A mailbox's writer becomes the hand-over slot (R256); a stream unbinds after its
last element (R258). -/
def Core.pop (k : Core) (n spec : Nat) : Core :=
  if spec = 144 then k.setSlot n { k.slot n with msgs := (k.slot n).msgs.tail }
  else if spec = 146 then k.setPort k.runqTop (k.port k.runqTop).tail
  else if 136 ≤ spec ∧ spec ≤ 139 then
    let x := k.stream (spec - 136)
    let y := { x with ents := x.ents.tail, moved := x.moved + 1 }
    k.setStream (spec - 136) (if y.moved = y.total then { y with bound := false } else y)
  else if 140 ≤ spec ∧ spec ≤ 143 then
    (k.setSlot n { k.slot n with handover := some (k.front n spec).writer }).setPort spec (k.port spec).tail
  else k.setPort spec (k.port spec).tail

/-- What a pop of `spec` by slot `n` takes, with what puts it back. -/
def Core.taken (k : Core) (n spec : Nat) : Popped where
  spec := spec
  ent := k.front n spec
  sys := decide (spec = 144) && (match (k.slot n).msgs with
    | m :: _ => m.sys
    | [] => false)
  hand := (k.slot n).handover

/-- Put a popped entry back at the head of its port (R5), which may then hold more than its number (assumption log 68). -/
def Core.unpop (k : Core) (n : Nat) (p : Popped) : Core :=
  if p.spec = 144 then k.setSlot n { k.slot n with msgs := { word := p.ent.val, sys := p.sys } :: (k.slot n).msgs }
  else if p.spec = 146 then
    let key := 160 + bitsN p.ent.val 62 2
    k.setPort key (p.ent :: k.port key)
  else if 136 ≤ p.spec ∧ p.spec ≤ 139 then
    let x := k.stream (p.spec - 136)
    k.setStream (p.spec - 136)
      { x with ents := p.ent :: x.ents, moved := x.moved - 1, bound := x.bound || decide (x.moved = x.total) }
  else if isMbox p.spec then (k.setSlot n { k.slot n with handover := p.hand }).setPort p.spec (p.ent :: k.port p.spec)
  else k.setPort p.spec (p.ent :: k.port p.spec)

/-- Push an entry at the tail; the writer of a mailbox waits for it no longer (R134). -/
def Core.push (k : Core) (spec : Nat) (e : PEntry) : Core :=
  if 136 ≤ spec ∧ spec ≤ 139 then
    let x := k.stream (spec - 136)
    k.setStream (spec - 136) { x with ents := x.ents ++ [e], moved := x.moved + 1 }
  else (if isMbox spec then k.queueMbox e.writer [] else k).setPort spec (k.port spec ++ [e])

/-- Fill the entry that was reserved under `key` (R50). -/
def fillKey (l : List PEntry) (key : Nat) (v : Word) (po : Bool) (tag : BitVec 12) : List PEntry :=
  l.map (fun e => if e.key = key ∧ !e.filled then { e with val := v, filled := true, poison := po, tag := tag } else e)

/-- The priority that a value names (R50). -/
def prioOf (v : Word) : Nat := bitsN v 62 2

/-- A priority of runq takes a value: it has room, and no value waits for it (R50, R128). -/
def Core.runqOpen (k : Core) (pr : Nat) : Bool :=
  decide ((k.port (runqKey pr)).length < 64) && !k.runqWait.any (fun e => decide (prioOf e.val = pr))

/-! ### Full and empty registers (R21 to R24) -/

/-- The scalar-file entry of register `r` of a slot (R16). -/
def Slot.ent (sl : Slot) (r : Nat) : Nat := sl.sbase + r

/-- The vector-file register of register `r` of a slot. -/
def Slot.vent (sl : Slot) (r : Nat) : Nat := sl.vbase + r

/-- Mark an entry empty-pending (R21). -/
def Core.pendEntry (k : Core) (e : Nat) : Core := k.setEntry e { k.entry e with full := false, pend := true }

/-- Bit `n` of the predicate word; p0 reads 1 (R18, R69). -/
def Slot.pred (sl : Slot) (n : Nat) : Bool := decide (n = 0) || bit sl.preds n

/-- Write a predicate; a write to p0 is discarded (R69). -/
def Slot.setPred (sl : Slot) (n : Nat) (b : Bool) : Slot :=
  if n = 0 then sl else { sl with preds := putBits sl.preds n 1 (b2n b) }

/-- The destinations of what a slot has outstanding. -/
def State.promised (s : State) (c n : Nat) : List Dst :=
  let k := s.core c
  ((s.net.filter (fun a => a.core == c && a.slot == n)).map (·.dst)) ++ ((k.vops.filter (fun (o : VOp) => o.slot == n)).map (·.sdst))
    ++ (((k.munit.toList ++ k.mwait.toList).filter (fun (o : MOp) => o.slot == n)).map (·.sdst))

/-- A completion to this destination is a push. -/
def Dst.push : Dst → Bool
  | .port _ _ | .runq => true
  | _ => false

/-- The entries of a pair's store comparator that its leading slot has taken up: the effects that it holds, and the pushes
that accesses of the slot will make at their completion (R218, assumption log 30). -/
def State.cmpUse (s : State) (c n : Nat) : Nat :=
  ((s.core c).pair (n / 2)).cmp.length + ((s.promised c n).filter Dst.push).length

/-- The 32 entries of the store comparator are taken up (R218). -/
def State.cmpFull (s : State) (c n : Nat) : Bool := decide (32 ≤ s.cmpUse c n)

/-- The effects of a pair enter the store comparator from the leading slot and are compared with the trailing
slot's (R218). -/
def State.pairPut (s : State) (c n : Nat) (e : Effect) : State :=
  let k := s.core c
  let p := k.pair (n / 2)
  let p' := if n % 2 = 0 then { p with cmp := p.cmp ++ [e] } else { p with trail := p.trail ++ [e] }
  (s.setCore c (k.setPair (n / 2) p')).later (.pairedEffectCompare c (n / 2))

/-- A push by a slot of a pair, as an effect (R218). -/
def pushEffect (spec : Nat) (v : Word) (po : Bool) (tag : BitVec 12) (pc : BitVec 56) : Effect :=
  { kind := 98, addr := BitVec.ofNat 64 spec, size := 8, val := v, ins := .roundStart 0, pc := pc, vals := [v],
    poison := po, tag := tag }

/-- A scalar-file entry becomes full (R101, R99). -/
def State.fillReg (s : State) (c e : Nat) (v : Word) (po : Bool) (tag : BitVec 12) : State :=
  s.modCore c (fun k => k.setEntry e { val := v, full := true, pend := false, poison := po, tag := if po then tag else 0 })

/-- The completion of the instruction at `pc` writes its destination full; in a pair, a push is an effect of that instruction
(R101, R50, R127, R218). -/
def State.deliver (s : State) (c n : Nat) (d : Dst) (v : Word) (po : Bool) (tag : BitVec 12) (pc : BitVec 56) : State :=
  match d with
  | .none => s
  | .reg e => s.fillReg c e v po tag
  | .port spec key =>
    if (s.slot c n).paired then s.pairPut c n (pushEffect spec v po tag pc)
    else s.modCore c (fun k =>
      if 136 ≤ spec ∧ spec ≤ 139 then
        k.setStream (spec - 136) { k.stream (spec - 136) with ents := fillKey (k.stream (spec - 136)).ents key v po tag }
      else k.setPort spec (fillKey (k.port spec) key v po tag))
  | .runq =>
    if (s.slot c n).paired then s.pairPut c n (pushEffect 146 v po tag pc)
    else if (s.core c).runqOpen (prioOf v) then
      s.modCore c (fun k => k.push (runqKey (prioOf v)) { val := v, poison := po, tag := tag, writer := n })
    else
      let s := s.modCore c (fun k => { k with runqWait := k.runqWait ++ [{ val := v, poison := po, tag := tag, writer := n }] })
      s.modSlot c n (fun sl => match sl.run with
        | .out ws => { sl with run := .out (ws ++ [.runqPlaced]) }
        | _ => sl)
  | .pred p => s.modSlot c n (fun sl => sl.setPred p (decide (v ≠ 0)))

/-- A destination kept for a completion that writes nothing: full or empty as it was, a port's entry gone (R168, R221). -/
def State.undoDst (s : State) (c : Nat) (d : Dst) (was : Bool) : State :=
  match d with
  | .reg e => s.modCore c (fun k => k.setEntry e { k.entry e with full := was, pend := false })
  | .port spec key => s.modCore c (fun k =>
      if 136 ≤ spec ∧ spec ≤ 139 then
        let x := k.stream (spec - 136)
        k.setStream (spec - 136) { x with ents := x.ents.filter (fun e => e.filled || e.key != key), moved := x.moved - 1 }
      else k.setPort spec ((k.port spec).filter (fun e => e.filled || e.key != key)))
  | _ => s

/-- Slot `n` is the leading slot of a pair (R216). -/
def State.leads (s : State) (c n : Nat) : Bool := (s.slot c n).paired && n % 2 == 0

/-- The load-value queue of a pair after `f`. -/
def State.modLvq (s : State) (c p : Nat) (f : List PEntry → List PEntry) : State :=
  s.modCore c (fun k => k.setPair p { k.pair p with lvq := f (k.pair p).lvq })

/-- A trailing slot whose effect waits for a value gets it, or the trap in its place, and goes on (R218). -/
def State.giveTrail (s : State) (c n : Nat) (d : Dst) (pc : BitVec 56) (e : PEntry) : State :=
  let s := match e.trap with
    | some t => s.modSlot c n (fun sl => { sl with hit := some t, pc := pc })
    | none => s.deliver c n d e.val e.poison e.tag pc
  s.modSlot c n (fun sl => { sl with pairWait := none, run := .out [.over] })

/-- What the leading slot of a pair takes from outside goes to the trailing slot: to the effect that waits for it,
else into the load-value queue (R217, R218). -/
def State.lvqPut (s : State) (c n : Nat) (e : PEntry) : State :=
  if s.leads c n then
    match (s.slot c (n + 1)).pairWait with
    | some (d, pc, 0) => s.giveTrail c (n + 1) d pc e
    | _ => s.modLvq c (n / 2) (fun l => l ++ [e])
  else s

/-- The value of an access that the leading slot sends keeps its place: the effect that waits, or an entry of the
load-value queue that the reply fills (R217, R218). -/
def State.lvqReserve (s : State) (c n key : Nat) : State :=
  if s.leads c n then
    match (s.slot c (n + 1)).pairWait with
    | some (d, pc, 0) => s.modSlot c (n + 1) (fun sl => { sl with pairWait := some (d, pc, key) })
    | _ => s.modLvq c (n / 2) (fun l => l ++ [{ val := 0, filled := false, key := key }])
  else s

/-- The reply of an access of the leading slot takes the place kept for it. -/
def State.lvqFill (s : State) (c n key : Nat) (e : PEntry) : State :=
  if s.leads c n then
    let queued : State := s.modLvq c (n / 2) (fun l => l.map (fun x => if x.key = key ∧ !x.filled then e else x))
    match (s.slot c (n + 1)).pairWait with
    | some (d, pc, k) => if k = key then s.giveTrail c (n + 1) d pc e else queued
    | none => queued
  else s

/-! ### Message queues (R135, R136) -/

/-- Fill a booked system entry of a slot's task. -/
def State.sysMsg (s : State) (c n : Nat) (w : Word) : State :=
  s.modSlot c n (fun sl => { sl with msgs := sl.msgs ++ [⟨w, true⟩], booked := sl.booked - 1 })

/-- The task of a core that a word names: seated in the slot, else spilled and found in the directory (R138, R139). -/
inductive Mbox where
  | slot
  | area (e : SpillEnt)
  | none
  deriving DecidableEq, Repr

def State.mbox (s : State) (c n : Nat) (num : Nat) : Mbox :=
  let sl := s.slot c n
  if sl.live && decide (bitsN sl.taskw 0 32 = num) && decide (n ≠ 62) then .slot
  else match (s.core c).spillDir.find? (fun e => decide (bitsN e.taskw 0 32 = num)) with
    | some e => .area e
    | none => .none

/-- The message count dword of a save area: count, bookings (R118). -/
def State.areaCount (s : State) (c : Nat) (e : SpillEnt) : Nat := ((s.vdword (devOf c) e.space (e.area + 0x60)).getD 0)

/-- Append a word to the message queue in a save area, with the count word replaced (R118). That a count word marked with an
uncorrectable error is read as it stands and loses its mark is the model's choice (assumption log 74). -/
def State.areaMsg (s : State) (c : Nat) (e : SpillEnt) (w : Word) (cnt : Nat) : State :=
  let n := cnt % 32
  (s.vput (devOf c) e.space (e.area + 0x80 + 8 * n) w.toNat).vput (devOf c) e.space (e.area + 0x60) (cnt + 1)

/-- The seat of the task that a word names, if it has one. -/
def State.seatFor (s : State) (d : Nat) (tw : Word) : Option (Nat × Nat) :=
  ((s.dv d).tasks.find? (fun p => p.2.st == .seated && decide (p.2.word = bitsN tw 0 50))).map (fun p => (p.2.core, p.2.slot))

/-- The state of a task that is spilled, wherever it was (R117, R118). -/
def TaskRec.away (r : TaskRec) : Bool := r.st == .spilled || r.st == .parked || r.st == .quiesced

/-- The save area of the spilled task that a word names (R118). -/
def State.areaFor (s : State) (d : Nat) (tw : Word) : Option SpillEnt :=
  ((s.dv d).tasks.find? (fun p => p.2.away && decide (p.2.word = bitsN tw 0 50))).map
    (fun p => { taskw := tw, space := (s.graph d p.2.graph).space, area := p.2.savearea.toNat })

/-- Where the task that a word names is: in slot `n` of core `c`, seated elsewhere, in its save area, or nowhere. -/
inductive TaskAt where
  | seat (c n : Nat)
  | area (e : SpillEnt)
  | none
  deriving DecidableEq, Repr

def State.taskAt (s : State) (c n : Nat) (tw : Word) : TaskAt :=
  if (s.slot c n).live && decide (bitsN (s.slot c n).taskw 0 50 = bitsN tw 0 50) && decide (n ≠ 62) then .seat c n
  else match s.areaFor (devOf c) tw with
    | some e => .area e
    | none => match s.seatFor (devOf c) tw with
      | some (c', n') => .seat c' n'
      | none => .none

/-- A system message for the task that a word names: into its queue, into its save area, into its queue at a seat
that it was restored to, or nowhere when its booking has lapsed (R118, R136, R241). That a message is told by its task word
alone, and takes any booking that the task has, is the model's choice (assumption log 74). -/
def State.sysFor (s : State) (c n : Nat) (tw w : Word) : State :=
  match s.taskAt c n tw with
  | .seat c n => if (s.slot c n).booked = 0 then s else s.sysMsg c n w
  | .area e => let cnt := s.areaCount c e
    if nbits cnt 16 4 = 0 then s else s.areaMsg c e w (cnt - 65536)
  | .none => s

/-- A booking lapses (R136). -/
def State.unbook (s : State) (c n : Nat) : State := s.modSlot c n (fun sl => { sl with booked := sl.booked - 1 })

/-- The booking of the task that a word names lapses, in its slot or in its save area (R118, R136). -/
def State.unbookFor (s : State) (c n : Nat) (tw : Word) : State :=
  match s.taskAt c n tw with
  | .seat c n => s.unbook c n
  | .area e => let cnt := s.areaCount c e
    if nbits cnt 16 4 = 0 then s else s.vput (devOf c) e.space (e.area + 0x60) (cnt - 65536)
  | .none => s

/-! ### Claims and chains at a task's end (R84, R110, R240) -/

/-- Destroy every live claim of a slot (R110). -/
def Core.dropClaims (k : Core) (n : Nat) : Core :=
  { k with claims := k.claims.map (fun p =>
      if p.2.valid && p.2.slot == n && p.2.saved.isNone then (p.1, { p.2 with valid := false, gen := p.2.gen + 1 }) else p) }

/-- Free a chain entry; an OPEN one leaves its accumulator full (R240). -/
def Core.closeChain (k : Core) (i : Nat) : Core :=
  let x := k.chain i
  let k := if x.st = .opened then k.setAcc x.acc { k.acc x.acc with full := true, pend := false } else k
  k.setChain i { x with st := .free, idents := [] }

/-- Free every chain entry of a task. -/
def Core.closeChains (k : Core) (task : Nat) : Core :=
  (rangeFrom 0 16).foldl (fun k i => if (k.chain i).st ≠ .free ∧ (k.chain i).task = task then k.closeChain i else k) k

/-- Streams bound to a slot end with their jobs ABANDONED (R258); ABANDONED has no faulting address, and that STATUS holds 0 for
it is the model's choice (R252, assumption log 74). -/
def Core.dropStreams (k : Core) (n : Nat) : Core :=
  let ended := ((rangeFrom 0 4).filter (fun i => (k.stream i).bound && (k.stream i).slot == n))
  let jobs := ended.map (fun i => (k.stream i).job)
  let k := ended.foldl (fun k i => k.setStream i { k.stream i with bound := false, ents := [] }) k
  { k with seq := k.seq.map (fun j => if jobs.contains j.no && j.err.isNone then { j with err := some (6, 0) } else j) }

/-- Jobs that have met an error may complete (R252). -/
def State.wakeJobs (s : State) (c : Nat) : State :=
  (s.core c).seq.foldl (fun s j => if j.err.isSome then s.later (.jobComplete c j.no) else s) s

/-- The waiter lists of semaphores and mailboxes without a slot (R131, R134). -/
def Core.dropWaiter (k : Core) (n : Nat) : Core :=
  { k.queueMbox n [] with sems := k.sems.map (fun p => (p.1, { p.2 with waiters := p.2.waiters.filter (fun x => x != n) })) }

/-- Zero a slot's windows: full, unpoisoned, tag 0 (R116). -/
def Core.scrub (k : Core) (sl : Slot) : Core :=
  { k with sfile := k.sfile.filter (fun p => !(decide (sl.sbase ≤ p.1) && decide (p.1 < sl.sbase + sl.scount))),
           vfile := k.vfile.filter (fun p => !(decide (sl.vbase ≤ p.1) && decide (p.1 < sl.vbase + sl.vcount))) }

/-! ### Home FIFOs (R100, R101, R124) -/

/-- The step that an access takes at the head of its home FIFO. -/
def stepOf (a : Access) : Instr :=
  match a.kind with
  | .dlv => .claimDelivery a.id
  | .send => .messageAccept a.id
  | .am => (match a.home with
    | .memPort c => .activeMessageRun c
    | _ => .serve a.id)
  | .kick => .kickAccept a.id
  | .sljoin => .sluiceJoinServe a.id
  | .slsend => .sluiceContribution a.id
  | .mcast => .mcastRootForward a.id
  | .notice _ => .tokenNotice a.id
  | .query _ => .holdQueryAnswer a.id
  | _ => .serve a.id

/-- An access in flight. -/
def State.acc (s : State) (id : Nat) : Option Access := s.net.find? (fun a => a.id == id)

/-- Replace an access in flight. -/
def State.setAcc (s : State) (a : Access) : State := { s with net := s.net.map (fun b => if b.id = a.id then a else b) }

/-- The access at the head of a home's FIFO; behind a user handler the memory port waits (R125). -/
def State.headAt (s : State) (h : Home) : Option Access :=
  let busy := match h with
    | .memPort c => (s.core c).am.isSome
    | _ => false
  if busy then none
  else s.fifo.findSome? (fun i => s.net.find? (fun a => a.id == i && a.home == h && a.stage == .queued))

/-- The step at the head of a home's FIFO is due. -/
def State.nextAt (s : State) (h : Home) : State :=
  match s.headAt h with
  | some a => s.later (stepOf a)
  | none => s

/-- The access named is at the head of its home's FIFO. -/
def State.atHead (s : State) (id : Nat) : Option Access :=
  match s.acc id with
  | some a => if (s.headAt a.home).map (·.id) = some id then some a else none
  | none => none

/-- The device whose unit a home is. -/
def Home.dev : Home → Nat
  | .bank c _ | .memPort c | .claims c | .msgs c | .kicks c | .chains c => devOf c
  | .slice d _ | .part d _ | .tokens d | .root d _ _ | .host d => d

/-- The class of a packet of the fabric: 0 request, 1 reply, 2 token, 3 bulk (R346). -/
def Access.fabricClass (a : Access) : Nat :=
  if a.stage = .replied then 1
  else match a.kind with
    | .notice _ | .query _ | .answer _ => 2
    | _ => if a.slot = 64 then 3 else 0

/-- The plane of a packet: by a hash of the destination and its address's granule, else of its source slot; retired planes
are skipped, and with every plane retired there is none, which 32 stands for (R341, R342). -/
def State.planeOf (s : State) (src dst : Nat) (a : Access) : Nat :=
  let h := Config.planeHash dst (match a.loc with
    | .far _ addr | .dram _ addr => addr / 2048
    | _ => a.slot)
  let out (p : Nat) : Bool := (tabGet {} (s.dv src).links (8 + p % 32)).retired || (tabGet {} (s.dv dst).links (8 + p % 32)).retired
  ((firstFrom (fun k => !out (h + k)) 0 32).map (fun k => (h + k) % 32)).getD 32

/-- The flow that an access, or its reply, travels in between two devices (R347). -/
def State.flowOf (s : State) (a : Access) : Nat × Nat × Nat × Nat :=
  let (src, dst) : Nat × Nat := if a.stage = .replied then (a.home.dev, devOf a.core) else (devOf a.core, a.home.dev)
  (a.fabricClass, src, dst, s.planeOf src dst a)

/-- A packet is on its way between two devices. -/
def Access.crossing (a : Access) : Bool :=
  (a.stage == .sent || a.stage == .replied) && decide (a.home.dev ≠ devOf a.core)

/-- A packet of a flow is still in the normal channel. -/
def State.flowNormal (s : State) (f : Nat × Nat × Nat × Nat) : Bool := s.net.any (fun b => !b.aside && b.crossing && s.flowOf b == f)

/-- A packet of a flow that has been moved goes to the escape channel, while one of the flow is left in the normal one (R347). -/
def State.enterFlow (s : State) (a : Access) : Access :=
  { a with aside := a.crossing && s.flows.contains (s.flowOf a) && s.flowNormal (s.flowOf a) }

/-- An access that is in `net` sets out again, as a reply or as a request. Packets between devices stand there in the order in
which they entered their channels, which is the order of their flows (R347). -/
def State.setOut (s : State) (a : Access) : State :=
  let b := s.enterFlow a
  if b.crossing then { s with net := s.net.filter (fun x => x.id != b.id) ++ [b] } else s.setAcc b

/-- An earlier packet of the same flow is still in the escape channel, which keeps each flow first-in, first-out (R347). -/
def State.behindFlow (s : State) (a : Access) : Bool :=
  a.aside && (s.net.takeWhile (fun b => b.id != a.id)).any (fun b => b.aside && b.crossing && s.flowOf b == s.flowOf a)

/-- A flow returns to the normal channel once none of its packets is left there (R347). -/
def State.settleFlows (s : State) : State := { s with flows := s.flows.filter s.flowNormal }

/-- An access leaves its FIFO with its reply in a channel; the next of the FIFO is due (R101). -/
def State.answer (s : State) (a : Access) (r : Reply) : State :=
  let s := { s with fifo := s.fifo.filter (fun i => i != a.id) }
  ((s.setOut { a with stage := .replied, reply := r }).later (.complete a.id)).nextAt a.home

/-- An access leaves its FIFO and the machine with no reply. -/
def State.sink (s : State) (a : Access) : State :=
  ({ s with fifo := s.fifo.filter (fun i => i != a.id), net := s.net.filter (fun b => b.id != a.id) } : State).nextAt a.home

/-! ### Gangs (R228 to R231) -/

/-- The four cores of a core's gang. -/
def gangCores (c : Nat) : List Nat := (rangeFrom (gangBase c) 4)

/-- When the last of the four members has ended, their windows and slots are freed (R230). -/
def State.gangEnd (s : State) (c n : Nat) : State :=
  if (gangCores c).all (fun x => let sl := s.slot x n; !(sl.live || sl.again) || !sl.gang) then
    ((gangCores c).foldl (fun s x => if (s.slot x n).gang then s.setSlot x n {} else s) s).offerAll (devOf c)
  else s

/-- Release the barrier when every live member has arrived (R231). -/
def State.barrier (s : State) (c n : Nat) : State :=
  let live := (gangCores c).filter (fun x => (s.slot x n).live && (s.slot x n).gang)
  if !live.isEmpty && live.all (fun x => (s.slot x n).arrived) then
    live.foldl (fun s x => s.modSlot x n (fun sl => { sl with arrived := false, run := .out [.over], pc := sl.pc + 8 })) s
  else s

/-- Every vector register of a slot's window is full. -/
def Core.fillWindow (k : Core) (sl : Slot) : Core :=
  { k with vfile := k.vfile.map (fun p => if sl.vbase ≤ p.1 ∧ p.1 < sl.vbase + sl.vcount then (p.1, { p.2 with full := true, pend := false }) else p) }

/-- A slot becomes free, or an ended gang member keeps its windows, its vector registers full (R212, R230). -/
def State.vacate (s : State) (c n : Nat) : State :=
  if (s.slot c n).gang then
    ((((s.modCore c (fun k => k.fillWindow (k.slot n))).modSlot c n (fun sl => { sl with run := .ended, msgs := [], booked := 0 })).gangEnd c n).barrier c n)
  else (s.setSlot c n {}).offerAll (devOf c)

/-! ### Kill (R116) -/

/-- The slot that the core's spill engine is saving: the first whose request stands (R117). -/
def Core.spilling (k : Core) : Option Nat := k.spillQ.find? (fun n => (k.slot n).spill.isSome)

/-- The spill engine of a core goes on to the next request (R117). -/
def State.nextSpill (s : State) (c : Nat) : State :=
  match (s.core c).spilling with
  | some n => s.later (.spill c n)
  | none => s

/-- Steps 3 and 4 of KillSlot, with what the slot has left in its core's units; a spill of the slot is over with it, and
what waited for that goes on (R117). -/
def State.scrubSlot (s : State) (c n : Nat) : State :=
  let sl := s.slot c n
  let net := (s.net.filter (fun a => !(a.core == c && a.slot == n && a.stage == .parked))).map
    (fun a => if a.core = c ∧ a.slot = n then { a with dead := true, dst := .none, booked := false } else a)
  let s := { s with net := net, badRegs := s.badRegs.filter (fun b =>
    !(b.1 == c && b.2.1 == 1 && decide (sl.vbase ≤ b.2.2) && decide (b.2.2 < sl.vbase + sl.vcount))) }
  (State.nextSpill (c := c) <| State.wakeJobs (c := c) <| s.modCore c (fun k =>
    let k := ((((k.dropClaims n).closeChains sl.task).dropStreams n).dropWaiter n).scrub sl
    { k with spillQ := k.spillQ.filter (fun x => x != n), runqWait := k.runqWait.filter (fun e => e.writer != n),
             vops := k.vops.filter (fun (o : VOp) => o.slot != n),
             vmems := k.vmems.map (fun (o : VMem) => if o.slot = n then { o with dead := true } else o),
             munit := k.munit.map (fun (o : MOp) => if o.slot = n then { o with dead := true } else o),
             mwait := k.mwait.map (fun (o : MOp) => if o.slot = n then { o with dead := true } else o) }.setSlot n
      { sl with msgs := [], booked := 0, acqs := [], rels := [], hit := none, spill := none, kill := none, arrived := false,
                tlbi := none })).nextAt (.claims c)

/-- The other slot of a pair (R216). -/
def partner (n : Nat) : Nat := if n % 2 = 0 then n + 1 else n - 1

/-- A killed slot becomes free; a gang member's window stays seated, for its restart where the node is idempotent
(R116, R230); both slots of a pair go (R219). -/
def State.killFree (s : State) (c n : Nat) (idemp : Bool) : State :=
  let sl := s.slot c n
  let s1 := s.scrubSlot c n
  if sl.gang && idemp then (s1.modSlot c n (fun x => { x with run := .ended, again := true })).barrier c n
  else if sl.paired then
    let s2 := ((s1.scrubSlot c (partner n)).modCore c (fun k => k.setPair (n / 2) {})).setSlot c (partner n) {}
    s2.vacate c n
  else s1.vacate c n

/-- Steps 3 to 5 of KillSlot: scrub, record, free, restart or leave lost (R116, R230). A task that RESET_SCOPE is
discarding is not started again (R334). -/
def State.killEnd (s : State) (c n : Nat) (r : LostRec) : State :=
  let sl := s.slot c n
  let d := devOf c
  match s.taskRec d sl.task with
  | none => s.killFree c n false
  | some t =>
    let s1 := s.killFree c n ((s.gnode d t.graph t.node).idemp && sl.spill != some .discard)
    let m := if sl.paired then n / 2 * 2 else n
    let s2 := s1.errPut d t.graph t.node [r.kind * 2 ^ 56 + t.word, errWord1 r.cause r.tag r.nested false m (s.coreId c), r.tepc, r.tval]
    let t' := { t with core := c, slot := n, home := sl.gang }
    (if sl.spill = some .discard then (s2.countLost d t.graph t.launch).setTask d sl.task { t' with st := .lost, carry := none }
      else s2.loseTask d sl.task t' r.cause).afterEnd d t

/-- The slots that a kill of slot `n` acts on: a slot, or both of a pair (R219). -/
def State.killed (s : State) (c n : Nat) : List Nat := if (s.slot c n).paired then [n / 2 * 2, n / 2 * 2 + 1] else [n]

/-- The port entries kept for a killed slot's results leave their ports, since the results are discarded
(R116, R169; assumption log 57). -/
def State.dropPromised (s : State) (c n : Nat) : State :=
  if (s.slot c n).paired then s
  else (s.promised c n).foldl (fun (s : State) d => match d with
    | .port _ _ => s.undoDst c d true
    | _ => s) s

/-- Step 1 of KillSlot: the slot leaves rotation, and the replies of what it has outstanding will be discarded. -/
def State.killMark (s : State) (c n : Nat) (r : LostRec) : State :=
  let s : State := s.dropPromised c n
  let net := (s.net.filter (fun a => !(a.core == c && a.slot == n && (a.stage == .parked || a.stage == .placing)))).map
    (fun a => if a.core = c ∧ a.slot = n then { a with dead := true, dst := .none, booked := false } else a)
  ({ s with net := net } : State).modCore c (fun k =>
    { k.dropWaiter n with
        runqWait := k.runqWait.filter (fun e => e.writer != n),
        vmems := k.vmems.map (fun (o : VMem) => if o.slot = n then { o with dead := true } else o),
        vops := k.vops.map (fun (o : VOp) => if o.slot = n then { o with dead := true, sdst := .none } else o),
        munit := k.munit.map (fun (o : MOp) => if o.slot = n then { o with dead := true, sdst := .none } else o),
        mwait := k.mwait.map (fun (o : MOp) => if o.slot = n then { o with dead := true, sdst := .none } else o) }.setSlot n
      { k.slot n with run := .out [.killed], msgs := [], booked := 0, hit := none, arrived := false, tlbi := none,
                      pairWait := none, kill := some r })

/-- Step 2 of KillSlot: nothing that a killed slot issued is outstanding. -/
def State.killIdle (s : State) (c n : Nat) : Bool :=
  (s.killed c n).all (fun m => s.drained c m && !(s.core c).vops.any (fun o => o.slot == m))

/-- A kill goes on once nothing that the slot issued is outstanding. -/
def State.killGoOn (s : State) (c n : Nat) : State :=
  match (s.slot c n).kill with
  | some r => if s.killIdle c n then s.killEnd c n r else s
  | none => s

/-- KillSlot (R116, R219). -/
def State.kill (s : State) (c n : Nat) (r : LostRec) : State :=
  ((s.killed c n).foldl (fun (s : State) m => s.killMark c m r) s).killGoOn c n

/-! ### Taking a trap (R111 to R116) -/

/-- Why a slot is spilled when a second reason comes: a discard stands before all, and a task that is to be parked
stays so (R113, R304, R334, R358). -/
def SpillWhy.after (new : SpillWhy) : Option SpillWhy → SpillWhy
  | some .discard => .discard
  | some .trap => if new = .discard then .discard else .trap
  | some .watchdog => if new = .discard then .discard else .watchdog
  | some w => if new = .gang then w else new
  | none => new

/-- A request joins the queue of a core's spill engine. -/
def Core.askSpill (k : Core) (n : Nat) : Core := if k.spillQ.contains n then k else { k with spillQ := k.spillQ ++ [n] }

/-- A spill is requested for a reason; the core's spill engine serves requests in their order (R117). A gang's request
takes its place on the cores of all its live members at once, since they are saved together (R230, assumption log 54). -/
def State.askSpill (s : State) (c n : Nat) (why : SpillWhy) : State :=
  let cs := if (s.slot c n).gang then (gangCores c).filter (fun x => (s.slot x n).live && (s.slot x n).gang) else [c]
  ((cs.foldl (fun (s : State) x => s.modCore x (fun k => k.askSpill n)) s).modSlot c n
    (fun x => { x with spill := some (why.after x.spill) })).later (.spill c n)

/-- Escalation: the slot is parked for the headframe, which writes a TRAP record and spills it; a LEVEL
task's block becomes FROZEN (R113, R316). -/
def State.escalate (s : State) (c n : Nat) : State :=
  let sl := s.slot c n
  let d := devOf c
  let s := (s.leave c n [.spilled]).modSlot c n (fun x => { x with nested := sl.hmode })
  match s.taskRec d sl.task with
  | none => s.askSpill c n .trap
  | some t =>
    let s := s.errPut d t.graph t.node [1 * 2 ^ 56 + t.word, errWord1 (bitsN sl.tcause 0 16) 0 sl.hmode false n (s.coreId c),
      sl.tepc.toNat, sl.tval.toNat]
    let s := if (s.gnode d t.graph t.node).kind = 2 then
        s.freezeBlock d t.graph t.node (t.num % 65536) (bitsN sl.tcause 0 16) false else s
    s.askSpill c n .trap

/-- A user handler's end: the handler slot stops, what it left in flight is discarded, and the FIFO moves on
(R84, R125). That the relaxed accesses of a handler that is aborted or traps lose their results, and that a queue entry kept
for one stays unfilled, is the model's choice (assumption log 74). -/
def State.endHandler (s : State) (c : Nat) : State :=
  let s := { s with net := s.net.map (fun (a : Access) => if a.core = c ∧ a.slot = 62 then { a with dead := true, dst := .none } else a) }
  (s.modCore c (fun k => { k.dropClaims 62 with am := none }.setSlot 62 {})).nextAt (.memPort c)

/-- A user handler that traps or is aborted: a TRAP record with SLOT = 62 to the sender's node (R125). -/
def State.abortHandler (s : State) (c : Nat) : State :=
  let sl := s.slot c 62
  match (s.core c).am with
  | none => s
  | some m =>
    (s.errPut (devOf m.core) (bitsN m.taskw 44 6) (bitsN m.taskw 32 12)
      [1 * 2 ^ 56 + bitsN m.taskw 0 50, errWord1 (bitsN sl.tcause 0 16) 0 false false 62 (s.coreId c), sl.tepc.toNat,
        sl.tval.toNat]).endHandler c

/-- A slot with its trap registers written (R111). -/
def Slot.trapped (sl : Slot) (t : Trap) : Slot :=
  { sl with tepc := sl.pc.setWidth 64, tcause := BitVec.ofNat 64 (t.sub % 256 * 256 + t.cause % 256), tval := t.val, hit := none }

/-- TrapEntry of R111: the trap registers are written, and the slot enters its handler, escalates, or is
killed by poison. -/
def State.trapEntry (s : State) (c n : Nat) (t : Trap) : State :=
  let sl := s.slot c n
  let sl' := sl.trapped t
  let s := s.setSlot c n sl'
  if n = 62 then s.abortHandler c
  else if t.cause = 0x12 ∧ (sl.hmode ∨ sl.tvec = 0) then
    s.kill c n { cause := t.sub % 256 * 256 + t.cause % 256, tag := bitsN t.val 0 12, nested := sl.hmode,
                 tepc := sl.pc.toNat, tval := t.val.toNat }
  else if !sl.hmode ∧ sl.tvec ≠ 0 then
    s.setSlot c n { sl'.settle (s.now c + 1) with hmode := true, pc := sl.tvec.setWidth 56 }
  else s.escalate c n

/-- A trap of a slot: in a pair, trap entry is an effect that both slots must reach, and the leading slot keeps its trap
until the store comparator has room (R218). -/
def State.takeTrap (s : State) (c n : Nat) (t : Trap) : State :=
  if (s.slot c n).paired && n % 2 == 0 && s.cmpFull c n then (s.modSlot c n (fun sl => { sl with hit := some t })).leave c n [.cmpRoom]
  else if (s.slot c n).paired then
    ((s.modSlot c n (fun sl => { sl with hit := none })).leave c n [.cmpMatch]).pairPut c n
      { kind := 99, addr := (s.slot c n).pc.setWidth 64, size := t.sub, val := BitVec.ofNat 64 t.cause, ins := .roundStart 0,
        pc := (s.slot c n).pc, vals := [], trap := some t }
  else s.trapEntry c n t

/-- A trap that a completion reports: what its instruction popped is back at the head of its port, and the slot takes
the trap at its next turn, with the pc at the instruction (R5, R27, R111). -/
def State.lateTrap (s : State) (c n : Nat) (pc : BitVec 56) (ps : List Popped) (t : Trap) : State :=
  if (s.slot c n).kill.isSome then s
  else (s.modCore c (fun k => ps.foldr (fun p k => k.unpop n p) k)).modSlot c n (fun sl => { sl with hit := some t, pc := pc })

/-- The return from handler mode (R91): the pc becomes %tepc, H clears, and the timer counts on. `From the next turn'
is read as from the next cycle, since the timer counts cycles (R35; assumption log 46). -/
def State.trapReturn (s : State) (c n : Nat) : State :=
  let sl := s.slot c n
  s.setSlot c n { sl with pc := sl.tepc.setWidth 56, hmode := false, timerFrom := s.now c + 1 }

/-! ### Waits (R27) -/

/-- Whether the unit of a core has an instruction, waiting or running, that reads a register. -/
def Core.unitReads (k : Core) (tile : Bool) (n : Nat) : Bool :=
  (k.mwait.toList ++ k.munit.toList).any
    (fun o => if tile then o.rT.contains n else o.rA.contains n)

/-- Whether the unit has an instruction still to write a register (R195). -/
def Core.unitWrites (k : Core) (tile : Bool) (n : Nat) : Bool :=
  (k.mwait.toList ++ k.munit.toList).any (fun o => if tile then o.wT.contains n else o.wA.contains n)

/-- Whether a wait of slot `n` is over. -/
def State.waitOver (s : State) (c n : Nat) (w : Wait) : Bool :=
  let k := s.core c
  match w with
  | .reg e => (k.entry e).full
  | .regFree e => !(k.entry e).pend
  | .vreg c' v => ((s.core c').vreg v).full
  | .vregFree v => !(k.vreg v).pend
  | .tile t => (k.tile t).full || k.unitWrites true t
  | .acc a => (k.acc a).full || k.unitWrites false a
  | .tileFull t => (k.tile t).full
  | .accFull a => (k.acc a).full
  | .filled spec m => decide (m ≤ k.avail n spec)
  | .room spec => k.hasRoom n spec
  | .runqRoom pr => k.runqOpen pr
  | .runqPlaced => !k.runqWait.any (fun e => e.writer == n)
  | .access id => !s.net.any (fun a => a.id == id)
  | .drain => s.drained c n
  | .rbRoom => decide ((s.rb c n).length < 8)
  | .apart l m => !(s.rb c n).any (fun a => a.loc.meets a.n l m)
  | .gone ids jobs => !s.net.any (fun a => ids.contains a.id) && !k.seq.any (fun j => jobs.contains j.no)
  | .replyRoom => decide (s.replyUse c < 256)
  | .message => decide ((k.slot n).msgs ≠ [])
  | .sem m => !(k.sem m).waiters.contains n
  | .barrier => !(k.slot n).arrived
  | .chain i => decide ((k.chain i).st ≠ .opened)
  | .book m => decide ((k.slot m).sysUse < 8)
  | .seqRoom => decide (k.seq.length < 32)
  | .kickIn => decide (k.kicks ≠ [])
  | .tokenRoom => (firstFrom (fun i => decide ((tabGet {} (s.dv (devOf c)).tokens i).st = .free)) 0 16384).isSome
  | .vectorIdle => !k.vops.any (fun o => o.slot == n) && !k.vmems.any (fun o => o.slot == n)
      && !k.runqWait.any (fun e => e.writer == n && e.key == 0)
  | .vector id => !k.vops.any (fun o => o.id == id) && !k.vmems.any (fun o => o.id == id)
  | .unitIdle => !(k.mwait.toList ++ k.munit.toList).any (fun o => o.slot == n)
  | .unitPlace => k.mwait.isNone
  | .unitReads t m => !k.unitReads t m
  | .lvq m => decide (m ≤ ready (k.pair (n / 2)).lvq)
  | .lvqRoom m => decide ((k.pair (n / 2)).lvq.length + m ≤ 64)
  | .cmpRoom => !s.cmpFull c n
  | .cmpEmpty => decide ((k.pair (n / 2)).cmp = [])
  | .walk space page => decide (s.look c space (page * 65536) ≠ .miss)
  | .tlbRemoval => (k.slot n).tlbi.isNone
  | .placement l => !l.any (fun q => (s.core q.1).seq.any (fun j => j.no == q.2.1) ||
      s.net.any (fun a => a.slot == 64 && a.core == q.1 && a.jobNo == q.2.1 && inScope q.1 q.2.2 a.home))
  | .cmpMatch | .spilled | .killed => false
  | .over => true

/-- A slot whose waits are over is released, and stays so: it rejoins at the next round whatever happens before (R27). -/
def State.released (s : State) (c n : Nat) (sl : Slot) : Slot :=
  match sl.run with
  | .out ws => if sl.spill.isNone && ws.all (s.waitOver c n) then { sl with run := .out [.over] } else sl
  | _ => sl

/-- Every slot whose waits are over in this state is released. -/
def State.release (s : State) : State :=
  { s with cores := s.cores.map (fun q => (q.1, { q.2 with slots := q.2.slots.map (fun p => (p.1, s.released q.1 p.1 p.2)) })) }

/-- Rejoin the slots of a core whose waits are over; their timers count from the round's first cycle (R27, R35). -/
def State.rejoin (s : State) (c t : Nat) : State :=
  (rangeFrom 0 64).foldl (fun (s : State) n =>
    let sl := s.slot c n
    match sl.run with
    | .out ws =>
      if sl.spill.isNone && n != 62 && ws.all (s.waitOver c n) then s.setSlot c n { sl with run := .ready, timerFrom := t }
      else s
    | _ => s) s

/-- The slots in rotation, in ascending index; slot 62 issues through its own issue point (R25, R29). -/
def Core.rotation (k : Core) : List Nat :=
  (rangeFrom 0 64).filter (fun n => decide (n ≠ 62) && decide ((k.slot n).run = .ready))

end Sys2Proof.Machine
end

