-- ==== Sys2Proof/Machine/Operands.lean ====
section
/-! DEFINITION. The front end that every instruction passes (R57): guard, privilege, role, register ranges,
empty sources, poison, reading and popping, the destination's wait; and writing a destination (R22 to R24,
R30, R39 to R41, R49 to R51, R69). -/

namespace Sys2Proof

/-- The field is a scalar register or port. -/
def Kind.scalar : Kind → Bool
  | .src | .sreg | .sregz | .dst | .dreg | .dregz | .rwreg | .dsrc | .dsrcreg | .creg | .tst => true
  | _ => false

/-- The field is a vector register. -/
def Kind.vector : Kind → Bool
  | .vsrc | .vdst | .vrw | .vtst => true
  | _ => false

/-- The field's scalar value is read. -/
def Kind.reads : Kind → Bool
  | .src | .sreg | .sregz | .rwreg | .dsrc | .dsrcreg => true
  | _ => false

/-- The field's vector register is read. -/
def Kind.vreads : Kind → Bool
  | .vsrc | .vrw => true
  | _ => false

end Sys2Proof

namespace Sys2Proof.Machine

/-- The instruction being run: core, slot, its address and length, its fields and first word, and what it popped. -/
structure Ctx where
  c : Nat
  n : Nat
  pc : BitVec 56
  len : Nat
  o : Opnd
  w0 : BitVec 32
  popped : List Popped
  deriving DecidableEq, Repr

/-- The fn field, and in it the size and the scope of a memory access (R38, R96). -/
def Ctx.fn (x : Ctx) : Nat := x.o.fn.toNat
def Ctx.msize (x : Ctx) : Nat := 2 ^ fld x.fn 0 2
def Ctx.scope (x : Ctx) : Nat := fld x.fn 4 3

/-- Operand values read at issue. -/
structure Vals where
  a : Word := 0
  b : Word := 0
  c : Word := 0
  d : Word := 0
  va : VData := 0
  vb : VData := 0
  vc : VData := 0
  vd : VData := 0
  deriving DecidableEq, Repr

/-- How an instruction's own effect ends: a state, a trap, or a wait out of rotation; a trap or a wait leaves
everything as it was before the instruction (R5, R27). -/
inductive Res where
  | ok (s : State)
  | trap (cause sub : Nat) (val : Word)
  | wait (ws : List Wait)
  deriving DecidableEq, Repr

/-- A field of an instruction: its number as R55 codes it, its kind, specifier and policy bit. -/
structure Fld where
  num : Nat
  kind : Kind
  spec : Nat
  pol : Bool
  deriving DecidableEq, Repr

/-- Operand b is a literal. -/
def litB (o : Opnd) : Bool := o.lit.isSome

/-- The operand fields in the order a, b, c, d (R57); a literal takes the place of b. -/
def fields (ds : Desc) (o : Opnd) : List Fld :=
  [⟨1, ds.a, o.a.toNat, o.ta⟩, ⟨2, if litB o then .none else ds.b, o.b.toNat, o.tb⟩, ⟨3, ds.c, o.c.toNat, o.tc⟩,
   ⟨0, ds.d, o.d.toNat, false⟩]

/-- A specifier is a popping port: q0-q7, sm0-sm3, mb0-mb3, msg, runq. -/
def popping (spec : Nat) : Bool := decide (128 ≤ spec) && decide (spec ≤ 146) && decide (spec ≠ 145)

/-- A specifier is a stream register. -/
def isStream (spec : Nat) : Bool := decide (136 ≤ spec) && decide (spec ≤ 139)

/-- The core and vector-file register that a vector operand names (R49, R229). -/
def vecAt (s : State) (c n spec : Nat) : Nat × Nat :=
  let c' := gangBase c + (c + spec / 32) % 4
  (c', (s.slot c' n).vbase + spec % 32)

/-- The guard holds (R30). -/
def guardOk (sl : Slot) (g : BitVec 3) (gn : Bool) : Bool := sl.pred g.toNat != gn

/-- Step 5 and 6 of R57: PRIVILEGE and ROLE. A mailbox is read by the haulage slot only (R134). -/
def roleTrap (sl : Slot) (n : Nat) (ds : Desc) (o : Opnd) (w0 : BitVec 32) : Option Trap :=
  let w := w0.setWidth 64
  if ds.role = .handlerMode ∧ !sl.hmode then some ⟨5, 0, w⟩
  else if (ds.role = .matrix ∧ !sl.matrix) ∨ (ds.role = .haulage ∧ !(sl.haulage && n == 63)) ∨ (ds.role = .gang ∧ !sl.gang)
      ∨ (ds.role = .level ∧ !sl.level) ∨ (ds.role = .task ∧ n = 62) then some ⟨0x15, 0, w⟩
  else if (fields ds o).any (fun f => f.kind.reads && isMbox f.spec && !(sl.haulage && n == 63)) then some ⟨0x15, 0, w⟩
  else none

/-- Step 7 of R57 for one field: REG_RANGE, then the gang offset (R16, R49). R49 and R55 leave open which value of a gang offset
outside gang mode %tval holds: that it is the whole specifier is the model's choice (assumption log 74). -/
def rangeTrap (sl : Slot) (f : Fld) : Option Trap :=
  let at' := BitVec.ofNat 64 (f.num * 256 + f.spec)
  if f.kind.scalar && decide (f.spec < 128) && decide (sl.scount ≤ f.spec) then some ⟨3, 0, at'⟩
  else if f.kind.vector && decide (sl.vcount ≤ f.spec % 32) then some ⟨3, 0, at'⟩
  else if f.kind.vector && decide (32 ≤ f.spec) && !sl.gang then some ⟨1, 5, BitVec.ofNat 64 f.spec⟩
  else none

/-- The slot is the trailing slot of a pair (R216). -/
def Slot.trails (sl : Slot) (n : Nat) : Bool := sl.paired && n % 2 == 1

/-- A field names a stream register that is unbound, bound to another slot, or bound in the other direction (R133). -/
def misused (s : State) (c n : Nat) (sl : Slot) (f : Fld) : Bool :=
  isStream f.spec && (f.kind.reads || f.kind == .dst) &&
    (let x := (s.core c).stream (f.spec - 136)
     !(x.bound && x.slot == (if sl.trails n then n - 1 else n) && x.out == (f.kind == .dst) && (!x.out || decide (x.moved < x.total))))

/-- An illegal use of a stream register takes ILLEGAL (R133), first of the causes of R57 step 10 (assumption log 20); that %tval
holds the port's specifier is the model's choice (assumption log 74). -/
def streamTrap (s : State) (c n : Nat) (sl : Slot) (f : Fld) : Option Trap :=
  if misused s c n sl f then some ⟨1, 5, BitVec.ofNat 64 f.spec⟩ else none

/-- The first trap of a list of checks. -/
def firstTrap : List (Option Trap) → Option Trap
  | [] => none
  | some t :: _ => some t
  | none :: r => firstTrap r

/-- What the leading slot of a pair waits for before it takes `m` values from outside: its own effects performed,
and room for them in the load-value queue (R217, R218, assumption log 30). -/
def leadWaits (k : Core) (n m : Nat) : List Wait :=
  (if (k.pair (n / 2)).cmp = [] then [] else [.cmpEmpty]) ++
  (if 64 < (k.pair (n / 2)).lvq.length + m then [.lvqRoom m] else [])

/-- What one source field lacks: nothing, or the waits it would need (R22, R51, R193, R195). `need` is how
many fields of the instruction pop the same port; with fewer entries than that the port is empty for each of them
(R51, assumption log 40). A trailing slot pops no port (R217). -/
def lacking (s : State) (c n : Nat) (sl : Slot) (f : Fld) (need : Nat) : List Wait :=
  let k := s.core c
  if f.kind.reads then
    if f.spec < 128 then (if (k.entry (sl.ent f.spec)).full then [] else [.reg (sl.ent f.spec)])
    else if !popping f.spec || sl.trails n || misused s c n sl f || decide (need ≤ k.avail n f.spec) then []
    else [.filled f.spec need]
  else if f.kind.vreads then
    let (c', v) := vecAt s c n f.spec
    if ((s.core c').vreg v).full then [] else [.vreg c' v]
  else match f.kind with
    | .tsrc | .trw => if (k.tile f.spec).full || k.unitWrites true f.spec then [] else [.tile f.spec]
    | .tmem => if (k.tile f.spec).full then [] else [.tileFull f.spec]
    | .asrc | .arw => if (k.acc f.spec).full || k.unitWrites false f.spec then [] else [.acc f.spec]
    | .amem => if (k.acc f.spec).full then [] else [.accFull f.spec]
    | _ => []

/-- A field pops what field `f` pops: the same port, or for a trailing slot its load-value queue (R51, R217). -/
def samePort (trail : Bool) (f g : Fld) : Bool := g.kind.reads && popping g.spec && (trail || g.spec == f.spec)

/-- The source fields, each with how many fields pop the same port. -/
def withNeed (trail : Bool) (fs : List Fld) : List (Fld × Nat) :=
  fs.map (fun f => (f, (fs.filter (samePort trail f)).length))

/-- The source fields, each with how many earlier fields pop the same port. -/
def withBefore (trail : Bool) (fs : List Fld) : List (Fld × Nat) :=
  fs.zipIdx.map (fun p => (p.1, ((fs.take p.2).filter (samePort trail p.1)).length))

/-- The fields that pop a port. -/
def popFields (fs : List Fld) : List Fld := fs.filter (fun f => f.kind.reads && popping f.spec)

/-- Step 8 of R57: EMPTY_SOURCE for the first empty source with policy 1, else the waits of all empty
sources (R22). -/
def emptyStep (s : State) (c n : Nat) (sl : Slot) (fs : List Fld) : Option (Trap ⊕ List Wait) :=
  let lacks (p : Fld × Nat) : List Wait := lacking s c n sl p.1 p.2
  let es := (withNeed (sl.trails n) fs).filter (fun p => decide (lacks p ≠ []))
  match es.find? (fun p => p.1.pol) with
  | some p => some (.inl ⟨4, 0, BitVec.ofNat 64 (p.1.num * 256 + p.1.spec)⟩)
  | none => if es = [] then none else some (.inr (es.flatMap lacks))

/-- The tag of a poisoned entry. -/
def Entry.poisonTag (e : Entry) : Option Nat := if e.poison then some e.tag.toNat else none
def PEntry.poisonTag (e : PEntry) : Option Nat := if e.poison then some e.tag.toNat else none

/-- The poison tag that a source field would consume, if it is poisoned (R24, R127). -/
def poisonOf (s : State) (c n : Nat) (sl : Slot) (f : Fld) (before : Nat) : Option Nat :=
  let k := s.core c
  if !f.kind.reads then none
  else if f.spec < 128 then (k.entry (sl.ent f.spec)).poisonTag
  else if !popping f.spec || misused s c n sl f then none
  else if sl.trails n then (nth noEntry (k.pair (n / 2)).lvq before).poisonTag
  else (((rangeFrom 0 before).foldl (fun k _ => k.pop n f.spec) k).front n f.spec).poisonTag

/-- The lower of two tags, if there is one. -/
def lowerTag : Option Nat → Option Nat → Option Nat
  | none, y => y
  | x, none => x
  | some x, some y => some (min x y)

/-- Step 9 of R57: the lower tag of the poisoned sources (R24). `mov zero, port` discards the head of a port
with no poison check (R127). -/
def poisonTrap (s : State) (c n : Nat) (sl : Slot) (fs : List Fld) : Option Trap :=
  ((withBefore (sl.trails n) fs).foldl (fun t p => lowerTag t (poisonOf s c n sl p.1 p.2)) none).map
    (fun t => ⟨0x12, 0, BitVec.ofNat 64 t⟩)

/-- A pop of runq lets a value that waits there be placed (R50, R128). -/
def State.popped (s : State) (c spec : Nat) : State :=
  if spec = 146 ∧ (s.core c).runqWait ≠ [] then s.later (.runqDeferredPlace c) else s

/-- Read one scalar field, popping a port; a pair passes what the leading slot pops to the trailing slot
(R50, R69, R217). -/
def readField (c n : Nat) (f : Fld) (s : State) : Word × State :=
  let sl := s.slot c n
  if !f.kind.reads then (0, s)
  else if f.spec < 128 then (((s.core c).entry (sl.ent f.spec)).val, s)
  else if !popping f.spec then (0, s)
  else if sl.trails n then
    ((((s.core c).pair (n / 2)).lvq.headD noEntry).val, s.modLvq c (n / 2) List.tail)
  else
    let e := (s.core c).front n f.spec
    (e.val, ((s.modCore c (fun k => k.pop n f.spec)).popped c f.spec).lvqPut c n e)

/-- What an instruction pops, in the order a, b, c (R51); the trailing slot of a pair pops no port (R217). -/
def poppedBy (s : State) (c n : Nat) (ds : Desc) (o : Opnd) : List Popped :=
  if (s.slot c n).trails n then []
  else ((popFields (fields ds o)).foldl (fun (q : Core × List Popped) f => (q.1.pop n f.spec, q.2 ++ [q.1.taken n f.spec]))
    (s.core c, [])).2

/-- FP32 pattern widened to FP64 exactly: an infinity or NaN keeps its sign and its fraction, signalling bit and
payload with it (R41). -/
def widen (x : Nat) : Nat :=
  if nbits x 23 8 = 255 then nbits x 31 1 * 2 ^ 63 + 2047 * 2 ^ 52 + nbits x 0 23 * 2 ^ 29
  else (cvtVal fp64 .rne (fdecode fp32 x)).1

/-- A literal as a scalar operand (R41); `fn` gives the float format. -/
def litWord (k : LitKind) (fn : Nat) (l : BitVec 32) : Word :=
  match k with
  | .flt => if fld fn 0 2 = 0 then BitVec.ofNat 64 (widen l.toNat) else if fld fn 0 2 = 1 then l.setWidth 64
      else (l.setWidth 16).setWidth 64
  | .elem | .vec => if fld fn 0 3 = 7 then BitVec.ofNat 64 (widen l.toNat)
      else if vFloat fn then l.setWidth 64 else l.signExtend 64
  | .f32 => l.setWidth 64
  | _ => l.signExtend 64

/-- Bytes of an element type (R162). -/
def esize (t : Nat) : Nat := if t = 0 then 1 else if t = 1 ∨ t = 4 ∨ t = 5 then 2 else if t = 2 ∨ t = 6 then 4 else 8

/-- `n` copies of the low `w` bits of `x`, side by side. -/
def repeatBits (w : Nat) (x : Nat) : Nat → Nat
  | 0 => 0
  | n + 1 => (x % 2 ^ w) + (repeatBits w x n) <<< w

/-- A literal as a vector operand: every element equals it; an index operand is read as I32 or, by row, I64
elements (R41, R184). -/
def litVec (k : LitKind) (fn : Nat) (l : BitVec 32) : VData :=
  match k with
  | .vidx => if bitN fn 6 then BitVec.ofNat 4096 (repeatBits 64 (l.signExtend 64).toNat 64)
      else BitVec.ofNat 4096 (repeatBits 32 l.toNat 128)
  | _ => let e := esize (fld fn 0 3)
    BitVec.ofNat 4096 (repeatBits (8 * e) (litWord .vec fn l).toNat (512 / e))

/-- The vector value of a field. -/
def readVec (s : State) (c n : Nat) (f : Fld) : VData :=
  if f.kind.vreads then (let (c', v) := vecAt s c n f.spec; ((s.core c').vreg v).val) else 0

/-- Read every operand, ports in the order a, b, c (R51). -/
def readAll (s : State) (c n : Nat) (ds : Desc) (o : Opnd) : Vals × State :=
  let fs := fields ds o
  let fa := nth ⟨0, .none, 0, false⟩ fs 0
  let fb := nth ⟨0, .none, 0, false⟩ fs 1
  let fc := nth ⟨0, .none, 0, false⟩ fs 2
  let fd := nth ⟨0, .none, 0, false⟩ fs 3
  let (a, s1) := readField c n fa s
  let (b, s2) := readField c n fb s1
  let (cv, s3) := readField c n fc s2
  let (d, s4) := readField c n fd s3
  let fn := o.fn.toNat
  ({ a := a, b := (match o.lit with | some l => litWord ds.lit fn l | none => b), c := cv, d := d,
     va := readVec s c n fa, vb := (match o.lit with | some l => litVec ds.lit fn l | none => readVec s c n fb),
     vc := readVec s c n fc, vd := readVec s c n fd }, s4)

/-- The wait of a destination: an empty-pending register, a full port, or a mailbox behind accesses
(R23, R50, R208). -/
def dstWaits (s : State) (c n : Nat) (sl : Slot) (k : Kind) (spec : Nat) : List Wait :=
  let kc := s.core c
  match k with
  | .dst | .dreg | .dregz | .rwreg =>
    if spec < 128 then (if (kc.entry (sl.ent spec)).pend then [.regFree (sl.ent spec)] else [])
    else if spec = 145 ∨ spec = 146 ∨ sl.paired then []
    else (if kc.hasRoom n spec then [] else [.room spec]) ++ (if isMbox spec && !s.drained c n then [.drain] else [])
  | .vdst | .vrw => if (kc.vreg (sl.vent (spec % 32))).pend then [.vregFree (sl.vent (spec % 32))] else []
  | .tdst => if (kc.tile spec).pend && !kc.unitWrites true spec then [.tile spec] else []
  | .adst => if (kc.acc spec).pend && !kc.unitWrites false spec then [.acc spec] else []
  | _ => []

/-- What the front end finds: a trap, a wait, or the operand values and the state with its pops done. -/
inductive Front where
  | trap (t : Trap)
  | wait (ws : List Wait)
  | go (v : Vals) (s : State)
  deriving DecidableEq, Repr

/-- The core that a destination word names (R106, R138). -/
def coreOf (a : Word) : Nat := bitsN a 58 6 * 512 + bitsN a 49 9

/-- An access at an address leaves core `c`: another core's scratchpad, or a translated address (R94, R275). -/
def leaves (c : Nat) (a : Word) : Bool :=
  match areaOf a.toNat with
  | .pad cid _ => decide (cid ≠ cidOf c)
  | .xlat | .panel _ _ => true
  | .near _ | .bad => false

/-- The offset of element 0 of an indexed vector access whose index is a literal: that many elements, under `.row` that many
bytes, and none in source elements of a page not yet known (R184, R185). -/
def litOffset (fn : Nat) (l : BitVec 32) : Word :=
  if bitN fn 7 then 0
  else if bitN fn 6 then l.signExtend 64
  else l.signExtend 64 * BitVec.ofNat 64 (esize (fld fn 0 3))

/-- ROLE of a default remote access of a user handler (R125), in its place among the causes (R57): of an access that is
remote whatever its operands at once, of another where the registers that name its home can be read. A vector access is
judged by its element 0 (assumption log 50). -/
def handlerTrap (s : State) (c n : Nat) (ds : Desc) (o : Opnd) (w0 : BitVec 32) : Option Trap :=
  let sl := s.slot c n
  let v := (readAll s c n ds o).1
  let known : Bool := ((fields ds o).take ds.far.fields).all (fun f => (rangeTrap sl f).isNone && lacking s c n sl f 1 == [])
  let out : Bool := match ds.far with
    | .none => false
    | .addr => known && leaves c v.a
    | .sum => known && leaves c (v.a + v.b)
    | .disp => known && leaves c (v.a + BitVec.ofNat 64 (8 * (o.b.toNat % 32)))
    | .index => known && (match o.lit with
      | some l => leaves c (v.a + litOffset o.fn.toNat l)
      | none => false)
    | .name => known && decide (coreOf v.a ≠ c)
    | .always => true
  if n = 62 ∧ !o.rlx ∧ out then some ⟨0x15, 0, w0.setWidth 64⟩ else none

/-- Steps 5 to 7 of R57. -/
def rightsTrap (s : State) (c n : Nat) (ds : Desc) (o : Opnd) (w0 : BitVec 32) : Option Trap :=
  (roleTrap (s.slot c n) n ds o w0 <|> handlerTrap s c n ds o w0) <|> firstTrap ((fields ds o).map (rangeTrap (s.slot c n)))

/-- The instruction pops a port. -/
def pops (ds : Desc) (o : Opnd) : Bool := decide (popFields (fields ds o) ≠ [])

/-- What a slot of a pair waits for before its instruction pops a port: the leading slot for room in the load-value
queue and for its own effects, the trailing slot for the values, or for the trap that the leading slot took in their
place (R217, R218). -/
def pairWaits (s : State) (c n : Nat) (ds : Desc) (o : Opnd) : List Wait :=
  let k := s.core c
  let q := (k.pair (n / 2)).lvq
  let need := (popFields (fields ds o)).length
  if !(s.slot c n).paired || need == 0 then []
  else if n % 2 = 0 then leadWaits k n need
  else if need ≤ ready q || (ready (q.take 1) == 1 && (q.headD noEntry).trap.isSome) then [] else [.lvq 1]

/-- The trap that the leading slot took where its instruction pops a port, as the trailing slot finds it (R217). -/
def passedTrap (s : State) (c n : Nat) (ds : Desc) (o : Opnd) : Option Trap :=
  if (s.slot c n).trails n && pops ds o then (((s.core c).pair (n / 2)).lvq.headD noEntry).trap else none

/-- Steps 8 to 10 of R57 with the uses of streams and the destination's wait, for an instruction that passed steps 5 to 7.
A pop of the instruction itself makes room at its destination, since it pops at issue and pushes at completion (R51;
assumption log 68). Where a destination is still pending, the wait comes before every cause that the instruction's own
description gives (R23; assumption log 47). -/
def frontOperands (s : State) (c n : Nat) (ds : Desc) (o : Opnd) (discard : Bool) : Front :=
  let sl := s.slot c n
  let fs := fields ds o
  match emptyStep s c n sl fs with
  | some (.inl t) => .trap t
  | some (.inr ws) => .wait ws
  | none => match (if discard then none else poisonTrap s c n sl fs) <|> firstTrap (fs.map (streamTrap s c n sl)) with
    | some t => .trap t
    | none =>
      let (v, s') := readAll s c n ds o
      match dstWaits s' c n sl ds.d o.d.toNat with
      | w :: ws => .wait (w :: ws)
      | [] => .go v s'

/-- Steps 5 to 10 of R57 for an instruction whose guard holds; a slot of a pair that pops a port waits for its turn at the
load-value queue after step 7, and is then not out of rotation for an empty source (R22, R217). -/
def front (s : State) (c n : Nat) (ds : Desc) (o : Opnd) (w0 : BitVec 32) (discard : Bool) : Front :=
  match rightsTrap s c n ds o w0 with
  | some t => .trap t
  | none => match pairWaits s c n ds o with
    | w :: ws => .wait (w :: ws)
    | [] => match passedTrap s c n ds o with
      | some t => .trap t
      | none => frontOperands s c n ds o discard

/-- The pc moves past the instruction (R36). -/
def State.advance (s : State) (c n len : Nat) : State := s.modSlot c n (fun sl => { sl with pc := sl.pc + BitVec.ofNat 56 len })

/-- What an instruction is to a pair (R217, R218): nothing outside, a value from outside, an effect outside (at
address a + b, or not of memory), or a step that the leading slot makes for both. -/
inductive PairKind where
  | inner
  | value
  | effect (mem : Bool)
  | lead
  deriving DecidableEq, Repr

/-- The destination of an instruction as a completion sees it. -/
def dstOf (sl : Slot) (k : Kind) (spec : Nat) : Dst :=
  match k with
  | .dst | .dreg | .dregz | .rwreg =>
    if spec < 128 then .reg (sl.ent spec) else if spec = 145 then .none else if spec = 146 then .runq else .port spec 0
  | .pdst => .pred spec
  | _ => .none

/-- The effect of an instruction of a pair: kind, address, size and value; where it names no address, its operand A is the
value (R218, R219). -/
def effectOf (x : Ctx) (ins : Instr) (mem : Bool) (v : Vals) : Effect :=
  let (addr, size, val) := match ins with
    | .stDCompact k => (v.a + BitVec.ofNat 64 (8 * k.b.toNat), 8, v.d)
    | .exit _ | .lvcommit _ | .semcfgWrite _ | .traceWrite _ | .qflagsClear _ | .runqFlush _ | .slclose _ => (0, 8, v.a)
    | .spawn _ => (v.b, 8, v.a)
    | _ => if mem then (v.a + v.b, 2 ^ fld x.o.fn.toNat 0 2, v.c) else (v.a, 8, v.b)
  { kind := (x.w0.toNat / 4) % 256 * 2 ^ 14 + x.o.fn.toNat, addr := addr, size := size, val := val, ins := ins, pc := x.pc,
    vals := [v.a, v.b, v.c, v.d], popped := x.popped }

/-- Effects that return no value and no reply: the leading slot goes on past them (R218, assumption log 30). -/
def goesOn : Instr → Bool
  | .st _ | .stDCompact _ | .amon _ | .semPost _ | .runqFlush _ | .semcfgWrite _ | .traceWrite _ | .qflagsClear _ => true
  | _ => false

/-- An instruction's own effect ends in a trap; a page-table entry read poisoned has written its record (R279). -/
def State.bodyTrap (s : State) (c n : Nat) (t : Trap) : State :=
  let va := match areaOf t.val.toNat with
    | .panel _ va' => va'
    | _ => t.val.toNat
  (if t.cause = 9 then s.noteWalk (devOf c) (s.slot c n).space va t.sub (s.coreId c) else s).takeTrap c n t

/-- The end of an instruction's own effect. A wait for nothing is an instruction that does not issue this turn and
stays in rotation (R28). -/
def finish (c n : Nat) (s : State) : Res → Out
  | .ok s2 => .next s2
  | .trap cause sub val => .next (s.bodyTrap c n ⟨cause, sub, val⟩)
  | .wait [] => .next s
  | .wait ws => .next (s.leave c n ws)

/-- The state before an instruction that traps, but for what passed through the load-value queue of its pair: what the
leading slot read goes on to the trailing slot, which reads it and traps in its turn (R5, R217). -/
def State.undone (s s1 : State) (c n : Nat) : State :=
  if ((s1.core c).pair (n / 2)).lvq = ((s.core c).pair (n / 2)).lvq then s
  else s.modLvq c (n / 2) (fun _ => ((s1.core c).pair (n / 2)).lvq)

/-- The end of an own effect of a slot of a pair: `s` before the instruction, `s1` with its sources popped. -/
def finishPair (c n : Nat) (s s1 : State) : Res → Out
  | .trap cause sub val => finish c n (s.undone s1 c n) (.trap cause sub val)
  | r => finish c n s r

/-- A register that holds an uncorrectable error and is read at issue (R222): 1 vector, 2 tile, 3 accumulator. The
matrix unit reads tiles and accumulators at its start (R194). -/
def State.badSource (s : State) (c n : Nat) (f : Fld) : Bool :=
  if f.kind.vreads then (let (c', v) := vecAt s c n f.spec; s.badRegs.contains (c', 1, v))
  else match f.kind with
    | .tmem => s.badRegs.contains (c, 2, f.spec)
    | .amem => s.badRegs.contains (c, 3, f.spec)
    | _ => false

/-- The record of an uncorrectable error in a register that is read, and its tag (R222, R287). -/
def State.badRecord (s : State) (c n : Nat) : Nat × State :=
  s.logErr (devOf c) clsRegfile (s.slot c n).space none 0 (s.now c) (s.coreId c)

/-- An operation of a core's units completes without its slot: what it writes into a port is kept (R222). -/
def Dst.alone : Dst → Dst
  | .reg _ | .pred _ => .none
  | d => d

/-- The operations numbered `id` and above of slot `n` complete by themselves. -/
def Core.detach (k : Core) (n id : Nat) : Core :=
  let m (o : MOp) : MOp := if o.slot = n ∧ id ≤ o.id then { o with dead := true, slot := 65, sdst := o.sdst.alone } else o
  { k with munit := k.munit.map m, mwait := k.mwait.map m,
           vops := k.vops.map (fun (o : VOp) =>
             if o.slot = n ∧ id ≤ o.id then { o with dead := true, slot := 65, sdst := o.sdst.alone } else o) }

/-- The slot that read such a register is killed with the tag of a record, and its instruction, with the operations
numbered `id` and above, completes (R222). -/
def State.badKill (s : State) (c n id : Nat) (pc : BitVec 56) : State :=
  let (tag, s1) := s.badRecord c n
  (s1.modCore c (fun k => k.detach n id)).kill c n { cause := 0x12, tag := tag, tepc := pc.toNat, tval := tag }

/-- A full write replaces a register (R222). -/
def State.mend (s : State) (c file idx : Nat) : State := { s with badRegs := s.badRegs.filter (fun b => b != (c, file, idx)) }

/-- The end of an instruction, with the check of what it read. -/
def finishRead (ds : Desc) (x : Ctx) (s : State) (r : Res) : Out :=
  match r with
  | .ok s2 => if (fields ds x.o).any (s.badSource x.c x.n) then .next (s2.badKill x.c x.n s.nextId x.pc) else .next s2
  | r => finish x.c x.n s r

/-- The trailing slot's `claim`: its own register waits for what the leading slot's claim receives, or holds it
already (R107, R217, assumption log 30). -/
def State.bindTrail (s : State) (x : Ctx) (name : Word) : State :=
  let e := (s.slot x.c x.n).ent x.o.c.toNat
  let p := (s.core x.c).pair (x.n / 2)
  match p.given.find? (fun g => g.1 == name) with
  | some g => (s.modCore x.c (fun k => k.setPair (x.n / 2) { p with given := p.given.filter (fun h => h.1 != name) })).fillReg
      x.c e g.2.val g.2.poison g.2.tag
  | none => s.modCore x.c (fun k => (k.setPair (x.n / 2) { p with bound := p.bound ++ [name] }).pendEntry e)

/-- An instruction of a slot of a pair whose operands are read (R217, R218): `s` before it, `s1` with its
sources popped. -/
def runPaired (pk : PairKind) (ds : Desc) (x : Ctx) (ins : Instr) (v : Vals) (body : Ctx → Vals → State → Res)
    (s s1 : State) : Out :=
  let (c, n) := (x.c, x.n)
  let r := body x v (s1.advance c n x.len)
  match pk with
  | .inner => finishPair c n s s1 r
  | .value =>
    if n % 2 = 0 then
      (match leadWaits (s.core c) n (x.popped.length + 1) with
       | [] => (match r with
         | .trap cause sub val => .next ((s.lvqPut c n { val := 0, trap := some ⟨cause, sub, val⟩ }).bodyTrap c n ⟨cause, sub, val⟩)
         | r => finish c n s r)
       | ws => .next (s.leave c n ws))
    else match ((s1.core c).pair (n / 2)).lvq with
      | [] => .next (s.leave c n [.lvq 1])
      | e :: _ =>
        let s2 := s1.modLvq c (n / 2) List.tail
        if !e.filled then .next (s.leave c n [.lvq 1])
        else match e.trap with
        | some t => .next (s2.takeTrap c n t)
        | none =>
          let s3 := (s2.advance c n x.len).deliver c n (dstOf (s.slot c n) ds.d x.o.d.toNat) e.val e.poison e.tag x.pc
          .next (match ins with
            | .claim _ => s3.bindTrail x e.val
            | _ => s3)
  | .effect mem =>
    match r with
    | .trap cause sub val => finishPair c n s s1 (.trap cause sub val)
    | _ =>
      if n % 2 = 0 then
        let ahead := goesOn ins && (match r with
          | .ok s2 => decide ((s2.slot c n).run = .ready)
          | _ => false)
        (if s.cmpFull c n then .next (s.leave c n [.cmpRoom])
         else if ahead then .next ((s1.advance c n x.len).pairPut c n { effectOf x ins mem v with ahead := true })
         else .next ((s1.leave c n [.cmpMatch]).pairPut c n (effectOf x ins mem v)))
      else
        let s2 := ((s1.advance c n x.len).leave c n [.cmpMatch]).pairPut c n (effectOf x ins mem v)
        .next (s2.modSlot c n (fun sl => { sl with pairWait := some (dstOf sl ds.d x.o.d.toNat, x.pc, 0) }))
  | .lead =>
    if n % 2 = 0 then
      (if ((s.core c).pair (n / 2)).cmp = [] then finishPair c n s s1 r else .next (s.leave c n [.cmpEmpty]))
    else match r with
      | .trap cause sub val => finishPair c n s s1 (.trap cause sub val)
      | _ => .next (s1.advance c n x.len)

/-- A trap of the front end. Where an instruction of a pair pops a port and passed steps 5 to 7, the leading slot passes
its trap on through the load-value queue, and the trailing slot takes it from there (R217). -/
def frontTrap (s : State) (c n : Nat) (ds : Desc) (o : Opnd) (w0 : BitVec 32) (t : Trap) : Out :=
  let s := if !pops ds o || (rightsTrap s c n ds o w0).isSome then s
    else if (passedTrap s c n ds o).isSome then s.modLvq c (n / 2) List.tail
    else s.lvqPut c n { val := 0, trap := some t }
  .next (s.takeTrap c n t)

/-- An instruction that executes: the front end, then its own effect. -/
def issueLive (discard : Bool) (pk : PairKind) (ds : Desc) (ins : Instr) (body : Ctx → Vals → State → Res) (x : Ctx)
    (s : State) : Out :=
  match front s x.c x.n ds x.o x.w0 discard with
  | .trap t => frontTrap s x.c x.n ds x.o x.w0 t
  | .wait ws => .next (s.leave x.c x.n ws)
  | .go v s1 =>
    if (s.slot x.c x.n).paired then runPaired pk ds x ins v body s s1
    else finishRead ds x s (body x v (s1.advance x.c x.n x.len))

/-- One instruction at the current slot: a guarded-off instruction only moves the pc (R30). -/
def issueWith (discard : Bool) (pk : PairKind) (ds : Desc) (o : Opnd) (w0 : BitVec 32) (len : Nat) (ins : Instr)
    (body : Ctx → Vals → State → Res) (s : State) : Out :=
  let c := s.cur.1
  let n := s.cur.2
  let sl := s.slot c n
  if !sl.live then .fault .noTask
  else if !guardOk sl o.g o.gn then .next (s.advance c n len)
  else issueLive discard pk ds ins body ⟨c, n, sl.pc, len, o, w0, poppedBy s c n ds o⟩ s

/-- The length of a 64-bit or 96-bit instruction. -/
def lenOf (o : Opnd) : Nat := if litB o then 12 else 8

/-- A 64-bit or 96-bit instruction of opcode `op` with no value or effect outside its slot. -/
def runLong (op : Nat) (ds : Desc) (o : Opnd) (body : Ctx → Vals → State → Res) (s : State) : Out :=
  issueWith false .inner ds o (encWord0 op o) (lenOf o) (.roundStart 0) body s

/-- A 64-bit or 96-bit instruction that a pair shares. -/
def runShared (op : Nat) (pk : PairKind) (ds : Desc) (o : Opnd) (ins : Instr) (body : Ctx → Vals → State → Res)
    (s : State) : Out :=
  issueWith false pk ds o (encWord0 op o) (lenOf o) ins body s

/-- A compact instruction of op6 `op` (R44). -/
def runCompact (op : Nat) (ds : Desc) (k : Compact) (body : Ctx → Vals → State → Res) (s : State) : Out :=
  issueWith false .inner ds (expand k) (encCompact op k) 4 (.roundStart 0) body s

/-- A compact instruction that a pair shares. -/
def runCompactShared (op : Nat) (pk : PairKind) (ds : Desc) (k : Compact) (ins : Instr)
    (body : Ctx → Vals → State → Res) (s : State) : Out :=
  issueWith false pk ds (expand k) (encCompact op k) 4 ins body s

/-! ### Writing destinations -/

/-- A value written at once to a scalar register or port, poisoned or not (R50, R69, R99). In a pair, a push is
an effect (R218). -/
def writeDstP (x : Ctx) (spec : Nat) (v : Word) (po : Bool) (tag : BitVec 12) (s : State) : Res :=
  let sl := s.slot x.c x.n
  if spec < 128 then .ok (s.fillReg x.c (sl.ent spec) v po tag)
  else if spec = 145 then .ok s
  else if sl.paired then
    (if x.n % 2 = 0 ∧ s.cmpFull x.c x.n then .wait [.cmpRoom]
     else .ok (s.pairPut x.c x.n (pushEffect spec v po tag x.pc)))
  else if spec = 146 then
    (if (s.core x.c).runqOpen (prioOf v) then
      .ok (s.modCore x.c (fun k => k.push (runqKey (prioOf v)) { val := v, poison := po, tag := tag, writer := x.n }))
     else .wait [.runqRoom (prioOf v)])
  else .ok (s.modCore x.c (fun k => k.push spec { val := v, poison := po, tag := tag, writer := x.n }))

/-- A clean value written at once. -/
def writeDst (x : Ctx) (spec : Nat) (v : Word) (s : State) : Res := writeDstP x spec v false 0 s

/-- Write a scalar destination named by field d. -/
def writeD (x : Ctx) (v : Word) (s : State) : Res := writeDst x x.o.d.toNat v s

/-- Write the predicate named by field d (R69). -/
def writeP (x : Ctx) (b : Bool) (s : State) : Res := .ok (s.modSlot x.c x.n (fun sl => sl.setPred x.o.d.toNat b))

/-- A value taken from outside the slot: written, and passed on in a pair (R217). -/
def giveD (x : Ctx) (v : Word) (s : State) : Res := writeD x v (s.lvqPut x.c x.n { val := v })
def giveP (x : Ctx) (b : Bool) (s : State) : Res := writeP x b (s.lvqPut x.c x.n { val := BitVec.ofNat 64 (b2n b) })

/-- A destination kept for a completion: an empty-pending register or a reserved port entry (R21, R50). -/
def reserve (x : Ctx) (spec key : Nat) (s : State) : Dst × State :=
  let sl := s.slot x.c x.n
  if spec < 128 then (.reg (sl.ent spec), s.modCore x.c (fun k => k.pendEntry (sl.ent spec)))
  else if spec = 145 then (.none, s)
  else if spec = 146 then (.runq, s)
  else if sl.paired then (.port spec key, s)
  else (.port spec key, s.modCore x.c (fun k => k.push spec { val := 0, filled := false, key := key, writer := x.n }))

/-- Continue with the state of a result. -/
def Res.andThen (r : Res) (f : State → Res) : Res :=
  match r with
  | .ok s => f s
  | .trap c u v => .trap c u v
  | .wait ws => .wait ws

end Sys2Proof.Machine
end

