-- ==== Sys2Proof/Machine/Flags.lean ====
section
/-! DEFINITION. The rounding mode and the IEEE flags of a slot: raising them, FP_TRAP, and their way to
%qflags (R18 to R20, R154, R155). -/

namespace Sys2Proof.Machine

/-- The RM field of the predicate word (R18). -/
def Slot.rm (sl : Slot) : Nat := bitsN sl.preds 8 3

/-- The flags NV, DZ, OF, UF, NX, NV highest (R18, R19). -/
def Slot.flags (sl : Slot) : Flags := BitVec.ofNat 5 (bitsN sl.preds 11 5)

/-- The rounding mode of an instruction whose rounding field is `f` (R19, R54). -/
def Slot.mode (sl : Slot) (f : Nat) : RMode := roundMode f sl.rm

/-- The slot with flags raised: sticky (R19). -/
def Slot.raise (sl : Slot) (f : Flags) : Slot := { sl with preds := sl.preds ||| (f.setWidth 64 <<< 11) }

/-- A raise of cycle `t` reaches the register of its quadrant (R155). -/
def Dev.land (v : Dev) (q : Nat) (f : Flags) (t : Nat) : Dev :=
  let set (m : SMap Nat) (b : Nat) : SMap Nat := if bit f b then tabPut m (5 * q + b) (max t (tabGet 0 m (5 * q + b))) else m
  { v with qflags := tabPut v.qflags q (tabGet 0 v.qflags q ||| f), qwhen := (rangeFrom 0 5).foldl set v.qwhen }

/-- A raise of quadrant `q` has reached the register by cycle `t`: more than 32 cycles have passed. -/
def raiseOver (q t : Nat) (r : Nat × Flags × Nat) : Bool := decide (r.1 = q) && decide (r.2.2 + 32 < t)

/-- The device at cycle `t`, with every raise of quadrant `q` of more than 32 cycles ago in its register. -/
def Dev.landOver (v : Dev) (q t : Nat) : Dev :=
  (v.raises.filter (raiseOver q t)).foldl (fun v r => v.land q r.2.1 r.2.2) { v with raises := v.raises.filter (fun r => !raiseOver q t r) }

/-- A clear at cycle `t`: of the flags that have reached the register it removes those raised before that cycle. -/
def Dev.clearFlags (v : Dev) (q : Nat) (f : Flags) (t : Nat) : Dev :=
  let w := v.landOver q t
  let gone := (rangeFrom 0 5).foldl (fun m b => m + b2n (bit f b && decide (tabGet 0 w.qwhen (5 * q + b) < t)) * 2 ^ b) 0
  { w with qflags := tabPut w.qflags q (tabGet 0 w.qflags q &&& ~~~(BitVec.ofNat 5 gone)) }

/-- Flags raised by slot `n`: its own, and a raise on its way to the quadrant's register (R19, R155). -/
def State.raise (s : State) (c n : Nat) (f : Flags) : State :=
  if f = 0 then s
  else
    let s := s.modSlot c n (fun sl => sl.raise f)
    let d := devOf c
    (s.modDev d (fun v => { v with raises := v.raises ++ [(quadOf c, f, s.now c)] })).later
      (.qflagsRaise d 0)

/-- SetFlags of R69: FP_TRAP when an enabled flag is in the set, else the flags are raised and the
instruction goes on (R20). -/
def withFlags (x : Ctx) (f : Flags) (s : State) (k : State → Res) : Res :=
  if f &&& (s.slot x.c x.n).trapEn ≠ 0 then .trap 7 0 (f.setWidth 64)
  else (k s).andThen (fun s' => .ok (s'.raise x.c x.n f))

/-- A raise that waits in a slot's result is dropped with its enabled FP_TRAP (R20, R168). -/
def trapsOn (f en : Flags) : Bool := decide (f &&& en ≠ 0)

end Sys2Proof.Machine
end

