-- ==== Sys2Proof/Machine/Home.lean ====
section
/-! DEFINITION. What home ports do with memory accesses: the operations of R97, poison, owner checks, mirrors,
the trace ring and accesses of PCI Express (R97 to R99, R220, R263, R274, R283, R285, R329, R330, R345). -/

namespace Sys2Proof.Machine

/-! ### Operations on the bytes of one access (R97) -/

/-- The atomic operations on n bytes: old value, operand (R54, R97). -/
def amoOp (op n old b : Nat) : Nat :=
  let w := 8 * n
  match op with
  | 0 => (old + b) % 2 ^ w
  | 1 => old &&& b
  | 2 => old ||| b
  | 3 => old ^^^ b
  | 4 => if sgnN w b < sgnN w old then b else old
  | 5 => if sgnN w old < sgnN w b then b else old
  | 6 => min old b
  | 7 => max old b
  | 8 => b
  | 9 => (fAdd fp32 .rne old b).1
  | _ => (fAdd fp64 .rne old b).1

/-- A value of n bytes extended to 64 bits (R96). -/
def extend (n : Nat) (sgn : Bool) (v : Nat) : Word := if sgn then signExt (8 * n) v else BitVec.ofNat 64 v

/-- What is written at an access's bytes, if anything (R97). -/
def newBytes (k : AKind) (n old : Nat) (val aux : Word) : Option Nat :=
  let b := val.toNat % 2 ^ (8 * n)
  match k with
  | .st | .stt | .stw | .jwrite => some b
  | .amo op _ _ => some (amoOp op n old b)
  | .jamo op => some (amoOp op n old b)
  | .cas _ => if old = aux.toNat % 2 ^ (8 * n) then some b else none
  | _ => none

/-- What an access returns (R97). -/
def backValue (k : AKind) (n old : Nat) : Word :=
  match k with
  | .ld sgn => extend n sgn old
  | .amo _ sgn true => extend n sgn old
  | .cas sgn => extend n sgn old
  | _ => 0

/-- The kind reads, writes or does both (R279). -/
def AKind.use : AKind → Use
  | .st | .stt | .stw | .jwrite | .vwrite => .store
  | .amo _ _ _ | .cas _ | .jamo _ => .both
  | _ => .load

/-- The kind is an atomic or compare-and-swap. -/
def AKind.atomic : AKind → Bool
  | .amo _ _ _ | .cas _ | .jamo _ => true
  | _ => false

/-- A value comes back to a register (R98). -/
def AKind.gives : AKind → Bool
  | .ld _ | .amo _ _ true | .cas _ => true
  | _ => false

/-! ### The trace ring (R262, R263) -/

/-- The kind code of a trace entry. R263 lists none for `gquery` and `gfree`: that they take 1 is the model's choice (assumption
log 74). -/
def traceKind : AKind → Nat
  | .ld _ | .vread | .card _ _ _ => 0
  | .amo _ _ true => 2
  | .cas _ => 3
  | .amo _ _ false | .jamo _ => 4
  | .am => 5
  | _ => 1

/-- One entry of the ring, written with the access that the memory port of core `c` serves. R263 gives an engine no slot number:
that its entries hold 0 is the model's choice (assumption log 74). -/
def State.trace (s : State) (c : Nat) (a : Access) : State :=
  let k := s.core c
  if !k.traceEn then s
  else
    let at' := 0xFFC000 + 16 * (k.traceSeq.toNat % 1024)
    let w := k.traceSeq.toNat * 2 ^ 32 + traceKind a.kind * 2 ^ 28 + a.slot % 64 * 2 ^ 21 + s.coreId a.core
    let s := (s.writeNum 0 (.pad c at') 8 w).writeNum 0 (.pad c (at' + 8)) 8 a.va
    s.modCore c (fun k => { k with traceSeq := k.traceSeq + 1, traceNew := k.traceNew + 1,
                                   traceWrap := k.traceWrap || decide (1024 ≤ k.traceNew) })

/-! ### Where an access is performed (R276, R340, R345) -/

/-- The place of an access at its home, translated there when it is another device's (R276, R345). A word of a scale frame of
another device's page has no virtual address of its own, and is named by its place there (R150, R151). -/
def State.resolve (s : State) (a : Access) : Place :=
  match a.loc with
  | .far d va =>
    if !s.reach (devOf a.core) d then .trap 9 7
    else match s.farPlace d a.space va a.kind.use with
      | .trap cause sub => if cause = 9 then .trap 9 7 else .trap cause sub
      | p => p
  | .dram d pa => if s.reach (devOf a.core) d then .at (.dram d pa) none else .trap 9 7
  | l => .at l none

/-- A fault that only the home finds (R98, R345): a default access traps, a relaxed one is not performed and
fills its destination poisoned with the tag of a record. The core whose port finds it is the detecting one: the home
of a scratchpad access, else the source (R287). -/
def State.homeFault (s : State) (a : Access) (cause sub : Nat) : State × Reply :=
  let (far, cls, c) : Bool × Nat × Nat := match a.loc with
    | .far _ _ => (true, clsCasris, a.core)
    | .dram d _ => (decide (d ≠ devOf a.core), if d = devOf a.core then clsPad else clsCasris, a.core)
    | .pad c' _ => (false, clsPad, c')
    | _ => (false, clsPad, a.core)
  if !a.relaxed && !far then (s, { trap := some ⟨cause, sub, BitVec.ofNat 64 a.va⟩ })
  else
    let (tag, s) := s.logErr (devOf c) cls a.space none (BitVec.ofNat 64 a.va) (s.now c) (s.coreId c)
    if a.relaxed then
      let (v, s) := s.freeVal
      (s, { val := v, poison := a.kind.gives, tag := BitVec.ofNat 12 tag, refused := true })
    else (s, { trap := some ⟨cause, sub, BitVec.ofNat 64 a.va⟩ })

/-! ### Reading and writing at a home -/

/-- The tag that the word of a write with a poisoned source takes: the lower where the word was poisoned and is not
wholly overwritten, and in device memory the tag of its unit (R220, R274). -/
def State.writeTag (s : State) (l : Loc) (n tag : Nat) : Nat :=
  let w := keyOf l / 8
  s.keptTag l.isDram w (if n = 8 then tag else lowTag (tabGet 0 s.poison w) tag)

/-- Mark the word at a place. -/
def State.putMark (s : State) (l : Loc) (tag : Nat) : State := { s with poison := tabPut s.poison (keyOf l / 8) tag }

/-- The operation of an access on the bytes at `l` (R97, R99, R220). A poisoned word makes an atomic or
compare-and-swap return poison and change nothing. -/
def State.operate (s : State) (a : Access) (l : Loc) : State × Reply :=
  let old := s.readNum a.space l a.n
  let tag := s.tagOf (keyOf l) a.n
  let opTag := match a.kind with
    | .jwrite | .jamo _ => a.aux.toNat
    | _ => 0
  let back : Reply := { val := if a.kind = .stt then a.aux else backValue a.kind a.n old, poison := a.kind.gives && decide (tag ≠ 0),
                        tag := BitVec.ofNat 12 (if a.kind.gives then tag else 0) }
  if a.kind.atomic && decide (tag ≠ 0 ∨ opTag ≠ 0) then
    (if opTag ≠ 0 then s.putMark l (s.writeTag l a.n (lowTag tag opTag)) else s, back)
  else match newBytes a.kind a.n old a.val a.aux with
    | none => (s, back)
    | some v =>
      let t := s.writeTag l a.n opTag
      let s := s.writeNum a.space l a.n v
      let s := if opTag = 0 then s else s.putMark l t
      (s.mirror a.space l a.n, back)

/-- An access of PCI Express through the host interface (R329): a write enters the egress queue; a read returns
a free value, or its destination poisoned. Another panel's memory, which only PEER jobs reach, is no part of this
machine (R348): a write to it leaves, and a read returns a free value. -/
def State.hostAccess (s : State) (a : Access) (d addr : Nat) : State × Reply :=
  match a.kind with
  | .ld sgn =>
    let (k, s) := s.draw
    if Config.hostError k ∧ addr < farPanel then
      let (tag, s) := s.logErr d clsHost a.space (some (BitVec.ofNat 64 addr)) (BitVec.ofNat 64 a.va) (s.dv d).cycle (s.coreId a.core)
      let (v, s) := s.freeVal
      (s, { val := v, poison := true, tag := BitVec.ofNat 12 tag })
    else (s, { val := extend a.n sgn (numOf ((rangeFrom addr a.n).map (fun x => Config.hostByte d x k))) })
  | _ => if farPanel ≤ addr then (s, {}) else
    ((s.modDev d (fun v => { v with egress := v.egress ++ [{ addr := addr, bytes := bytesOf a.n a.val.toNat }] })).laterAt d .egressPost,
      {})

/-- Vector and tile elements at one home: all read or all written (R186, R221); the lowest tag of a poisoned
word is reported. -/
def State.elements (s : State) (a : Access) : State × Reply :=
  match a.kind with
  | .vread =>
    let es := a.elems.map (fun e => { e with dat := s.readNum a.space e.loc e.n })
    let tag := a.elems.foldl (fun t e => lowTag t (s.tagOf (keyOf e.loc) e.n)) 0
    (s, { elems := es, poison := decide (tag ≠ 0), tag := BitVec.ofNat 12 tag })
  | _ => (a.elems.foldl (fun (s : State) e => (s.writeNum a.space e.loc e.n e.dat).mirror a.space e.loc e.n) s, {})

/-- The state of a granule as `sysc.gquery` reads it (R285). -/
def State.granule (s : State) (l : Loc) : Word :=
  let o := s.ownerOf l
  if o = 0 then 0x800 else BitVec.ofNat 64 (o - 1)

/-- A granule is zeroed and becomes FREE (R285). -/
def State.freeGranule (s : State) (l : Loc) : State :=
  let g := keyOf l / 65536
  { s with mem := s.mem.filter (fun p => !(decide (g * 65536 ≤ p.1) && decide (p.1 < (g + 1) * 65536))),
           poison := s.poison.filter (fun p => !(decide (g * 8192 ≤ p.1) && decide (p.1 < (g + 1) * 8192))),
           owner := tabDel s.owner g }

/-- The elements of an access with their places at another device, or the first fault. -/
def State.resolveElems (s : State) (a : Access) : List Elem → Except (Elem × Nat × Nat) (List Elem)
  | [] => .ok []
  | e :: r =>
    match s.resolve { a with loc := e.loc } with
    | .at l _ => (s.resolveElems a r).map (fun es => { e with loc := l } :: es)
    | .trap cause sub => .error (e, cause, sub)
    | .walk _ => .error (e, 9, 3)

/-- An access that may not reach PCI Express: of a job, but a PEER job; of a slot, an atomic or vector one or one with
a token, and any to another panel (R329, R348). -/
def Access.pciBarred (a : Access) (addr : Nat) : Bool :=
  if a.slot = 64 then !a.peer
  else a.kind.atomic || a.kind == .stt || a.kind == .stw || !a.elems.isEmpty || decide (farPanel ≤ addr)

/-- The walk of another device for an access may read a poisoned entry (R279). -/
def State.noteFar (s : State) (a : Access) : State :=
  match a.loc with
  | .far d va => if s.reach (devOf a.core) d ∧ s.farPlace d a.space va a.kind.use = .trap 9 8 then s.noteWalk d a.space va 8 (unitOf d) else s
  | _ => s

/-- One access performed at its home in one step (R101, R98, R283, R285). -/
def State.perform (s : State) (a : Access) : State × Reply :=
  match s.resolve a with
  | .trap cause sub => (s.noteFar a).homeFault a cause sub
  | .walk _ => (s, {})
  | .at l _ =>
  match s.resolveElems a a.elems with
  | .error (e, cause, sub) => (s.noteFar { a with loc := e.loc }).homeFault { a with va := e.va } cause sub
  | .ok es =>
    let s := a.elems.foldl (fun (s : State) e => s.farUsed a.space e.loc) (s.farUsed a.space a.loc)
    let a := { a with elems := es }
    match a.kind with
    | .gquery => (s, { val := s.granule l })
    | .gfree =>
      if s.ownerOf l = 0 then (s, {})
      else if s.mayPad a.space l then (s.freeGranule l, {})
      else (s, { trap := some ⟨0x0A, 4, BitVec.ofNat 64 a.va⟩ })
    | _ =>
      match l with
      | .pci d addr =>
        if a.pciBarred addr then s.homeFault a 0x0A 5
        else s.hostAccess a d addr
      | .pad _ _ =>
        if !s.mayPad a.space l then s.homeFault a 0x0A 4
        else if a.elems = [] then (s.takePad a.space l).operate a l
        else (a.elems.foldl (fun (s : State) e => s.takePad a.space e.loc) s).elements a
      | _ => if a.elems = [] then s.operate a l else s.elements a

/-! ### Sending, and what a served `stt` sends (R101, R104, R351) -/

/-- Put an access into a channel, or hold it in RB until what must precede it is over (R101, R104). -/
def State.send (s : State) (a : Access) : State :=
  let s := { s with net := s.net ++ [s.enterFlow a], nextId := s.nextId + 1 }
  if a.stage = .held then s else s.later (.arrive a.id)

/-- A message from device `d` to a token table; it belongs to no core, and core 0 of its device stands for the sender. -/
def tokenPacket (s : State) (d space : Nat) (kind : AKind) (tok idx : Nat) : Access :=
  { id := s.nextId, kind := kind, core := d * 512, slot := 65, taskw := 0, space := space, home := .tokens (tok / 2 ^ 26 % 64),
    val := BitVec.ofNat 64 (tok % 2 ^ 32), aux := BitVec.ofNat 64 idx }

/-- The answer of device `d`'s token table to query `w` of a hold, a packet of the token class that goes to the die of the hold
(R346, R352); `w` is twice the hold's access and the token's place in it. -/
def answerPacket (s : State) (d w : Nat) (ok : Bool) (die : Nat × Nat) (space : Nat) : Access :=
  { id := s.nextId, kind := .answer ok, core := d * 512, slot := 65, taskw := 0, space := space, home := .part die.1 die.2,
    aux := BitVec.ofNat 64 w }

/-- An access served; an `stt` store sends its landed or failed notice in the same step (R351, R356). -/
def State.served (s : State) (a : Access) : State × Reply :=
  let (s, r) := s.perform a
  (if a.kind = .stt then s.send (tokenPacket s a.home.dev a.space (.notice (r.trap.isNone && !r.refused)) a.aux.toNat 0) else s, r)

end Sys2Proof.Machine
end

