-- ==== Sys2Proof/Machine/Access.lean ====
section
/-! DEFINITION. Issuing memory accesses: the checks of R93 and R98, local and remote accesses, the order that
R101, R104, R105 and R210 keep, and the five memory instructions with their compact words (R46, R96, R97). -/

namespace Sys2Proof.Machine

/-! ### Jobs whose writes lie in a scope (R210) -/

/-- The place of an address through the tables alone, for engines (R281) and orders. -/
def State.placeVia (s : State) (c space va : Nat) (u : Use) : Place :=
  match areaOf va with
  | .near off => .at (.pad c off) none
  | .pad cid off => .at (.pad (devOf c * 512 + cid) off) none
  | .xlat => s.placeAt (devOf c) space va u
  | .panel d va' => if d = devOf c then s.placeAt d space va' u else .at (.far d va') none
  | .bad => .trap 9 2

/-- The home of an address that is written, as core `c` sees it, if it has one (R210, R279). -/
def State.homeVia (s : State) (c space va : Nat) : Option Home :=
  match s.placeVia c space va .store with
  | .at (.far d va') _ => some (s.farHome space d va' .store)
  | .at l _ => some (homeOf c l)
  | _ => none

/-- Some byte of a region has its home within a scope of core `c`, granule by granule (R273). -/
def State.regionIn (s : State) (c space scope : Nat) (r : Region) : Bool :=
  let at' (va : Nat) : Bool := match s.homeVia c space va with
    | some h => inScope c scope h
    | none => false
  decide (0 < r.len) && (at' (r.base + r.len - 1) || anyBelow ((r.len + 2047) / 2048) (fun i => at' (r.base + 2048 * i)))

/-- Jobs that slot `n` started and whose card names a write region with a home within the scope (R210). -/
def State.jobsIn (s : State) (c n scope : Nat) : List Nat :=
  let k := s.core c
  ((k.seq.filter (fun j => j.slot == n && j.task == (k.slot n).task && j.writes.any (s.regionIn c j.space scope)))).map (·.no)

/-! ### What an access waits for -/

/-- A memory access about to be issued. -/
structure Req where
  kind : AKind
  n : Nat
  addr : Word
  val : Word := 0
  aux : Word := 0
  bulk : List Nat := []
  /-- specifier of the destination, or a destination predicate -/
  dst : Option Nat := none
  pdst : Option Nat := none
  rlx : Bool := false
  acq : Option Nat := none
  rel : Option Nat := none
  /-- held by a release fence: st, amo, amon, cas, dlv (R105) -/
  fenced : Bool := false
  never : Bool := false
  noPci : Bool := false
  book : Bool := false
  deriving DecidableEq, Repr

/-- The accesses and jobs that must be over before an access with home `h` is performed: those before a release
access, and before a release fence whose scope holds `h` (R104, R105, R210). -/
def State.mustPrecede (s : State) (c n : Nat) (h : Home) (r : Req) : List Nat × List Nat :=
  let own := s.own c n
  let relA := match r.rel with
    | some sc => ((own.filter (fun a => inScope c sc a.home)).map (·.id), s.jobsIn c n sc)
    | none => ([], [])
  if !r.fenced then relA
  else (s.slot c n).rels.foldl (fun p q => if inScope c q.1 h then (p.1 ++ q.2.1, p.2 ++ q.2.2) else p) relA

/-- Those of a list of accesses and jobs that are not over. -/
def State.pendingOf (s : State) (c : Nat) (p : List Nat × List Nat) : List Nat × List Nat :=
  (p.1.filter (fun i => s.net.any (fun a => a.id == i)), p.2.filter (fun j => (s.core c).seq.any (fun x => x.no == j)))

/-- The wait for a list of accesses and jobs, if any is not over. -/
def goneWait (p : List Nat × List Nat) : List Wait := if p.1 = [] ∧ p.2 = [] then [] else [.gone p.1 p.2]

/-- Acquires of the slot not complete that hold an access with home `h` (R104). -/
def State.acqWaits (s : State) (c n : Nat) (h : Home) : List Wait :=
  ((s.slot c n).acqs.filter (fun p => s.net.any (fun a => a.id == p.1) && inScope c p.2 h)).map (fun p => .access p.1)

/-- Why an access cannot be issued yet (R101 steps 1, 2 and 6, R104, R105, R210, R247). -/
def State.issueWaits (s : State) (c n : Nat) (h : Home) (l : Loc) (isLocal : Bool) (r : Req) : List Wait :=
  let pre := s.pendingOf c (s.mustPrecede c n h r)
  if r.rlx then
    s.acqWaits c n h ++ (if (s.rb c n).any (fun a => a.loc.meets a.n l r.n) then [.apart l r.n] else [])
      ++ (if isLocal then goneWait pre
          else (if 8 ≤ (s.rb c n).length then [.rbRoom] else []) ++ (if 256 ≤ s.replyUse c then [.replyRoom] else []))
  else (if s.drained c n then [] else [.drain]) ++ goneWait ([], pre.2)

/-! ### Sending -/

/-- Send what was held and waits for nothing any more (R104, R105). -/
def State.releaseHeld (s : State) (c : Nat) : State :=
  let go := s.net.filter (fun a => a.core == c && a.stage == .held && decide (s.pendingOf c (a.after, a.afterJobs) = ([], [])))
  go.foldl (fun (s : State) a => (s.setOut { a with stage := .sent }).later (.arrive a.id)) s

/-- The access record of a request of the running instruction. -/
def accessOf (x : Ctx) (s : State) (r : Req) (h : Home) (l : Loc) : Access :=
  let sl := s.slot x.c x.n
  { id := s.nextId, kind := r.kind, core := x.c, slot := x.n, taskw := sl.taskw, space := sl.space, home := h,
    relaxed := r.rlx, pc := x.pc, va := r.addr.toNat, loc := l, n := r.n, val := r.val, aux := r.aux,
    bulk := r.bulk, popped := x.popped }

/-- The destination of a request is full now. -/
def dstFull (x : Ctx) (s : State) (spec : Nat) : Bool :=
  decide (128 ≤ spec) || ((s.core x.c).entry ((s.slot x.c x.n).ent spec)).full

/-- A remote access enters OAR or RB (R101 steps 1 and 2): a default one takes the slot out of rotation, a relaxed one
leaves it there (R102). Of a pair, its value keeps its place for the trailing slot (R217). A default remote access of a
user handler takes ROLE (R125). -/
def issueRemote (x : Ctx) (r : Req) (h : Home) (l : Loc) (s : State) : Res :=
  if x.n = 62 ∧ !r.rlx then .trap 0x15 0 (x.w0.setWidth 64)
  else
    let full := match r.dst with
      | some d => dstFull x s d
      | none => true
    let (dst, s1) := match r.dst with
      | some d => reserve x d s.nextId s
      | none => (match r.pdst with
        | some p => (.pred p, s)
        | none => (.none, s))
    let pre := s.pendingOf x.c (s.mustPrecede x.c x.n h r)
    let a := { accessOf x s r h l with
      dst := dst, dstWas := full, after := pre.1, afterJobs := pre.2, booked := r.book,
      stage := if r.rlx ∧ ¬(pre.1 = [] ∧ pre.2 = []) then .held else .sent }
    let s2 := (if r.rlx ∧ r.dst = none ∧ r.pdst = none then s1 else s1.lvqReserve x.c x.n s.nextId).send a
    let s3 := match r.acq with
      | some sc => if r.rlx then s2.modSlot x.c x.n (fun sl =>
          { sl with acqs := sl.acqs.filter (fun p => s.net.any (fun b => b.id == p.1)) ++ [(a.id, sc)] }) else s2
      | none => s2
    let s4 := if r.book then s3.modSlot x.c x.n (fun sl => { sl with booked := sl.booked + 1 }) else s3
    .ok (if r.rlx then s4 else s4.leave x.c x.n [.access a.id])

/-- A reply written at once, as a local access does (R95, R101 step 6). -/
def replyNow (x : Ctx) (r : Req) (rep : Reply) (s : State) : Res :=
  match rep.trap with
  | some t => .trap t.cause t.sub t.val
  | none => match r.dst with
    | none => .ok s
    | some d => writeDstP x d rep.val rep.poison rep.tag
        (s.lvqPut x.c x.n { val := rep.val, poison := rep.poison, tag := rep.tag })

/-- The access at a place: local at the own scratchpad, else remote (R94, R95). -/
def issueAt (x : Ctx) (r : Req) (l : Loc) (s : State) : Res :=
  let h := match l with
    | .far d va => s.farHome (s.slot x.c x.n).space d va r.kind.use
    | l => homeOf x.c l
  let isLocal := !r.never && (match h with
    | .bank _ _ => true
    | _ => false)
  match s.issueWaits x.c x.n h l isLocal r with
  | w :: ws => .wait (w :: ws)
  | [] =>
    if r.book ∧ 8 ≤ (s.slot x.c x.n).sysUse then .wait [.book x.n]
    else if isLocal then
      let (s', rep) := s.served { accessOf x s r h l with loc := l }
      replyNow x r rep s'
    else issueRemote x r h l s

/-- A memory access: alignment, translation and permission, and for a relaxed one the owner of its granule; of a
default one the owner is checked at the Serve step alone (R93, R98, R279, R283, R329, R348). -/
def issueMem (x : Ctx) (r : Req) (s : State) : Res :=
  if r.addr.toNat % r.n ≠ 0 then .trap 8 0 r.addr
  else
    let space := (s.slot x.c x.n).space
    match s.place x.c space r.addr.toNat r.kind.use with
    | .trap cause sub => .trap cause sub r.addr
    | .walk page => .wait [.walk space page]
    | .at l e =>
      let s := match e with
        | some t => s.touch x.c t
        | none => s
      match l with
      | .pci _ addr =>
        if r.noPci ∨ r.kind.atomic ∨ farPanel ≤ addr then
          .trap 0x0A 5 r.addr
        else issueAt x r l s
      | .pad _ _ => if !r.rlx || s.mayPad space l then issueAt x r l s else .trap 0x0A 4 r.addr
      | _ => issueAt x r l s

/-! ### The instructions (R96, R97) -/

/-- The scope of an acquire or of a release, if the instruction is one (R96). -/
def scopeIf (b : Bool) (sc : Nat) : Option Nat := if b then some sc else none

def ldBody (x : Ctx) (v : Vals) (s : State) : Res :=
  issueMem x { kind := .ld (bitN x.fn 2), n := x.msize, addr := v.a + v.b, dst := some x.o.d.toNat, rlx := x.o.rlx,
               acq := scopeIf (bitN x.fn 3) x.scope } s
def stBody (x : Ctx) (v : Vals) (s : State) : Res :=
  issueMem x { kind := .st, n := x.msize, addr := v.a + v.b, val := v.c, rlx := x.o.rlx,
               rel := scopeIf (bitN x.fn 3) x.scope, fenced := true } s
def amoBody (x : Ctx) (v : Vals) (s : State) : Res :=
  issueMem x { kind := .amo (fld x.fn 7 4) (bitN x.fn 2) true, n := x.msize, addr := v.a + v.b, val := v.c,
               dst := some x.o.d.toNat, rlx := x.o.rlx, acq := scopeIf (bitN x.fn 3 && !bitN x.fn 13) x.scope,
               rel := scopeIf (bitN x.fn 3 && bitN x.fn 13) x.scope, fenced := true } s
def casBody (x : Ctx) (v : Vals) (s : State) : Res :=
  issueMem x { kind := .cas (bitN x.fn 2), n := x.msize, addr := v.a + v.b, val := v.c, aux := v.d,
               dst := some x.o.d.toNat, rlx := x.o.rlx, acq := scopeIf (bitN x.fn 3 && !bitN x.fn 13) x.scope,
               rel := scopeIf (bitN x.fn 3 && bitN x.fn 13) x.scope, fenced := true } s
def amonBody (x : Ctx) (v : Vals) (s : State) : Res :=
  issueMem x { kind := .amo (fld x.fn 7 4) false false, n := x.msize, addr := v.a + v.b, val := v.c, rlx := x.o.rlx,
               rel := scopeIf (bitN x.fn 3) x.scope, fenced := true } s

/-- The compact `ld.d` and `st.d`: offset imm5 x 8; `st.d` stores x[d] (R46). -/
def ldDCompactBody (x : Ctx) (v : Vals) (s : State) : Res :=
  issueMem x { kind := .ld false, n := 8, addr := v.a + BitVec.ofNat 64 (8 * (x.o.b.toNat % 32)), dst := some x.o.d.toNat } s
def stDCompactBody (x : Ctx) (v : Vals) (s : State) : Res :=
  issueMem x { kind := .st, n := 8, addr := v.a + BitVec.ofNat 64 (8 * (x.o.b.toNat % 32)), val := v.d, fenced := true } s

def execLdDCompact (k : Compact) (s : State) : Out :=
  runCompactShared 0x19 .value { d := .dreg, a := .sreg, far := .disp } k (.ldDCompact k) ldDCompactBody s
def execStDCompact (k : Compact) (s : State) : Out :=
  runCompactShared 0x1A (.effect true) { d := .dsrcreg, a := .sreg, far := .disp } k (.stDCompact k) stDCompactBody s
def execLd (o : Opnd) (s : State) : Out :=
  runShared 0x40 .value { d := .dst, a := .src, b := .src, lit := .int, rlx := true, far := .sum } o (.ld o) ldBody s
def execSt (o : Opnd) (s : State) : Out :=
  runShared 0x41 (.effect true) { a := .src, b := .src, c := .src, lit := .int, rlx := true, far := .sum } o (.st o) stBody s
def execAmo (o : Opnd) (s : State) : Out :=
  runShared 0x42 (.effect true) { d := .dst, a := .src, b := .src, c := .src, lit := .int, rlx := true, far := .sum } o (.amo o) amoBody s
def execCas (o : Opnd) (s : State) : Out :=
  runShared 0x43 (.effect true) { d := .rwreg, a := .src, b := .src, c := .src, lit := .int, rlx := true, far := .sum } o (.cas o) casBody s
def execAmon (o : Opnd) (s : State) : Out :=
  runShared 0x44 (.effect true) { a := .src, b := .src, c := .src, lit := .int, rlx := true, far := .sum } o (.amon o) amonBody s

/-! ### Fences (R105, R210) -/

/-- A fence at SLOT has no effect; a full or acquire fence waits; a release fence is noted. -/
def fenceBody (x : Ctx) (_ : Vals) (s : State) : Res :=
  let sc := x.scope
  let own := (s.own x.c x.n).filter (fun a => inScope x.c sc a.home)
  if sc = 0 then .ok s
  else match fld x.fn 0 2 with
    | 0 => match goneWait (own.map (·.id), s.jobsIn x.c x.n sc) with
      | w :: ws => .wait (w :: ws)
      | [] => .ok s
    | 1 => match goneWait ((own.filter (·.kind.gives)).map (·.id), []) with
      | w :: ws => .wait (w :: ws)
      | [] => .ok s
    | _ =>
      let e := (sc, own.map (·.id), s.jobsIn x.c x.n sc)
      .ok (s.modSlot x.c x.n (fun sl =>
        { sl with rels := sl.rels.filter (fun q => decide (s.pendingOf x.c (q.2.1, q.2.2) ≠ ([], []))) ++ [e] }))

def execFence (o : Opnd) (s : State) : Out := runShared 0x3E .lead {} o (.fence o) fenceBody s

end Sys2Proof.Machine
end

