-- ==== Sys2Proof/Machine/Vector.lean ====
section
/-! DEFINITION. Vector instructions that compute: the active tile, elements, completion and flags, and every
instruction but the memory ones (R162 to R182, R187 to R189). -/

namespace Sys2Proof.Machine

/-! ### Elements and shape (R162, R163) -/

def elemAt (e : Nat) (v : VData) (off : Nat) : Nat := bitsN v (8 * off) (8 * e)
def setElem (e : Nat) (v : VData) (off x : Nat) : VData := putBits v (8 * off) (8 * e) x

/-- Byte offset of element (i, j). -/
def offOf (e i j : Nat) : Nat := 64 * i + j * e

/-- The float format of an element type. -/
def vFmt (t : Nat) : Fmt := if t = 4 then fp16 else if t = 5 then bf16 else if t = 6 then fp32 else fp64
def isFloat (t : Nat) : Bool := decide (4 ≤ t)

/-- The shape of a slot: rows, columns (R33). -/
def Slot.rows (sl : Slot) : Nat := bitsN sl.vshape 0 4
def Slot.cols (sl : Slot) : Nat := bitsN sl.vshape 8 7

/-- The shape check of R163 for elements of `e` bytes. -/
def withShape (x : Ctx) (e : Nat) (s : State) (k : Nat → Nat → Res) : Res :=
  let sl := s.slot x.c x.n
  if 64 < sl.cols * e then .trap 1 5 sl.vshape else k sl.rows sl.cols

/-- Fold over the elements (i, j) of a tile, row by row. -/
def foldTile {α : Type} (rows cols : Nat) (f : α → Nat → Nat → α) (a : α) : α :=
  (rangeFrom 0 rows).foldl (fun a i => (rangeFrom 0 cols).foldl (fun a j => f a i j) a) a

/-- Write f(i, j) to every element of the active tile; the flags join (R164, R168, R171). -/
def mapTile (rows cols e : Nat) (old : VData) (f : Nat → Nat → Nat × Flags) : VData × Flags :=
  foldTile rows cols (fun (p : VData × Flags) i j =>
    let (r, fl) := f i j
    (setElem e p.1 (offOf e i j) r, p.2 ||| fl)) (old, flNone)

/-! ### Issue and completion (R167, R168) -/

/-- The type and rounding fields. -/
def Ctx.vt (x : Ctx) : Nat := fld x.fn 0 3
def Ctx.vmode (x : Ctx) (s : State) : RMode := (s.slot x.c x.n).mode (fld x.fn 3 3)

/-- The old contents of the destination register. -/
def oldVec (x : Ctx) (s : State) : VData := ((s.core x.c).vreg ((s.slot x.c x.n).vent (x.o.d.toNat % 32))).val

/-- The operation enters the pipe; with an enable set, one that can raise a flag keeps the slot out (R168). -/
def launchV (x : Ctx) (o : VOp) (canRaise : Bool) (s : State) : Res :=
  let en := if canRaise then (s.slot x.c x.n).trapEn else 0
  let s1 := { s with nextId := s.nextId + 1 }.modCore x.c (fun k => { k with vops := k.vops ++ [{ o with en := en, popped := x.popped }] })
  let s2 := s1.later (.vectorComplete x.c o.id)
  .ok (if en ≠ 0 then s2.leave x.c x.n [.vector o.id] else s2)

/-- An active tile that is the whole register (R222). -/
def wholeTile (rows cols e : Nat) : Bool := decide (rows = 8) && decide (cols * e = 64)

/-- A vector result: the destination is empty-pending until the result's cycle. -/
def giveVec (x : Ctx) (canRaise : Bool) (v : VData) (f : Flags) (s : State) (whole : Bool := false) : Res :=
  let e := (s.slot x.c x.n).vent (x.o.d.toNat % 32)
  launchV x { id := s.nextId, slot := x.n, vdst := some e, vval := v, whole := whole, flags := f, pc := x.pc } canRaise
    (s.modCore x.c (fun k => k.setVreg e { k.vreg e with full := false, pend := true }))

/-- A scalar result. -/
def giveScalar (x : Ctx) (canRaise : Bool) (v : Word) (f : Flags) (s : State) : Res :=
  let (dst, s1) := reserve x x.o.d.toNat s.nextId s
  launchV x { id := s.nextId, slot := x.n, sdst := dst, sval := v, flags := f, pc := x.pc } canRaise s1

/-- The result's cycle: an enabled flag gives FP_TRAP and an unchanged destination, else the result is written
and the flags are raised (R164, R168). Of a killed slot's operation only what a port was promised is delivered
(R116, R169, R222), and the kill may go on. -/
def execVectorComplete (c id : Nat) (s : State) : Out :=
  match (s.core c).vops.find? (fun (o : VOp) => o.id == id) with
  | none => .next s
  | some o =>
    let s := s.modCore c (fun k => { k with vops := k.vops.filter (fun (p : VOp) => p.id != id) })
    if o.dead then .next ((s.deliver c o.slot o.sdst o.sval false 0 o.pc).killGoOn c o.slot)
    else if trapsOn o.flags o.en then
      let s1 := match o.vdst with
        | some e => s.modCore c (fun k => k.setVreg e { k.vreg e with full := true, pend := false })
        | none => s.undoDst c o.sdst true
      .next (s1.lateTrap c o.slot o.pc o.popped ⟨7, 0, o.flags.setWidth 64⟩)
    else
      let s1 := match o.vdst with
        | some e => (if o.whole then s.mend c 1 e else s).modCore c (fun k => k.setVreg e { val := o.vval })
        | none => s.deliver c o.slot o.sdst o.sval false 0 o.pc
      .next (s1.raise c o.slot o.flags)

/-! ### Element-wise operations (R171 to R173) -/

/-- Apply an operation to the elements of a, b and c. -/
def elementwise (x : Ctx) (v : Vals) (canRaise : Bool) (s : State) (op : Nat → Nat → Nat → Nat × Flags) : Res :=
  let e := esize x.vt
  withShape x e s fun rows cols =>
    let (d, f) := mapTile rows cols e (oldVec x s) fun i j =>
      let o := offOf e i j
      op (elemAt e v.va o) (elemAt e v.vb o) (elemAt e v.vc o)
    giveVec x canRaise d f s (wholeTile rows cols e)

/-- An integer result of `e` bytes. -/
def intE (e : Nat) (i : Int) : Nat × Flags := (wrapN (8 * e) i, flNone)
def sgnE (e x : Nat) : Int := sgnN (8 * e) x

/-- Clamp to lo … hi. -/
def clampI (lo hi i : Int) : Int := if i < lo then lo else if hi < i then hi else i

/-- An integer sum or difference: wrapped, clamped signed, clamped unsigned (R172). -/
def satOp (e mode : Nat) (op : Int → Int → Int) (a b : Nat) : Nat × Flags :=
  if mode = 1 then intE e (clampI (-2 ^ (8 * e - 1)) (2 ^ (8 * e - 1) - 1) (op (sgnE e a) (sgnE e b)))
  else if mode = 2 then intE e (clampI 0 (2 ^ (8 * e) - 1) (op a b))
  else intE e (op a b)

def vaddBody (x : Ctx) (v : Vals) (s : State) : Res :=
  elementwise x v (isFloat x.vt) s fun a b _ =>
    if isFloat x.vt then fAdd (vFmt x.vt) (x.vmode s) a b else satOp (esize x.vt) (fld x.fn 6 2) (· + ·) a b
def vsubBody (x : Ctx) (v : Vals) (s : State) : Res :=
  elementwise x v (isFloat x.vt) s fun a b _ =>
    if isFloat x.vt then fSub (vFmt x.vt) (x.vmode s) a b else satOp (esize x.vt) (fld x.fn 6 2) (· - ·) a b
def vmulBody (x : Ctx) (v : Vals) (s : State) : Res :=
  let e := esize x.vt
  elementwise x v (isFloat x.vt) s fun a b _ =>
    if isFloat x.vt then fMul (vFmt x.vt) (x.vmode s) a b
    else match fld x.fn 6 2 with
      | 1 => intE e (sgnE e a * sgnE e b / 2 ^ (8 * e))
      | 2 => intE e ((a * b / 2 ^ (8 * e) : Nat))
      | _ => intE e ((a * b : Nat))
def vfmaBody (x : Ctx) (v : Vals) (s : State) : Res :=
  let np := bitN x.fn 6
  let na := bitN x.fn 7
  elementwise x v (isFloat x.vt) s fun a b c =>
    if isFloat x.vt then fFma (vFmt x.vt) (x.vmode s) np na a b c
    else intE (esize x.vt) (sgn np (a * b) + sgn na c)
def minMaxBody (isMax : Bool) (x : Ctx) (v : Vals) (s : State) : Res :=
  let e := esize x.vt
  elementwise x v (isFloat x.vt) s fun a b _ =>
    if isFloat x.vt then fMinMax (vFmt x.vt) isMax a b
    else
      let less := if bitN x.fn 6 then decide (a < b) else decide (sgnE e a < sgnE e b)
      (if less != isMax then a else b, flNone)
def bitBody (op : Nat → Nat → Nat) (x : Ctx) (v : Vals) (s : State) : Res :=
  elementwise x v false s fun a b _ => (op a b, flNone)
def vshlBody (x : Ctx) (v : Vals) (s : State) : Res :=
  let w := 8 * esize x.vt
  elementwise x v false s fun a b _ => ((a <<< (b % w)) % 2 ^ w, flNone)
def vshrBody (x : Ctx) (v : Vals) (s : State) : Res :=
  let e := esize x.vt
  elementwise x v false s fun a b _ =>
    if bitN x.fn 6 then intE e (sgnE e a / 2 ^ (b % (8 * e))) else (a >>> (b % (8 * e)), flNone)
def vselBody (x : Ctx) (v : Vals) (s : State) : Res :=
  elementwise x v false s fun a b c => (if c ≠ 0 then a else b, flNone)

/-- Integer conditions of `vcmp` (R173). -/
def intCond (e cond : Nat) (u : Bool) (a b : Nat) : Bool :=
  let x : Int := if u then a else sgnE e a
  let y : Int := if u then b else sgnE e b
  match cond with
  | 0 => decide (x = y)
  | 1 => decide (x ≠ y)
  | 2 => decide (x < y)
  | 3 => decide (x ≤ y)
  | 4 => decide (y < x)
  | _ => decide (y ≤ x)

def vcmpBody (x : Ctx) (v : Vals) (s : State) : Res :=
  let e := esize x.vt
  elementwise x v (isFloat x.vt) s fun a b _ =>
    let (t, f) := if isFloat x.vt then fCmp (vFmt x.vt) (fld x.fn 6 3) a b
      else (intCond e (fld x.fn 6 4) (bitN x.fn 10) a b, flNone)
    (if t then 2 ^ (8 * e) - 1 else 0, f)

/-! ### Conversion and special functions (R174, R175) -/

/-- One element converted from type `st` to type `t`; BF16 to FP32 is exact and raises nothing, a signalling NaN included
(R174). -/
def cvtElem (fn t st : Nat) (mode : RMode) (a : Nat) : Nat × Flags :=
  let e := esize t
  let se := esize st
  let to8 := fld fn 10 2
  let from8 := fld fn 12 2
  if to8 = 1 then cvtE4M3 mode (fdecode (vFmt st) a)
  else if to8 = 2 then cvtE5M2 mode (fdecode (vFmt st) a)
  else if from8 = 1 then cvtVal (vFmt t) mode (decodeE4M3 a)
  else if from8 = 2 then cvtVal (vFmt t) mode (decodeE5M2 a)
  else if t = 6 ∧ st = 5 then ((cvtVal (vFmt t) mode (fdecode (vFmt st) a)).1, flNone)
  else if isFloat st && isFloat t then cvtVal (vFmt t) mode (fdecode (vFmt st) a)
  else if isFloat st then
    let (i, f) := cvtInt (-2 ^ (8 * e - 1)) (2 ^ (8 * e - 1) - 1) mode (fdecode (vFmt st) a)
    (wrapN (8 * e) i, f)
  else if isFloat t then cvtFromInt (vFmt t) mode (sgnE se a)
  else if bitN fn 9 then intE e (clampI (-2 ^ (8 * e - 1)) (2 ^ (8 * e - 1) - 1) (sgnE se a))
  else intE e (sgnE se a)

/-- A conversion that can raise a float flag: not the exact ones, from BF16 to FP32, from OFP8, and from an integer type
whose every value the float type holds (R78, R168, R174). -/
def cvtRaises (fn t st : Nat) : Bool :=
  if fld fn 12 2 ≠ 0 ∨ (t = 6 ∧ st = 5) then false
  else isFloat st || (isFloat t && decide ((vFmt t).mbits + 2 < 8 * esize st))

def vcvtBody (x : Ctx) (v : Vals) (s : State) : Res :=
  let st := fld x.fn 6 3
  let e := esize x.vt
  let se := esize st
  withShape x (max e se) s fun rows cols =>
    let (d, f) := mapTile rows cols e (oldVec x s) fun i j => cvtElem x.fn x.vt st (x.vmode s) (elemAt se v.va (offOf se i j))
    giveVec x (cvtRaises x.fn x.vt st) d f s (wholeTile rows cols e)

def vsfnBody (x : Ctx) (v : Vals) (s : State) : Res :=
  let f := vFmt x.vt
  elementwise x v true s fun a _ _ =>
    match fld x.fn 6 4 with
    | 4 => fRcp f a
    | 5 => fRsq f a
    | n => fSfn f (x.vmode s) n a

/-! ### Moving elements (R176 to R180) -/

def vbcastBody (x : Ctx) (v : Vals) (s : State) : Res :=
  elementwise x v false s fun _ _ _ => (v.b.toNat % 2 ^ (8 * esize x.vt), flNone)
def vbcastRowBody (x : Ctx) (v : Vals) (s : State) : Res :=
  let e := esize x.vt
  withShape x e s fun rows cols =>
    let (d, _) := mapTile rows cols e (oldVec x s) fun _ j => (elemAt e v.va (offOf e (fld x.fn 10 3) j), flNone)
    giveVec x false d flNone s (wholeTile rows cols e)
def vpermBody (x : Ctx) (v : Vals) (s : State) : Res :=
  let e := esize x.vt
  withShape x e s fun rows cols =>
    let (d, _) := mapTile rows cols e (oldVec x s) fun i j =>
      let q := elemAt e v.vb (offOf e i j)
      (if bitN x.fn 6 then (if q < rows * cols then elemAt e v.va (offOf e (q / cols) (q % cols)) else 0)
       else (if q < cols then elemAt e v.va (offOf e i q) else 0), flNone)
    giveVec x false d flNone s (wholeTile rows cols e)

/-- `vtrn`: that COLS is checked before the names, and that the %tval of a d that names a is the specifier of d, is the
model's choice (assumption log 71). -/
def vtrnBody (x : Ctx) (v : Vals) (s : State) : Res :=
  let e := esize x.vt
  withShape x e s fun rows cols =>
    if 8 < cols then .trap 1 5 (s.slot x.c x.n).vshape
    else if x.o.d = x.o.a then .trap 1 5 (x.o.d.setWidth 64)
    else
      let (d, _) := mapTile cols rows e (oldVec x s) fun j i => (elemAt e v.va (offOf e i j), flNone)
      giveVec x false d flNone s (wholeTile cols rows e)

/-- Byte offset of physical element index `k` (R162). -/
def physOff (e k : Nat) : Nat := k / (64 / e) * 64 + k % (64 / e) * e

/-- An element as a scalar: integers sign- or zero-extended, floats as raw bits (R179, R181). -/
def elemWord (t : Nat) (u : Bool) (r : Nat) : Word :=
  if isFloat t || u then BitVec.ofNat 64 r else signExt (8 * esize t) r

def vextBody (x : Ctx) (v : Vals) (s : State) : Res :=
  let e := esize x.vt
  if 64 / e * 8 ≤ v.b.toNat then .trap 1 5 v.b
  else giveScalar x false (elemWord x.vt (bitN x.fn 6) (elemAt e v.va (physOff e v.b.toNat))) flNone s
def vinsBody (x : Ctx) (v : Vals) (s : State) : Res :=
  let e := esize x.vt
  if 64 / e * 8 ≤ v.b.toNat then .trap 1 5 v.b
  else giveVec x false (setElem e v.vd (physOff e v.b.toNat) v.a.toNat) flNone s
def vmovBody (x : Ctx) (v : Vals) (s : State) : Res := giveVec x false v.va flNone s true

/-! ### Reductions and scans (R181, R182) -/

/-- One combination (R181). -/
def combine (t op : Nat) (mode : RMode) (a b : Nat) : Nat × Flags :=
  let e := esize t
  match op with
  | 0 => if isFloat t then fAdd (vFmt t) mode a b else intE e ((a + b : Nat))
  | 1 => if isFloat t then fMinMax (vFmt t) false a b else (if sgnE e a ≤ sgnE e b then a else b, flNone)
  | 2 => if isFloat t then fMinMax (vFmt t) true a b else (if sgnE e a ≤ sgnE e b then b else a, flNone)
  | 3 => (a &&& b, flNone)
  | 4 => (a ||| b, flNone)
  | 5 => (a ^^^ b, flNone)
  | 6 => (min a b, flNone)
  | _ => (max a b, flNone)

/-- One level of the tree: neighbours combine, an odd last element passes through. -/
def treeLevel (f : Nat → Nat → Nat × Flags) : List Nat → List Nat × Flags
  | a :: b :: r =>
    let (w, fl) := f a b
    let (ws, fls) := treeLevel f r
    (w :: ws, fl ||| fls)
  | l => (l, flNone)

/-- The tree of R181; 7 levels reduce up to 128 values. -/
def tree (f : Nat → Nat → Nat × Flags) : Nat → List Nat → Nat × Flags
  | 0, l => (l.headD 0, flNone)
  | n + 1, l =>
    let (l', fl) := treeLevel f l
    let (r, fl') := tree f n l'
    (r, fl ||| fl')

def redFlags (t op : Nat) : Bool := isFloat t && decide (op ≤ 2)

def vredBody (x : Ctx) (v : Vals) (s : State) : Res :=
  let t := x.vt
  let e := esize t
  let op := fld x.fn 6 4
  let f := combine t op (x.vmode s)
  withShape x e s fun rows cols =>
    let at' (i j : Nat) : Nat := elemAt e v.va (offOf e i j)
    let row (i : Nat) : Nat × Flags := tree f 7 ((rangeFrom 0 cols).map (at' i))
    let col (j : Nat) : Nat × Flags := tree f 7 ((rangeFrom 0 rows).map (fun i => at' i j))
    let rc := redFlags t op
    match fld x.fn 10 2 with
    | 1 =>
      let (d, fl) := mapTile rows 1 e (oldVec x s) (fun i _ => row i)
      giveVec x rc d fl s
    | 2 =>
      let (d, fl) := mapTile 1 cols e (oldVec x s) (fun _ j => col j)
      giveVec x rc d fl s
    | _ =>
      let rs := (rangeFrom 0 rows).map row
      let (r, fl) := tree f 7 (rs.map (·.1))
      giveScalar x rc (elemWord t false r) (rs.foldl (fun a p => a ||| p.2) fl) s

/-- The identities of an exclusive scan (R182). -/
def identityOf (t op : Nat) : Nat :=
  let w := 8 * esize t
  match op with
  | 1 => if isFloat t then (vFmt t).infBits else 2 ^ (w - 1) - 1
  | 2 => if isFloat t then (vFmt t).signBits true + (vFmt t).infBits else 2 ^ (w - 1)
  | 3 | 6 => 2 ^ w - 1
  | _ => 0

/-- Inclusive prefixes of a list, rounding after each step. -/
def prefixes (f : Nat → Nat → Nat × Flags) (acc : Nat) : List Nat → List Nat × Flags
  | [] => ([], flNone)
  | a :: r =>
    let (w, fl) := f acc a
    let (ws, fls) := prefixes f w r
    (w :: ws, fl ||| fls)

/-- One row of a scan: `.x` shifts the inclusive scan right and drops its last combination. -/
def scanRow (f : Nat → Nat → Nat × Flags) (ident : Nat) (excl : Bool) : List Nat → List Nat × Flags
  | [] => ([], flNone)
  | a :: r =>
    if excl then
      (if r = [] then ([ident], flNone)
       else
        let (ws, fl) := prefixes f a r.dropLast
        (ident :: a :: ws, fl))
    else
      let (ws, fl) := prefixes f a r
      (a :: ws, fl)

def vscanBody (x : Ctx) (v : Vals) (s : State) : Res :=
  let t := x.vt
  let e := esize t
  let op := fld x.fn 6 4
  withShape x e s fun rows cols =>
    let (d, fl) := (rangeFrom 0 rows).foldl (fun (p : VData × Flags) i =>
      let (ws, f) := scanRow (combine t op (x.vmode s)) (identityOf t op) (bitN x.fn 10)
        ((rangeFrom 0 cols).map (fun j => elemAt e v.va (offOf e i j)))
      (ws.zipIdx.foldl (fun d q => setElem e d (offOf e i q.2) q.1) p.1, p.2 ||| f)) (oldVec x s, flNone)
    giveVec x (redFlags t op) d fl s (wholeTile rows cols e)

/-! ### Distance (R187) -/

/-- A sum in progress: an exact dyadic value, infinities seen, NaN and NV, and the signs of zero addends. -/
structure DSum where
  i : Int := 0
  e : Int := 0
  posInf : Bool := false
  negInf : Bool := false
  nan : Bool := false
  nv : Bool := false
  posZ : Bool := false
  negZ : Bool := false
  deriving DecidableEq, Repr

/-- Add one value to a sum. -/
def DSum.add (t : DSum) : FVal → DSum
  | .nan s => { t with nan := true, nv := t.nv || s }
  | .inf n => if n then { t with negInf := true } else { t with posInf := true }
  | .fin n m e =>
    let lo := min t.e e
    { t with i := t.i * 2 ^ (t.e - lo).toNat + sgn n (m * 2 ^ (e - lo).toNat), e := lo,
             posZ := t.posZ || !n, negZ := t.negZ || n }

/-- The exact difference of two values, as R187's terms need it: a NaN carries whether it raises NV. -/
def diffVal (a b : FVal) : FVal :=
  match a, b with
  | .nan s, y => .nan (s || y.isSig)
  | _, .nan s => .nan s
  | .inf m, .inf n => if m = n then .nan true else .inf false
  | .inf _, _ => .inf false
  | _, .inf _ => .inf false
  | .fin n1 m1 e1, .fin n2 m2 e2 =>
    let (i, e) := addExact n1 m1 e1 (!n2) m2 e2
    .fin false i.natAbs e

/-- One float term of a metric. -/
def distTerm (metric : Nat) (a b : FVal) : FVal :=
  if metric = 0 then
    (if a.isNan || b.isNan then .nan (a.isSig || b.isSig)
     else (prodVal a b).getD (.nan true))
  else match diffVal a b with
    | .fin _ m e => if metric = 1 then .fin false (m * m) (2 * e) else .fin false m e
    | y => y

/-- The rounded result of a sum; the sign of an exact zero follows R75 (assumption log 31). -/
def DSum.round (t : DSum) (f : Fmt) (mode : RMode) : Nat × Flags :=
  if t.nan then (f.nanBits, if t.nv || (t.posInf && t.negInf) then flNV else flNone)
  else if t.posInf && t.negInf then (f.nanBits, flNV)
  else if t.posInf then infOut f false
  else if t.negInf then infOut f true
  else roundZ f mode t.i t.e (if t.negZ && t.posZ then decide (mode = .rdn) else t.negZ)

/-- One integer term of a metric. -/
def intTerm (e metric a b : Nat) : Int :=
  match metric with
  | 0 => sgnE e a * sgnE e b
  | 1 => (sgnE e a - sgnE e b) ^ 2
  | 2 => ((sgnE e a - sgnE e b).natAbs : Int)
  | _ => (((rangeFrom 0 (8 * e)).filter (fun k => (a ^^^ b).testBit k)).length : Int)

def vdistBody (x : Ctx) (v : Vals) (s : State) : Res :=
  let t := x.vt
  let e := esize t
  let metric := fld x.fn 6 4
  let acc := bitN x.fn 11
  let fo := if t = 7 then fp64 else fp32
  let re := if isFloat t && t != 7 then 4 else 8
  withShape x e s fun rows cols =>
    let old := oldVec x s
    let (d, fl) := mapTile 1 rows re old fun _ i =>
      let q := if bitN x.fn 10 then i else 0
      let pair (j : Nat) : Nat × Nat := (elemAt e v.va (offOf e q j), elemAt e v.vb (offOf e i j))
      let prev := elemAt re old (re * i)
      if isFloat t then
        let z := (rangeFrom 0 cols).foldl (fun (z : DSum) j =>
          z.add (distTerm metric (fdecode (vFmt t) (pair j).1) (fdecode (vFmt t) (pair j).2))) {}
        (if acc then z.add (fdecode fo prev) else z).round fo (x.vmode s)
      else
        let z := (rangeFrom 0 cols).foldl (fun (z : Int) j => z + intTerm e metric (pair j).1 (pair j).2) 0
        (wrapN 64 (if acc then z + sgnN 64 prev else z), flNone)
    giveVec x (isFloat t) d fl s

/-! ### Top-k (R188) -/

/-- A candidate: raw score and identifier. -/
abbrev Cand := Nat × Nat

/-- The score of `a` comes before that of `b`. -/
def scoreLt (t : Nat) (asc : Bool) (a b : Nat) : Bool :=
  let lt (p q : Nat) : Bool := if isFloat t then valLt (fdecode (vFmt t) p) (fdecode (vFmt t) q)
    else decide (sgnE (esize t) p < sgnE (esize t) q)
  if asc then lt a b else lt b a

def candLt (t : Nat) (asc : Bool) (a b : Cand) : Bool :=
  scoreLt t asc a.1 b.1 || (!scoreLt t asc b.1 a.1 && decide (a.2 < b.2))

/-- Insert a candidate after its equals, and sort. -/
def insertCand (t : Nat) (asc : Bool) (c : Cand) : List Cand → List Cand
  | [] => [c]
  | d :: r => if candLt t asc c d then c :: d :: r else d :: insertCand t asc c r
def sortCands (t : Nat) (asc : Bool) (l : List Cand) : List Cand := l.foldl (fun acc c => insertCand t asc c acc) []

/-- The worst score. -/
def worst (t : Nat) (asc : Bool) : Nat :=
  if isFloat t then (vFmt t).signBits (!asc) + (vFmt t).infBits
  else if asc then 2 ^ (8 * esize t - 1) - 1 else 2 ^ (8 * esize t - 1)

def vtopkBody (x : Ctx) (v : Vals) (s : State) : Res :=
  let t := x.vt
  let e := esize t
  let asc := bitN x.fn 6
  let k := fld x.fn 10 4 + 1
  let old := oldVec x s
  let merged : List Cand := if bitN x.fn 7 then (rangeFrom 0 k).map (fun j => (elemAt e old (j * e), elemAt 4 old (64 + 4 * j))) else []
  let fresh : List Cand := (rangeFrom 0 (s.slot x.c x.n).rows).map (fun i => (elemAt e v.va (i * e), (v.b.toNat + i) % 2 ^ 32))
  let all := (merged ++ fresh).filter (fun c => !(isFloat t && (fdecode (vFmt t) c.1).isNan))
  let best := (sortCands t asc all).take k
  let out := best ++ List.replicate (k - best.length) (worst t asc, 0xFFFFFFFF)
  let d := out.zipIdx.foldl (fun d q => setElem 4 (setElem e d (q.2 * e) q.1.1) (64 + 4 * q.2) q.1.2) old
  giveVec x false d flNone s

/-! ### Quantisation (R148, R189) -/

/-- The code of value ± m × 2^e under q and S = sm × 2^se: the nearest level to t, ties to the smaller one. -/
def quantCode (neg : Bool) (m : Nat) (e : Int) (q sm : Nat) (se : Int) : Nat :=
  -- 256 t = num / den
  let k := e - se
  let num : Int := sgn neg (m * 255 * 256 * 2 ^ k.toNat)
  let den : Int := ((q * sm * 2 ^ (-k).toNat : Nat) : Int)
  let dist (c : Nat) : Nat := (num - qc4Level c * den).natAbs
  (rangeFrom 0 16).foldl (fun b c =>
    if dist c < dist b then c else if dist c = dist b ∧ (qc4Level c).natAbs < (qc4Level b).natAbs then c else b) 0

/-- q of a block: Ceiling(255 × m_b / S), 1 to 255; 0 for a block of zeros (R148). -/
def quantQ (vals : List FVal) (sm : Nat) (se : Int) : Nat :=
  if vals.any (·.isInf) then 255
  else
    let one (v : FVal) : Nat := match v with
      | .fin _ m e => let k := e - se
        (255 * m * 2 ^ k.toNat + sm * 2 ^ (-k).toNat - 1) / (sm * 2 ^ (-k).toNat)
      | _ => 0
    let q := vals.foldl (fun a v => max a (one v)) 0
    min q 255

/-- The code of one element (R148, R189). -/
def quantElem (q sm : Nat) (se : Int) : FVal → Nat
  | .nan _ => 8
  | .inf n => if n then 0 else 15
  | .fin n m e => if q = 0 then 8 else if m = 0 then (if n then 7 else 8) else quantCode n m e q sm se

/-- `vquant`: that a number of elements that is no multiple of 64 is reported before a bad S is the model's choice
(assumption log 71). -/
def vquantBody (x : Ctx) (v : Vals) (s : State) : Res :=
  let t := x.vt
  let e := esize t
  withShape x e s fun rows cols =>
    if rows * cols % 64 ≠ 0 then .trap 1 5 (s.slot x.c x.n).vshape
    else match fdecode fp32 v.b.toNat with
      | .fin false sm se =>
        if sm = 0 then .trap 1 5 v.b
        else
          let vals := (rangeFrom 0 (rows * cols)).map (fun k => fdecode (vFmt t) (elemAt e v.va (offOf e (k / cols) (k % cols))))
          let d := (rangeFrom 0 (rows * cols / 64)).foldl (fun d n =>
            let blk := (vals.drop (64 * n)).take 64
            let q := quantQ blk sm se
            let codes := (blk.map (quantElem q sm se)).zipIdx.foldl (fun a p => a + p.1 * 16 ^ p.2) 0
            putBits d (512 * n) 512 (codes + q * 2 ^ 256)) (oldVec x s)
          giveVec x true d (if vals.any (·.isNan) then flNV else flNone) s
      | _ => .trap 1 5 v.b

/-! ### The instructions -/

/-- Two vector sources, three, and one (R166). -/
def dscV2 : Desc := { d := .vdst, a := .vsrc, b := .vsrc, lit := .vec }
def dscV3 : Desc := { d := .vdst, a := .vsrc, b := .vsrc, c := .vsrc, lit := .vec }
def dscV1 : Desc := { d := .vdst, a := .vsrc }

def execVadd (o : Opnd) (s : State) : Out := runLong 0x70 dscV2 o vaddBody s
def execVsub (o : Opnd) (s : State) : Out := runLong 0x71 dscV2 o vsubBody s
def execVmul (o : Opnd) (s : State) : Out := runLong 0x72 dscV2 o vmulBody s
def execVfma (o : Opnd) (s : State) : Out := runLong 0x73 dscV3 o vfmaBody s
def execVmin (o : Opnd) (s : State) : Out := runLong 0x74 dscV2 o (minMaxBody false) s
def execVmax (o : Opnd) (s : State) : Out := runLong 0x75 dscV2 o (minMaxBody true) s
def execVand (o : Opnd) (s : State) : Out := runLong 0x76 dscV2 o (bitBody (· &&& ·)) s
def execVor (o : Opnd) (s : State) : Out := runLong 0x77 dscV2 o (bitBody (· ||| ·)) s
def execVxor (o : Opnd) (s : State) : Out := runLong 0x78 dscV2 o (bitBody (· ^^^ ·)) s
def execVshl (o : Opnd) (s : State) : Out := runLong 0x79 dscV2 o vshlBody s
def execVshr (o : Opnd) (s : State) : Out := runLong 0x7A dscV2 o vshrBody s
def execVcmp (o : Opnd) (s : State) : Out := runLong 0x7B dscV2 o vcmpBody s
def execVsel (o : Opnd) (s : State) : Out := runLong 0x7C dscV3 o vselBody s
def execVcvt (o : Opnd) (s : State) : Out := runLong 0x7D dscV1 o vcvtBody s
def execVsfn (o : Opnd) (s : State) : Out := runLong 0x7E dscV1 o vsfnBody s
def execVbcast (o : Opnd) (s : State) : Out := runLong 0x7F { d := .vdst, b := .src, lit := .elem } o vbcastBody s
def execVbcastRow (o : Opnd) (s : State) : Out := runLong 0x7F dscV1 o vbcastRowBody s
/-- `vred` writes a scalar or, by rows or columns, a vector register (R181). -/
def dscVred (fn : Nat) : Desc := if fld fn 10 2 = 0 then { d := .dst, a := .vsrc } else dscV1
def execVred (o : Opnd) (s : State) : Out := runLong 0x84 (dscVred o.fn.toNat) o vredBody s
def execVscan (o : Opnd) (s : State) : Out := runLong 0x85 dscV1 o vscanBody s
def execVperm (o : Opnd) (s : State) : Out := runLong 0x86 dscV2 o vpermBody s
def execVtrn (o : Opnd) (s : State) : Out := runLong 0x87 dscV1 o vtrnBody s
/-- Under `.acc` and `.m`, d is read too (R187, R188). -/
def dscVdist (fn : Nat) : Desc := if bitN fn 11 then { d := .vrw, a := .vsrc, b := .vsrc, lit := .vec } else dscV2
def dscVtopk (fn : Nat) : Desc :=
  if bitN fn 7 then { d := .vrw, a := .vsrc, b := .src, lit := .int } else { d := .vdst, a := .vsrc, b := .src, lit := .int }
def execVdist (o : Opnd) (s : State) : Out := runLong 0x88 (dscVdist o.fn.toNat) o vdistBody s
def execVtopk (o : Opnd) (s : State) : Out := runLong 0x89 (dscVtopk o.fn.toNat) o vtopkBody s
def execVquant (o : Opnd) (s : State) : Out := runLong 0x8A { d := .vdst, a := .vsrc, b := .src, lit := .f32 } o vquantBody s
def execVext (o : Opnd) (s : State) : Out := runLong 0x8B { d := .dst, a := .vsrc, b := .src, lit := .int } o vextBody s
def execVins (o : Opnd) (s : State) : Out := runLong 0x8C { d := .vrw, a := .src, b := .src, lit := .int } o vinsBody s
def execVmov (o : Opnd) (s : State) : Out := runLong 0x8D dscV1 o vmovBody s

end Sys2Proof.Machine
end

