-- ==== Sys2Proof/Machine/Elements.lean ====
section
/-! DEFINITION. Vector and tile memory instructions as sets of element accesses: addresses, checks in their
order, requests by block and home, and the end of the instruction (R149 to R152, R170, R183 to R186, R198,
R200, R221). -/

namespace Sys2Proof.Machine

/-! ### Planned elements (R184, R185, R200) -/

/-- An element before its translation: its index, address and bytes, whether its row may not begin there, and
which nibble of its byte it is. -/
structure PElem where
  k : Nat
  va : Nat
  n : Nat
  odd : Bool := false
  par : Nat := 0
  deriving DecidableEq, Repr

/-- Bytes of a source element of a page format; a QC4 element lies in one byte (R149, R150). -/
def fmtSize (f : Nat) : Nat := if f = 4 ∨ f = 5 then 2 else if f = 6 then 4 else 1

/-- Source element `p` counted from a base: two of a QC4 page share a byte. -/
def plainElem (base n k : Nat) (p : Int) : PElem := { k := k, va := wrapN 64 (base + p * n), n := n }
def halfElem (base k : Nat) (p : Int) (odd : Bool) : PElem :=
  { k := k, va := wrapN 64 (base + p / 2), n := 1, odd := odd, par := (p % 2).toNat }

/-- The elements of a tile whose row `i` begins at source element `row i`, in pages of format `f`. -/
def tileElems (rows cols base f : Nat) (row : Nat → Int) : List PElem :=
  (rangeFrom 0 (rows * cols)).map fun k =>
    let r := row (k / cols)
    if f = 1 then halfElem base k (r + k % cols) (decide (r % 2 ≠ 0))
    else plainElem base (fmtSize f) k (r + k % cols)

/-- Elements of `n` raw bytes, where element (i, j) lies `off i j` bytes from the base. -/
def rawElems (rows cols base n : Nat) (off : Nat → Nat → Int) : List PElem :=
  (rangeFrom 0 (rows * cols)).map fun k => { k := k, va := wrapN 64 (base + off (k / cols) (k % cols)), n := n }

/-! ### The page that holds the base (R185) -/

/-- What the page of a base gives: a trap, a page whose walk must end first, a fault that its home reports, or
its format. -/
inductive Base where
  | trap (cause sub : Nat)
  | walk (page : Nat)
  | remote (cause sub : Nat)
  | page (fmt : Nat)
  deriving DecidableEq, Repr

/-- The fault that another device, or the fabric, finds for an element there (R345). -/
def State.farFault (s : State) (c space : Nat) (u : Use) : Place → Option (Nat × Nat)
  | .at (.far d va) _ =>
    if !s.reach (devOf c) d then some (9, 7)
    else match s.farPlace d space va u with
      | .trap cause sub => some (if cause = 9 then (9, 7) else (cause, sub))
      | .walk _ => some (9, 7)
      | .at (.pci _ _) _ => some (10, 5)
      | .at _ _ => none
  | _ => none

/-- The page of an element; one of another device is found in that device's tables. -/
def State.pageOf (s : State) (space : Nat) (l : Loc) (e : Option Tlb) (u : Use) : Option Tlb :=
  match l with
  | .far d va => match s.farPlace d space va u with
    | .at _ t => t
    | _ => none
  | _ => e

def State.basePage (s : State) (c space va : Nat) (u : Use) : Base :=
  match s.place c space va u with
  | .trap cause sub => .trap cause sub
  | .walk page => .walk page
  | .at (.far d va') e => match s.farFault c space u (.at (.far d va') e) with
    | some (cause, sub) => .remote cause sub
    | none => .page (fmtIn (s.pageOf space (.far d va') e u))
  | .at (.pci _ _) _ => .trap 10 5
  | .at (.pad c' off) _ => if s.mayPad space (.pad c' off) then .page 0 else .trap 10 4
  | .at (.dram _ _) e => .page (fmtIn e)
where
  /-- The format of a page; bytes outside device memory are raw (R149). -/
  fmtIn (e : Option Tlb) : Nat := (e.map (·.fmt)).getD 0

/-! ### The checks of every element (R170, R198) -/

/-- The fault of an element's place: cause, subcode, and whether another device or the fabric finds it (R279, R329, R345). -/
def State.elemFault (s : State) (c space : Nat) (u : Use) (p : Place) : Option (Nat × Nat × Bool) :=
  match p with
  | .trap cause sub => some (cause, sub, false)
  | .at (.pci _ _) _ => some (10, 5, false)
  | .at (.pad c off) _ => if s.mayPad space (.pad c off) then none else some (10, 4, false)
  | p => (s.farFault c space u p).map (fun f => (f.1, f.2, true))

/-- An element lies in a page of another format than `want`. -/
def State.elemFmt (s : State) (space want : Nat) (u : Use) : Place → Bool
  | .at (.far d va) e => (match s.pageOf space (.far d va) e u with
    | some t => decide (t.fmt ≠ want)
    | none => false)
  | .at _ e => decide ((e.map (·.fmt)).getD 0 ≠ want)
  | _ => false

/-- The plan of an instruction: how it ends without one, or elements with their places, the scale frames of
QC4 elements, the state with the translations used, and the trap that another device will report. -/
inductive Plan where
  | stop (r : Res)
  | go (es : List Elem) (scale : List (Nat × Nat × Nat)) (s : State) (t : Option Trap)
  deriving DecidableEq, Repr

/-- An element in its place. -/
def elemAtPlace (q : PElem × Place) : Option Elem :=
  match q.2 with
  | .at l _ => some { k := q.1.k, va := q.1.va, loc := l, n := q.1.n, dat := q.1.par }
  | _ => none

/-- The end that an element's fault gives: a trap at issue, or one that the element alone, sent to the device or the fabric
that finds it, brings back (R186, R345; assumption log 75). -/
def State.faultPlan (s : State) (q : PElem × Place) (f : Nat × Nat × Bool) : Plan :=
  let va : Word := BitVec.ofNat 64 q.1.va
  if f.2.2 then .go (elemAtPlace q).toList [] s (some ⟨f.1, f.2.1, va⟩) else .stop (.trap f.1 f.2.1 va)

/-- The index of a QC4 element in its page and its scale frame (R150). -/
def State.scaleOf (s : State) (c space : Nat) (u : Use) (p : PElem × Place) : Option (Nat × Nat × Nat) :=
  match p.2 with
  | .at l e => match s.pageOf space l e u with
    | some t => if t.fmt = 1 then
        some (p.1.k, p.1.va % 65536 * 2 + p.1.par, (match l with | .far d _ => d | _ => devOf c) * 2 ^ 48 + t.scale) else none
    | none => none
  | _ => none

/-- The checks, each for the lowest element that meets it, those of another device's elements with them (R170, R186; assumption
log 75). `want` is the format that every page must have. -/
def State.plan (s : State) (c space : Nat) (u : Use) (want : Option Nat) (ps : List PElem) : Plan :=
  let qs := ps.map (fun p => (p, s.place c space p.va u))
  let va (p : PElem) : Word := BitVec.ofNat 64 p.va
  match ps.find? (fun p => p.odd || decide (p.va % p.n ≠ 0)) with
  | some p => .stop (.trap 8 0 (va p))
  | none =>
    let fault (cause : Nat) : Option ((PElem × Place) × (Nat × Nat × Bool)) := qs.findSome? (fun q =>
      (s.elemFault c space u q.2).bind (fun f => if f.1 = cause then some (q, f) else none))
    match fault 9 with
    | some (q, f) => s.faultPlan q f
    | none => match (qs.filterMap (fun q => match q.2 with | .walk page => some page | _ => none)).eraseDups with
      | w :: ws => .stop (.wait ((w :: ws).map (fun page => .walk space page)))
      | [] => match fault 10 with
        | some (q, f) => s.faultPlan q f
        | none => match want.bind (fun f => qs.find? (fun q => s.elemFmt space f u q.2)) with
          | some q => .stop (.trap 0x0B 0 (va q.1))
          | none =>
            let used := (qs.filterMap (fun q => match q.2 with | .at _ e => e | _ => none)).eraseDups
            .go (qs.filterMap elemAtPlace) (if want = some 1 then qs.filterMap (s.scaleOf c space u) else [])
              (used.foldl (fun s e => s.touch c e) s) none

/-- The elements of an instruction whose element size is the base page's, counted in source elements from the base
(R185, R200), or how it ends; `ok` says which formats it can use. A page of another format is element 0's fault
(R152). A raw base page gives no size to its elements, and the fault names the base (assumption log 56). -/
def fmtPlan (x : Ctx) (s : State) (u : Use) (ok : Nat → Bool) (base rows cols : Nat) (row : Nat → Int) : Plan × Nat :=
  let space := (s.slot x.c x.n).space
  let b := BitVec.ofNat 64 base
  match s.basePage x.c space base u with
  | .trap cause sub => (.stop (.trap cause sub b), 0)
  | .walk page => (.stop (.wait [.walk space page]), 0)
  | .remote cause sub => let p : PElem := { k := 0, va := base, n := 1 }
    (s.faultPlan (p, s.place x.c space base u) (cause, sub, true), 0)
  | .page f =>
    if f = 0 then (.stop (.trap 0x0B 0 b), 0)
    else
      let whole := !ok f
      let ps := tileElems rows cols base f row
      match s.plan x.c space u (if whole then none else some f) ps with
      | .go es sc s' none => if whole then (.stop (.trap 0x0B 0 (BitVec.ofNat 64 ((ps.map (·.va)).headD base))), 0) else (.go es sc s' none, f)
      | p => (p, f)

/-! ### Requests (R186) -/

/-- The aligned 512-byte block of a place. -/
def Loc.block : Loc → Nat
  | .pad _ a | .dram _ a | .pci _ a | .far _ a => a / 512

/-- The home of an element's place as core `c` sees it. -/
def State.elemHome (s : State) (c space : Nat) (u : Use) : Loc → Home
  | .far d va => s.farHome space d va u
  | l => homeOf c l

/-- Elements that share a home and a block travel together, in the order of their lowest k. -/
def addGroup (h : Home) (b : Nat) (e : Elem) : List (Home × Nat × List Elem) → List (Home × Nat × List Elem)
  | [] => [(h, b, [e])]
  | (h', b', es) :: r => if h = h' ∧ b = b' then (h', b', es ++ [e]) :: r else (h', b', es) :: addGroup h b e r

def State.groups (s : State) (c space : Nat) (u : Use) (es : List Elem) : List (Home × Nat × List Elem) :=
  es.foldl (fun g e => addGroup (s.elemHome c space u e.loc) e.loc.block e g) []

/-- A vector memory instruction issues when OAR and RB are empty, and checks its elements then (R186). -/
def whenAlone (x : Ctx) (s : State) (r : Res) : Res :=
  match s.issueWaits x.c x.n (.bank x.c 0) (.pad 0 0) false { kind := .vread, n := 1, addr := 0 } with
  | w :: ws => .wait (w :: ws)
  | [] => r

/-- The instruction enters OAR with all its requests, and the slot leaves rotation (R101, R186). -/
def issueElems (x : Ctx) (kind : AKind) (m : VMem) (es : List Elem) (s : State) : Res :=
  let sl := s.slot x.c x.n
  let id := s.nextId
  let s1 := { s with nextId := id + 1 }.modCore x.c (fun k => { k with vmems := k.vmems ++ [{ m with id := id, slot := x.n, space := sl.space, pc := x.pc, popped := x.popped }] })
  let s2 := (s.groups x.c sl.space kind.use es).foldl (fun (s : State) g =>
    let e := g.2.2.headD { k := 0, va := 0, loc := .pad 0 0, n := 1, dat := 0 }
    s.send { id := s.nextId, kind := kind, core := x.c, slot := x.n, taskw := sl.taskw, space := sl.space, home := g.1,
             pc := x.pc, va := e.va, loc := e.loc, n := e.n, elems := g.2.2, par := id }) s1
  .ok (s2.leave x.c x.n [.vector id])

/-! ### Decoding (R147, R149, R152) -/

/-- q and S of the block of QC4 element `i` whose scale frame is at `frame` (R150). -/
def State.qc4Scale (s : State) (space i frame : Nat) : Nat × Nat :=
  let l (off : Nat) : Loc := .dram (frame / 2 ^ 48) (frame % 2 ^ 48 + i / 16384 * 512 + off)
  (s.readNum space (l (i / 64 % 256)) 1, s.readNum space (l 256) 4)

/-- The poison tag of the words of a scale frame that an element's decoding reads (R221). -/
def State.qc4Tag (s : State) (i frame : Nat) : Nat :=
  let l (off : Nat) : Nat := keyOf (.dram (frame / 2 ^ 48) (frame % 2 ^ 48 + i / 16384 * 512 + off))
  lowTag (s.tagOf (l (i / 64 % 256)) 1) (s.tagOf (l 256) 4)

/-- The value of an element of a page format other than QC4. -/
def pageVal (fmt dat : Nat) : FVal :=
  if fmt = 2 then decodeE4M3 dat else if fmt = 3 then decodeE5M2 dat else if fmt = 4 then fdecode bf16 dat
  else if fmt = 5 then fdecode fp16 dat else fdecode fp32 dat

/-- An element of a page converted to element type `t` (R152). -/
def State.decodeElem (s : State) (m : VMem) (space : Nat) (e : Elem) : Nat × Flags :=
  let t := m.etype
  if m.fmt = 0 then (e.dat, flNone)
  else if m.fmt = 1 then
    match m.scale.find? (fun q => q.1 == e.k) with
    | some (_, i, frame) =>
      let (q, sc) := s.qc4Scale space i frame
      qc4ToF (vFmt t) m.rm (e.dat / 16 ^ (i % 2) % 16) q sc
    | none => (0, flNone)
  else if m.fmt = 7 then (if isFloat t then cvtFromInt (vFmt t) m.rm (sgnN 8 e.dat) else intE (esize t) (sgnN 8 e.dat))
  else cvtVal (vFmt t) m.rm (pageVal m.fmt e.dat)

/-- The cell of a tile that an element becomes (R200). -/
def State.decodeCell (s : State) (m : VMem) (space : Nat) (e : Elem) : Nat :=
  if m.i8 then e.dat % 256
  else if m.raw then e.dat % 2 ^ 19
  else if m.fmt = 1 then
    match m.scale.find? (fun q => q.1 == e.k) with
    | some (_, i, frame) =>
      let (q, sc) := s.qc4Scale space i frame
      qc4ToX19 (e.dat / 16 ^ (i % 2) % 16) q sc
    | none => 0
  else toX19 (pageVal m.fmt e.dat)

/-! ### The end of the instruction (R168, R186, R200, R221) -/

/-- The destination of a load that writes nothing is as it was before, full or made empty by `empty` (R5, R88). -/
def State.refill (s : State) (c : Nat) (m : VMem) : State :=
  s.modCore c fun k => match m.sort with
    | 0 => k.setVreg m.dst { k.vreg m.dst with full := m.was, pend := false }
    | 1 => k.setTile m.dst { k.tile m.dst with full := true, pend := false }
    | 2 => k.setAcc m.dst { k.acc m.dst with full := true, pend := false }
    | _ => k

/-- The end with a trap: nothing is written; after a kill there is no slot to take it. -/
def State.failMem (s : State) (c : Nat) (m : VMem) (t : Trap) : State :=
  if m.dead then s.refill c m
  else (s.refill c m).lateTrap c m.slot m.pc m.popped t

/-- A vector load writes its elements, or takes FP_TRAP, which leaves its register full (R168). -/
def State.endVload (s : State) (c : Nat) (m : VMem) (space : Nat) : State :=
  let e := esize m.etype
  let (d, f) := m.got.foldl (fun (p : VData × Flags) g =>
    let (r, fl) := s.decodeElem m space g
    (setElem e p.1 (offOf e (g.k / m.cols) (g.k % m.cols)) r, p.2 ||| fl)) (((s.core c).vreg m.dst).val, flNone)
  if trapsOn f m.en then s.failMem c { m with was := true } ⟨7, 0, f.setWidth 64⟩
  else
    let s := if wholeTile (m.got.length / max 1 m.cols) m.cols e then s.mend c 1 m.dst else s
    (s.modCore c (fun k => k.setVreg m.dst { val := d })).raise c m.slot f

/-- Cells of a tile or accumulator put in place. -/
def putCells {w : Nat} (cells : SMap (BitVec w)) (xs : List (Nat × Nat)) : SMap (BitVec w) :=
  xs.foldl (fun cs p => tabPut cs p.1 (BitVec.ofNat w p.2)) cells

def cellAt (cols k : Nat) : Nat := k / cols * 64 + k % cols

def State.endTload (s : State) (c : Nat) (m : VMem) (space : Nat) : State :=
  let xs := m.got.map (fun g => (cellAt m.cols g.k, s.decodeCell m space g))
  let s := if xs.length = 4096 then s.mend c 2 m.dst else s
  s.modCore c fun k => k.setTile m.dst { cells := putCells (k.tile m.dst).cells xs }

def State.endAload (s : State) (c : Nat) (m : VMem) : State :=
  let xs := m.got.map (fun g => (cellAt m.cols g.k, g.dat))
  (s.mend c 3 m.dst).modCore c fun k => k.setAcc m.dst { k.acc m.dst with cells := putCells (k.acc m.dst).cells xs, full := true, pend := false }

/-- All requests of an instruction are complete. After a kill, what goes into tiles and accumulators stands (R192), and
what was bound for the slot's window is discarded. Where an instruction meets both a fault that only its home found (R345)
and POISON (R221), that the fault is taken is the model's choice (assumption log 71). -/
def State.endMem (s : State) (c : Nat) (m : VMem) : State :=
  let s := s.modCore c (fun k => { k with vmems := k.vmems.filter (fun (o : VMem) => o.id != m.id) })
  let tag := m.scale.foldl (fun t q => lowTag t (s.qc4Tag q.2.1 q.2.2)) m.poison
  if m.dead ∧ m.sort = 0 then s
  else match m.trap with
    | some t => s.failMem c m t
    | none =>
      if tag ≠ 0 then s.failMem c m ⟨0x12, 0, BitVec.ofNat 64 tag⟩
      else match m.sort with
        | 0 => s.endVload c m m.space
        | 1 => s.endTload c m m.space
        | 2 => s.endAload c m
        | _ => s

/-- The place of a home's fault in the order of R170: its cause, then its lowest element. -/
def Access.rank (a : Access) (t : Trap) : Nat :=
  (t.cause - 9) * 8192 + ((a.elems.find? (fun e => decide (BitVec.ofNat 64 e.va = t.val))).map (·.k)).getD 0

/-- The fault of an instruction with one more home's answer: the first in the order of R170. -/
def VMem.join (m : VMem) (a : Access) : VMem :=
  match m.trap, a.reply.trap with
  | none, some t => { m with trap := some t, rank := a.rank t }
  | some _, some t => if a.rank t < m.rank then { m with trap := some t, rank := a.rank t } else m
  | _, none => m

/-- The reply of one request reaches its instruction. -/
def State.memPart (s : State) (a : Access) : State :=
  let c := a.core
  match (s.core c).vmems.find? (fun (o : VMem) => o.id == a.par) with
  | none => s
  | some m =>
    let m := { m.join a with got := m.got ++ a.reply.elems
                             poison := lowTag m.poison (if a.reply.poison then a.reply.tag.toNat else 0) }
    if s.net.any (fun b => b.core == c && b.par == a.par && b.slot == a.slot) then
      s.modCore c (fun k => { k with vmems := k.vmems.map (fun (o : VMem) => if o.id = m.id then m else o) })
    else s.endMem c m

end Sys2Proof.Machine
end

