-- ==== Sys2Proof/Machine/Control.lean ====
section
/-! DEFINITION. Control transfer, the end of a task, predicates, full/empty tests and control registers
(R82 to R92, R32 to R35, R129, R132, R155, R191, R262, R283), and fences (R105). -/

namespace Sys2Proof.Machine

/-! ### Transfers (R42, R47, R82, R83) -/

def setPc (x : Ctx) (t : BitVec 56) (s : State) : Res := .ok (s.modSlot x.c x.n (fun sl => { sl with pc := t }))

/-- The target of a relative transfer: its own address plus the offset in words (R42). -/
def relTarget (x : Ctx) : BitVec 56 :=
  match x.o.lit with
  | some l => x.pc + (l.signExtend 56) * 4
  | none => x.pc + (x.o.fn.signExtend 56) * 4

/-- The target of a compact branch: b holds the high half of its offset, fn5 the low half (R47). -/
def compactTarget (x : Ctx) : BitVec 56 :=
  x.pc + (((x.o.b.setWidth 5 : BitVec 5) ++ (x.o.fn.setWidth 5 : BitVec 5)).signExtend 56) * 4

/-- PC + length, the link of a call. -/
def linkOf (x : Ctx) : Word := (x.pc + BitVec.ofNat 56 x.len).setWidth 64

/-- The target of an indirect transfer must be a multiple of 4 (R82). -/
def indirect (v : Vals) (k : BitVec 56 → Res) : Res :=
  let t := v.a + v.b
  if bitsN t 0 2 ≠ 0 then .trap 8 0 t else k (t.setWidth 56)

def brBody (x : Ctx) (_ : Vals) (s : State) : Res := setPc x (relTarget x) s
def brCompactBody (x : Ctx) (_ : Vals) (s : State) : Res := setPc x (compactTarget x) s
def jmpBody (x : Ctx) (v : Vals) (s : State) : Res := indirect v (fun t => setPc x t s)
def callBody (x : Ctx) (_ : Vals) (s : State) : Res := (writeD x (linkOf x) s).andThen (setPc x (relTarget x))
def callrBody (x : Ctx) (v : Vals) (s : State) : Res :=
  indirect v (fun t => (writeD x (linkOf x) s).andThen (setPc x t))

/-- `loop`: decrement, and branch back over the fn words before it while the count is above 1. The table of R42 gives
the offset of a `loop` body as SignExtend(fn[13:0]) x 4; R83, which the model follows, gives PC - 4 x fn[13:0] with fn
from 1 to 16,383 (assumption log 48). -/
def loopBody (x : Ctx) (v : Vals) (s : State) : Res :=
  if 1 < v.a.toNat then (writeD x (v.a - 1) s).andThen (setPc x (x.pc - (x.o.fn.setWidth 56) * 4))
  else writeD x 0 s

def execBrCompact (k : Compact) (s : State) : Out := runCompact 0x1B {} k brCompactBody s
def execBr (o : Opnd) (s : State) : Out := runLong 0x30 { lit := .off } o brBody s
def execJmp (o : Opnd) (s : State) : Out := runLong 0x31 { a := .src, b := .src, lit := .int } o jmpBody s
def execCall (o : Opnd) (s : State) : Out := runLong 0x32 { d := .dregz, lit := .off } o callBody s
def execCallr (o : Opnd) (s : State) : Out := runLong 0x33 { d := .dregz, a := .src, b := .src, lit := .int } o callrBody s
def execLoop (o : Opnd) (s : State) : Out := runLong 0x34 { d := .dreg, a := .src } o loopBody s

/-! ### The end of a task (R84) -/

/-- The slot's vector and matrix instructions still outstanding (R169, R192). -/
def State.unitsBusy (s : State) (c n : Nat) : List Wait :=
  (if s.waitOver c n .vectorIdle then [] else [.vectorIdle]) ++ (if s.waitOver c n .unitIdle then [] else [.unitIdle])

/-- The haulage task's end removes its core's subscriptions (R260). -/
def State.dropSubs (s : State) (c : Nat) : State :=
  (s.modCore c (fun k => { k with subs := [], deliver := [] })).modDev (devOf c)
    (fun v => { v with members := v.members.filter (fun m => m.core != c) })

/-- What a task leaves behind on its core: claims, chain entries, streams and bookings end (R84, R136, R240,
R258, R260). -/
def State.leaveCore (s : State) (c n : Nat) : State :=
  let sl := s.slot c n
  let s := ((s.modCore c (fun k => ((k.dropClaims n).closeChains sl.task).dropStreams n)).wakeJobs c).nextAt (.claims c)
  if n = 63 && sl.haulage then s.dropSubs c else s

/-- The task of a slot completes with a status, which is recorded (assumption log 11); a LEVEL block's step ends (R84,
R299, R306, R313). -/
def State.completeTask (s : State) (c n : Nat) (status : BitVec 32) : State :=
  let sl := s.slot c n
  let d := devOf c
  let s := (s.leaveCore c n).modDev d (fun v => { v with exits := v.exits ++ [(bitsN sl.taskw 0 50, status)] })
  match s.taskRec d sl.task with
  | none => s.vacate c n
  | some r =>
    let s := ((s.freeArea d r).delTask d sl.task).vacate c n
    let s := if sl.paired then s.vacate c (n / 2 * 2 + 1) else s
    let s := if (s.gnode d r.graph r.node).kind = 2 then s.endBlock d r.graph r.node (r.num % 65536) else s
    s.afterEnd d r

/-- `exit`: once every access is complete the task ends with status A[31:0]; in the handler slot the user handler ends
and the status is discarded (R84, R125). -/
def exitBody (x : Ctx) (v : Vals) (s : State) : Res :=
  if !s.drained x.c x.n then .wait [.drain]
  else match s.unitsBusy x.c x.n with
    | w :: ws => .wait (w :: ws)
    | [] => if x.n = 62 then .ok (s.endHandler x.c) else .ok (s.completeTask x.c x.n (v.a.setWidth 32))

def execExit (o : Opnd) (s : State) : Out := runShared 0x35 (.effect false) { a := .src } o (.exit o) exitBody s

/-! ### Traps and predicates (R85 to R87) -/

def trapBody (x : Ctx) (_ : Vals) (_ : State) : Res := .trap 0x13 0 (x.o.fn.setWidth 64)
def nopBody (_ : Ctx) (_ : Vals) (s : State) : Res := .ok s

/-- The truth table in fn[3:0] over two predicates (R86). -/
def plogBody (x : Ctx) (_ : Vals) (s : State) : Res :=
  let sl := s.slot x.c x.n
  writeP x (bit x.o.fn (2 * b2n (sl.pred (x.o.a.toNat % 8)) + b2n (sl.pred (x.o.b.toNat % 8)))) s

/-- The predicate word as it reads: p0 is 1, [63:16] zero (R18). -/
def Slot.predWord (sl : Slot) : Word := (sl.preds &&& 0xFFFE) ||| 1

def pmovReadWordBody (x : Ctx) (_ : Vals) (s : State) : Res := writeD x (s.slot x.c x.n).predWord s

/-- Writing the predicate word: [15:1] of A; a reserved rounding mode takes ILLEGAL (R19, R87). -/
def pmovWriteWordBody (x : Ctx) (v : Vals) (s : State) : Res :=
  if 4 ≤ bitsN v.a 8 3 then .trap 1 5 v.a
  else .ok (s.modSlot x.c x.n (fun sl => { sl with preds := (v.a &&& 0xFFFE) ||| 1 }))
def pmovReadPredBody (x : Ctx) (_ : Vals) (s : State) : Res :=
  writeD x (BitVec.ofNat 64 (b2n ((s.slot x.c x.n).pred (x.o.a.toNat % 8)))) s
def pmovWritePredBody (x : Ctx) (v : Vals) (s : State) : Res := writeP x (decide (v.a ≠ 0)) s

def execTrap (o : Opnd) (s : State) : Out := runLong 0x36 {} o trapBody s
def execNop (o : Opnd) (s : State) : Out := runLong 0x37 {} o nopBody s
def execPlog (o : Opnd) (s : State) : Out := runLong 0x38 { d := .pdst, a := .psrc, b := .psrc } o plogBody s
def execPmovReadWord (o : Opnd) (s : State) : Out := runLong 0x39 { d := .dst } o pmovReadWordBody s
def execPmovWriteWord (o : Opnd) (s : State) : Out := runLong 0x39 { a := .src } o pmovWriteWordBody s
def execPmovReadPred (o : Opnd) (s : State) : Out := runLong 0x39 { d := .dst, a := .psrc } o pmovReadPredBody s
def execPmovWritePred (o : Opnd) (s : State) : Out := runLong 0x39 { d := .pdst, a := .src } o pmovWritePredBody s

/-! ### Full and empty (R88, R89) -/

/-- A register becomes empty; its value, poison and tag stay (R88). -/
def emptyBody (x : Ctx) (_ : Vals) (s : State) : Res :=
  let sl := s.slot x.c x.n
  if bitN x.o.fn.toNat 0 then
    let v := sl.vent (x.o.d.toNat % 32)
    .ok (s.modCore x.c (fun k => k.setVreg v { k.vreg v with full := false }))
  else
    let e := sl.ent x.o.d.toNat
    .ok (s.modCore x.c (fun k => k.setEntry e { k.entry e with full := false }))

/-- What `fetest` finds of a register or port (R89). Of a port, `.psn` tests the entry that a pop would find, and gives
0 for an empty port and for `zero`; a port that the slot may not pop, a mailbox outside the haulage slot or a stream that is
unbound, outbound or another slot's, is tested as any other and takes no trap: both are the model's choice (assumption log
49). -/
def testField (s : State) (c n : Nat) (sl : Slot) (fn spec : Nat) : Bool :=
  let k := s.core c
  if bitN fn 0 then (let (c', v) := vecAt s c n spec; ((s.core c').vreg v).full)
  else if bitN fn 1 then
    (if spec < 128 then (k.entry (sl.ent spec)).poison
     else popping spec && decide (0 < k.avail n spec) && (k.front n spec).poison)
  else if spec < 128 then (k.entry (sl.ent spec)).full
  else !popping spec || decide (0 < k.avail n spec)

def fetestBody (x : Ctx) (_ : Vals) (s : State) : Res :=
  let t := testField s x.c x.n (s.slot x.c x.n) x.o.fn.toNat x.o.a.toNat
  if 128 ≤ x.o.a.toNat then giveP x t s else writeP x t s

def execEmpty (o : Opnd) (s : State) : Out :=
  runLong 0x3A (if bitN o.fn.toNat 0 then { d := .vdst } else { d := .dreg }) o emptyBody s
def execFetest (o : Opnd) (s : State) : Out :=
  runShared 0x3B (if 128 ≤ o.a.toNat then .value else .inner)
    (if bitN o.fn.toNat 0 then { d := .pdst, a := .vtst } else { d := .pdst, a := .tst }) o (.fetest o) fetestBody s

/-! ### Control registers (R32 to R35, R90) -/

/-- %flags: trap enables in [12:8], flags in [4:0] (R32). -/
def Slot.flagsWord (sl : Slot) : Word := sl.trapEn.setWidth 64 <<< 8 ||| sl.flags.setWidth 64

/-- %regs (R33). -/
def Slot.regsWord (sl : Slot) : Word :=
  BitVec.ofNat 64 (sl.vbase * 2 ^ 40 + sl.vcount * 2 ^ 32 + sl.sbase * 2 ^ 16 + sl.scount)

/-- %runqcfg: filled entries of each priority (R129). -/
def Core.runqWord (k : Core) : Word :=
  BitVec.ofNat 64 ((k.port 160).length + (k.port 161).length * 2 ^ 8 + (k.port 162).length * 2 ^ 16 + (k.port 163).length * 2 ^ 24)

/-- %semcfg: semaphores with waiters, and with a count above 0 (R132). -/
def Core.semWord (k : Core) : Word :=
  BitVec.ofNat 64 ((rangeFrom 0 16).foldl (fun w i =>
    w + b2n (decide ((k.sem i).waiters ≠ [])) * 2 ^ (48 + i) + b2n (decide (0 < (k.sem i).count)) * 2 ^ (32 + i)) 0)

/-- %trace (R262). -/
def Core.traceWord (k : Core) : Word :=
  k.traceSeq.setWidth 64 <<< 32 ||| BitVec.ofNat 64 (b2n k.traceWrap * 2 + b2n k.traceEn)

/-- A control register as slot `n` of core `c` reads it (R32, R90). -/
def State.ctlValue (s : State) (c n num : Nat) : Word :=
  let sl := s.slot c n
  let k := s.core c
  match num with
  | 0x000 => BitVec.ofNat 64 sl.rm
  | 0x001 => sl.flagsWord
  | 0x002 => sl.tvec
  | 0x003 => sl.tcause
  | 0x004 => sl.tepc
  | 0x005 => sl.tval
  | 0x006 => if n = 62 then sl.timer else sl.timerAt (s.now c)
  | 0x007 => sl.vshape
  | 0x008 => BitVec.ofNat 64 (if sl.paired then n / 2 * 2 else n)
  | 0x009 => sl.regsWord
  | 0x00A => BitVec.ofNat 64 (b2n sl.hmode)
  | 0x00B => sl.taskw
  | 0x00C => BitVec.ofNat 64 (s.coreId c)
  | 0x00D => BitVec.ofNat 64 (s.now c)
  | 0x00E => sl.savearea
  | 0x110 => (tabGet 0 ((s.dv (devOf c)).landOver (quadOf c) (s.now c)).qflags (quadOf c)).setWidth 64
  | 0x111 => k.traceWord
  | 0x112 => k.runqWord
  | 0x113 => k.semWord
  | 0x300 => BitVec.ofNat 64 (sl.space % 2048)
  | _ => k.tcfgAt (num % 16)

def ctlReadBody (x : Ctx) (_ : Vals) (s : State) : Res :=
  let num := fld x.o.fn.toNat 0 12
  let v := s.ctlValue x.c x.n num
  if 0x100 ≤ num then giveD x v s else writeD x v s

/-- The slot registers that a write only stores, reserved bits reading zero (R4, R18, R32); a reserved
rounding mode takes ILLEGAL (R19). -/
def ctlWriteBody (x : Ctx) (v : Vals) (s : State) : Res :=
  let a := v.a
  let put (f : Slot → Slot) : Res := .ok (s.modSlot x.c x.n f)
  match fld x.o.fn.toNat 0 12 with
  | 0x000 => if 4 ≤ bitsN a 0 3 then .trap 1 5 a else put (fun sl => { sl with preds := putBits sl.preds 8 3 (bitsN a 0 3) })
  | 0x001 => put (fun sl => { sl with preds := putBits sl.preds 11 5 (bitsN a 0 5), trapEn := BitVec.ofNat 5 (bitsN a 8 5) })
  | 0x002 => put (fun sl => { sl with tvec := a &&& ~~~3 })
  | 0x003 => put (fun sl => { sl with tcause := a &&& 0xFFFF })
  | 0x004 => put (fun sl => { sl with tepc := a &&& ~~~3 })
  | 0x005 => put (fun sl => { sl with tval := a })
  | 0x00B => put (fun sl => { sl with taskw := putBits sl.taskw 56 8 (bitsN a 56 8) })
  | _ => put (fun sl => { sl with savearea := a &&& 0x00FFFFFFFFFFF000 })

/-- Arming or disarming the timer; in a pair it takes ILLEGAL (R35, R216). -/
def timerArmBody (x : Ctx) (v : Vals) (s : State) : Res :=
  if (s.slot x.c x.n).paired then .trap 1 5 v.a
  else .ok (s.modSlot x.c x.n (fun sl => { sl with timer := v.a, timerFrom := s.now x.c + 1, timerHit := false }))

/-- A write of %mode: H = 0 leaves handler mode (R34). -/
def modeWriteBody (x : Ctx) (v : Vals) (s : State) : Res :=
  .ok (s.modSlot x.c x.n (fun sl =>
    { sl with hmode := bit v.a 0, timerFrom := if bit v.a 0 then sl.timerFrom else s.now x.c + 1 }))

/-- A write of %vshape: rows 1 to 8, columns 1 to 64 (R33). -/
def vshapeWriteBody (x : Ctx) (v : Vals) (s : State) : Res :=
  let rows := bitsN v.a 0 4
  let cols := bitsN v.a 8 7
  if rows = 0 ∨ 8 < rows ∨ cols = 0 ∨ 64 < cols then .trap 1 5 v.a
  else .ok (s.modSlot x.c x.n (fun sl => { sl with vshape := BitVec.ofNat 64 (cols * 256 + rows) }))

/-- A write of %tcfg stores KIND, COLS and ROWS (R190, R191). -/
def tcfgWriteBody (x : Ctx) (v : Vals) (s : State) : Res :=
  .ok (s.modCore x.c (fun k => { k with tcfg := tabPut k.tcfg (fld x.o.fn.toNat 0 4) (v.a &&& 0x17F7F) }))

/-- A flush empties the priorities named; values that wait then take their places (R129). -/
def runqFlushBody (x : Ctx) (v : Vals) (s : State) : Res :=
  .ok ((s.modCore x.c (fun k => (rangeFrom 0 4).foldl (fun k i => if bit v.a (32 + i) then k.setPort (runqKey i) [] else k) k)).later
    (.runqDeferredPlace x.c))

/-- Hand units to waiters while there are both (R130, R132): the slot's wait is over and its pc is past the
`sem`. -/
def State.handUnits (s : State) (c m : Nat) : Nat → State
  | 0 => s
  | f + 1 =>
    let x := (s.core c).sem m
    match x.waiters with
    | [] => s
    | w :: r => if x.count = 0 then s
      else
        let s := s.modCore c (fun k => k.setSem m { count := x.count - 1, waiters := r })
        ((s.modSlot c w (fun sl => { sl with run := .out [.over], pc := sl.pc + 8 })).lvqPut c w { val := 0 }).handUnits c m f

/-- A write of %semcfg sets a count and hands units out (R132). -/
def semcfgWriteBody (x : Ctx) (v : Vals) (s : State) : Res :=
  let m := bitsN v.a 0 4
  .ok ((s.modCore x.c (fun k => k.setSem m { k.sem m with count := bitsN v.a 16 16 })).handUnits x.c m 64)

/-- A write of %trace: turning EN on sets SEQ and WRAP to 0; WRAP is cleared by writing 1 (R262). -/
def traceWriteBody (x : Ctx) (v : Vals) (s : State) : Res :=
  .ok (s.modCore x.c (fun k =>
    if bit v.a 0 && !k.traceEn then { k with traceEn := true, traceWrap := false, traceSeq := 0, traceNew := 0 }
    else { k with traceEn := bit v.a 0, traceWrap := k.traceWrap && !bit v.a 1,
                  traceNew := if bit v.a 1 then 0 else k.traceNew }))

/-- A write of %qflags clears the flags written as 1, in the cycle of its turn (R155). -/
def qflagsClearBody (x : Ctx) (v : Vals) (s : State) : Res :=
  .ok (s.modDev (devOf x.c) (fun d => d.clearFlags (quadOf x.c) (v.a.setWidth 5) (s.now x.c)))

/-- The fields of a control-register write. -/
def dscCtl : Desc := { a := .sreg }

def execCtlRead (o : Opnd) (s : State) : Out :=
  runShared 0x3C (if 0x100 ≤ fld o.fn.toNat 0 12 then .value else .inner) { d := .dregz } o (.ctlRead o) ctlReadBody s
def execCtlWrite (o : Opnd) (s : State) : Out := runLong 0x3C dscCtl o ctlWriteBody s
def execTimerArm (o : Opnd) (s : State) : Out := runLong 0x3C dscCtl o timerArmBody s
def execModeWrite (o : Opnd) (s : State) : Out := runLong 0x3C { a := .sreg, role := .handlerMode } o modeWriteBody s
def execVshapeWrite (o : Opnd) (s : State) : Out := runLong 0x3C dscCtl o vshapeWriteBody s
def execTcfgWrite (o : Opnd) (s : State) : Out := runLong 0x3C { a := .sreg, role := .matrix } o tcfgWriteBody s
def execRunqFlush (o : Opnd) (s : State) : Out := runShared 0x3C (.effect false) dscCtl o (.runqFlush o) runqFlushBody s
def execSemcfgWrite (o : Opnd) (s : State) : Out := runShared 0x3C (.effect false) dscCtl o (.semcfgWrite o) semcfgWriteBody s
def execTraceWrite (o : Opnd) (s : State) : Out := runShared 0x3C (.effect false) dscCtl o (.traceWrite o) traceWriteBody s
def execQflagsClear (o : Opnd) (s : State) : Out := runShared 0x3C (.effect false) dscCtl o (.qflagsClear o) qflagsClearBody s

/-- `eret`: back to %tepc, H cleared (R91). -/
def eretBody (x : Ctx) (_ : Vals) (s : State) : Res := .ok (s.trapReturn x.c x.n)

/-- `beat` restarts the interval of a task of a PERSISTENT node (R92, R304). -/
def beatBody (x : Ctx) (_ : Vals) (s : State) : Res :=
  let sl := s.slot x.c x.n
  match s.taskRec (devOf x.c) sl.task with
  | some r => if (s.gnode (devOf x.c) r.graph r.node).kind = 1 then
      .ok (s.modSlot x.c x.n (fun sl => { sl with dogFrom := s.now x.c, dogRan := 0 })) else .ok s
  | none => .ok s

def execEret (o : Opnd) (s : State) : Out := runLong 0x3D { role := .handlerMode } o eretBody s
def execBeat (o : Opnd) (s : State) : Out := runLong 0x3F {} o beatBody s

/-- Flags raised on their way to a quadrant's register reach it (R155). -/
def execQflagsRaise (d idx : Nat) (s : State) : Out :=
  match (s.dv d).raises[idx]? with
  | none => .next s
  | some (q, f, t) => .next (s.modDev d (fun v => { v with raises := v.raises.eraseIdx idx }.land q f t))

end Sys2Proof.Machine
end

