-- ==== Sys2Proof/Machine/Claims.lean ====
section
/-! DEFINITION. Claims: minting, delivery, withdrawal and expiry (R106 to R110, R118). -/

namespace Sys2Proof.Machine

/-! ### Accesses whose home is a unit of a core (R95, R101, R138) -/

/-- An access whose home is a table of core `hc`: served at once on the own core, else sent. -/
def issueHome (x : Ctx) (r : Req) (h : Home) (hc : Nat) (serve : Access → State → State × Reply) (s : State) : Res :=
  let here := decide (hc = x.c)
  match s.issueWaits x.c x.n h (.pad 0 0) here r with
  | w :: ws => .wait (w :: ws)
  | [] =>
    if r.book ∧ 8 ≤ (s.slot x.c x.n).sysUse then .wait [.book x.n]
    else if here then
      let s := if r.book then s.modSlot x.c x.n (fun sl => { sl with booked := sl.booked + 1 }) else s
      let (s', rep) := serve (accessOf x s r h (.pad 0 0)) s
      replyNow x r rep s'
    else issueRemote x r h (.pad 0 0) s

/-! ### Save-area words of registers (R118) -/

/-- Write `n` bytes at a virtual address; a write that fails translation or permission is dropped. -/
def State.vputN (s : State) (d space va n v : Nat) : State :=
  match s.placeAt d space va .store with
  | .at (.dram d' pa) _ => (s.writeNum space (.dram d' pa) n v).mirror space (.dram d' pa) n
  | _ => s.noteAt d space va

/-- The metadata of a saved register. -/
def areaMeta (full poison claimed : Bool) (tag : Nat) : Nat :=
  b2n full * 2 ^ 15 + b2n poison * 2 ^ 14 + b2n claimed * 2 ^ 13 + tag % 4096

/-! ### The minting table -/

/-- A claim name (R106). -/
def claimName (c i : Nat) (gen : BitVec 16) : Word :=
  BitVec.ofNat 64 (devOf c * 2 ^ 58 + cidOf c * 2 ^ 49 + i * 2 ^ 41 + gen.toNat * 2 ^ 25)

/-- A claim ends: its entry is invalid and its generation advances (R110). -/
def Core.endClaim (k : Core) (i : Nat) : Core :=
  k.setClaim i { k.claim i with valid := false, gen := (k.claim i).gen + 1 }

/-- Fill the register that a claim binds; in a pair the trailing slot's register too (R108, R217). -/
def State.fillClaim (s : State) (c i : Nat) (v : Word) (po : Bool) (tag : BitVec 12) : State :=
  let k := s.core c
  let e := k.claim i
  let s1 := s.modCore c (fun k => k.endClaim i)
  match e.saved with
  | some (space, area, r) =>
    let d := devOf c
    let s2 := if po then s1 else s1.vputN d space (area + 0x500 + 8 * r) 8 v.toNat
    s2.vputN d space (area + 0x900 + 2 * r) 2 (areaMeta true po false tag.toNat)
  | none =>
    let s2 := s1.fillReg c e.reg v po tag
    if (k.slot e.slot).paired then
      let name := claimName c i e.gen
      let p := k.pair (e.slot / 2)
      if p.bound.contains name then
        let t := e.reg - (k.slot e.slot).sbase + (k.slot (e.slot + 1)).sbase
        (s2.modCore c (fun k => k.setPair (e.slot / 2) { p with bound := p.bound.filter (fun x => x != name) })).fillReg
          c t v po tag
      else s2.modCore c (fun k => k.setPair (e.slot / 2)
        { p with given := p.given ++ [(name, { val := v, poison := po, tag := tag })] })
    else s2

/-- `claim`: bind the lowest invalid entry to register c (R107). -/
def claimBody (x : Ctx) (_ : Vals) (s : State) : Res :=
  let k := s.core x.c
  let e := (k.slot x.n).ent x.o.c.toNat
  if x.o.c = x.o.d then .trap 1 5 (x.o.c.setWidth 64)
  else if (k.entry e).pend then .wait [.regFree e]
  else match firstFrom (fun i => !(k.claim i).valid) 0 256 with
    | none => .trap 0x0E 0 0
    | some i =>
      let cls := fld x.fn 0 2
      let until' := if cls = 3 then none else some (s.now x.c + 2 ^ (16 + 4 * cls))
      let cl : Claim := { valid := true, gen := (k.claim i).gen, slot := x.n, reg := e, deadline := until' }
      giveD x (claimName x.c i cl.gen) (s.modCore x.c (fun k => (k.setClaim i cl).pendEntry e))

/-- A claim's deadline, at cycle `t`, has passed: its register is filled poisoned with the tag of a record (R110,
R287). -/
def State.expireClaim (s : State) (c i t : Nat) : State :=
  let e := (s.core c).claim i
  let space := match e.saved with
    | some (sp, _, _) => sp
    | none => (s.slot c e.slot).space
  let (tag, s) := s.logErr (devOf c) clsClaim space none 0 t (s.coreId c)
  let (v, s) := s.freeVal
  s.fillClaim c i v true (BitVec.ofNat 12 tag)

/-- A claim whose deadline is at or before cycle `t` has expired by then (R110). -/
def State.claimAt (s : State) (c i t : Nat) : State :=
  let e := (s.core c).claim i
  match e.deadline with
  | some d => if e.valid && decide (d ≤ t) then s.expireClaim c i d else s
  | none => s

/-- Every claim of a core whose deadline is at or before cycle `t` has expired. -/
def State.claimsAt (s : State) (c t : Nat) : State := (s.core c).claims.foldl (fun s p => s.claimAt c p.1 t) s

/-- What `dlv`, `send` or `kick` to a device that cannot be reached leaves: a record of class CASRIS with VADDR set
(R345). -/
def State.unreached (s : State) (a : Access) : State :=
  (s.logErr (devOf a.core) clsCasris a.space none (BitVec.ofNat 64 a.va) (s.now a.core) (s.coreId a.core)).2

/-- A delivery at its claim table, at the table's cycle (R108, R110); one to a device that cannot be reached is refused
(R345). -/
def serveClaim (a : Access) (s : State) : State × Reply :=
  let name := BitVec.ofNat 64 a.va
  let c := coreOf name
  let i := bitsN name 41 8
  let near := s.reach (devOf a.core) (devOf c)
  let s := if near then s.claimAt c i (s.now c) else s.unreached a
  let e := (s.core c).claim i
  if near && decide (bitsN name 0 25 = 0) && e.valid && decide (e.gen.toNat = bitsN name 25 16) then
    (s.fillClaim c i a.val false 0, {})
  else (s, if a.relaxed then { refused := true } else { trap := some ⟨0x0D, 0, name⟩ })

/-- What a relaxed `dlv` leaves in its slot's message queue: CLAIM_REFUSED, or nothing (R108, R136). -/
def State.dlvMessage (s : State) (c n : Nat) (name : Word) (refused : Bool) : State :=
  if refused then s.sysMsg c n (BitVec.ofNat 64 (0x0003 * 2 ^ 48 + bitsN name 25 39)) else s.unbook c n

/-- A local delivery is complete within the turn (R95). -/
def serveDlvHere (x : Ctx) (a : Access) (s : State) : State × Reply :=
  let (s, r) := serveClaim a s
  (if a.relaxed then s.dlvMessage x.c x.n (BitVec.ofNat 64 a.va) r.refused else s, r)

/-- The claim table of a core serves no delivery to a claim: the slot that minted it is the one that the core's spill
engine is saving (R117). -/
def State.heldClaim (s : State) (name : Word) : Bool :=
  let k := s.core (coreOf name)
  let e := k.claim (bitsN name 41 8)
  e.valid && e.saved.isNone && decide (k.spilling = some e.slot)

/-- A delivery to the own core that its claim table does not serve yet waits in the table's FIFO (R117); a user handler,
which has no access outstanding, tries again in the next round. -/
def dlvBody (x : Ctx) (v : Vals) (s : State) : Res :=
  let hc := coreOf v.a
  let r : Req := { kind := .dlv, n := 0, addr := v.a, val := v.b, rlx := x.o.rlx, fenced := true, book := x.o.rlx }
  if hc = x.c ∧ s.heldClaim v.a then
    match s.issueWaits x.c x.n (.claims hc) (.pad 0 0) false r with
    | w :: ws => .wait (w :: ws)
    | [] => if x.n = 62 ∧ !r.rlx then .wait [.over]
      else if r.book ∧ 8 ≤ (s.slot x.c x.n).sysUse then .wait [.book x.n] else issueRemote x r (.claims hc) (.pad 0 0) s
  else issueHome x r (.claims hc) hc (serveDlvHere x) s

/-- `cdrop` destroys a claim of this slot that is still valid (R109, R110). A claim of a task that is spilled is no claim of
`this slot' to a later task with its slot number, which is the model's choice (assumption log 71). -/
def cdropBody (x : Ctx) (v : Vals) (s : State) : Res :=
  let i := bitsN v.a 41 8
  match s.issueWaits x.c x.n (.claims x.c) (.pad 0 0) true { kind := .dlv, n := 0, addr := v.a } with
  | w :: ws => .wait (w :: ws)
  | [] =>
    let s := s.claimAt x.c i (s.now x.c)
    let e := (s.core x.c).claim i
    if coreOf v.a = x.c ∧ e.valid ∧ e.gen.toNat = bitsN v.a 25 16 ∧ e.slot = x.n ∧ e.saved = none then
      giveP x true (s.fillClaim x.c i 0 false 0)
    else giveP x false s

def execClaim (o : Opnd) (s : State) : Out := runShared 0x50 .value { d := .dst, c := .creg } o (.claim o) claimBody s
def execDlv (o : Opnd) (s : State) : Out :=
  runShared 0x51 (.effect false) { a := .src, b := .src, lit := .int, rlx := true, far := .name } o (.dlv o) dlvBody s
def execCdrop (o : Opnd) (s : State) : Out := runShared 0x52 .value { d := .pdst, a := .src } o (.cdrop o) cdropBody s

/-! ### Events -/

/-- A claim table serves the delivery at the head of its FIFO; one to a claim of a slot that is being spilled
waits (R108, R117). -/
def execClaimDelivery (id : Nat) (s : State) : Out :=
  match s.atHead id with
  | none => .next s
  | some a =>
    if a.kind ≠ .dlv ∨ s.heldClaim (BitVec.ofNat 64 a.va) then .next s
    else
      let (s, r) := serveClaim a s
      .next (s.answer a r)

/-- A claim's deadline passes. -/
def execClaimExpiry (c i : Nat) (s : State) : Out := .next (s.claimAt c i (s.now c))

end Sys2Proof.Machine
end

