-- ==== Sys2Proof/Machine/Tokens.lean ====
section
/-! DEFINITION. Dependency tokens: `stt`, `stw`, `tokq`, the token tables and the hold queues (R349 to R356). -/

namespace Sys2Proof.Machine

def State.token (s : State) (d i : Nat) : Token := tabGet {} (s.dv d).tokens i
def State.setToken (s : State) (d i : Nat) (t : Token) : State := s.modDev d (fun v => { v with tokens := tabPut v.tokens i t })

/-- The next FREE entry of a token table after the one minted last (R349). -/
def State.nextToken (s : State) (d : Nat) : Option Nat :=
  let last := (s.dv d).lastMint
  (firstFrom (fun k => decide ((s.token d ((last + k) % 16384)).st = .free)) 1 16384).map (fun k => (last + k) % 16384)

/-- The token of an entry (R349). -/
def tokenWord (d i : Nat) (gen : BitVec 12) : Word := BitVec.ofNat 64 (d * 2 ^ 26 + i * 2 ^ 12 + gen.toNat)

/-- Mint entry `i` at cycle `t` (R351). -/
def State.mint (s : State) (d i t : Nat) : State :=
  (s.setToken d i { s.token d i with st := .inflight, deadline := t + 2 ^ 24, waiting := [] }).modDev d
    (fun v => { v with lastMint := i })

/-- `stt`: the checks, then the wait for an entry, then mint and store (R351). -/
def sttBody (x : Ctx) (v : Vals) (s : State) : Res :=
  let d := devOf x.c
  let req (tok : Word) : Req :=
    { kind := .stt, n := x.msize, addr := v.a + v.b, val := v.c, aux := tok, dst := if x.o.rlx then none else some x.o.d.toNat,
      rlx := x.o.rlx, fenced := true, noPci := true }
  match s.nextToken d with
  | none => (issueMem x (req 0) s).andThen (fun _ => .wait [.tokenRoom])
  | some i =>
    let tok := tokenWord d i (s.token d i).gen
    (issueMem x (req tok) (s.mint d i (s.now x.c))).andThen (fun s' => if x.o.rlx then giveD x tok s' else .ok s')

/-- `stw`: a store that is never local and carries one or two tokens (R352). -/
def stwBody (x : Ctx) (v : Vals) (s : State) : Res :=
  let toks := if bitN x.fn 7 then [bitsN v.d 0 32, bitsN v.d 32 32] else [bitsN v.d 0 32]
  issueMem x { kind := .stw, n := x.msize, addr := v.a + v.b, val := v.c, bulk := toks, rlx := x.o.rlx, fenced := true,
               never := true, noPci := true, book := x.o.rlx } s

/-- `tokq` reads the origin's table (R353). -/
def tokqBody (x : Ctx) (v : Vals) (s : State) : Res :=
  if bitsN v.a 32 32 ≠ 0 then .trap 1 5 v.a
  else
    let r : Req := { kind := .tokq, n := 0, addr := v.a, pdst := some x.o.d.toNat }
    let h : Home := .tokens (bitsN v.a 26 6)
    match s.issueWaits x.c x.n h (.pad 0 0) false r with
    | w :: ws => .wait (w :: ws)
    | [] => issueRemote x r h (.pad 0 0) s

def execStt (o : Opnd) (s : State) : Out :=
  runShared 0x53 (.effect true) { d := .dregz, a := .src, b := .src, c := .src, lit := .int, rlx := true, far := .sum } o (.stt o) sttBody s
def execStw (o : Opnd) (s : State) : Out :=
  runShared 0x54 (.effect true) { d := .dsrcreg, a := .src, b := .src, c := .src, lit := .int, rlx := true, far := .always } o (.stw o) stwBody s
def execTokq (o : Opnd) (s : State) : Out := runShared 0x55 .value { d := .pdst, a := .src, far := .always } o (.tokq o) tokqBody s

/-- The answer of a token table to `tokq` (R353). -/
def serveTokq (a : Access) (s : State) : State × Reply :=
  let tok := BitVec.ofNat 64 a.va
  let d := bitsN tok 26 6
  let e := s.token d (bitsN tok 12 14)
  if (s.dv d).fenced || !s.reach (devOf a.core) d then (s, { trap := some ⟨0x0F, 0, tok⟩ })
  else if e.gen.toNat ≠ bitsN tok 0 12 then (s, { val := 1 })
  else match e.st with
    | .free | .landed => (s, { val := 1 })
    | .inflight => (s, { val := 0 })
    | .expired => (s, { trap := some ⟨0x0F, 0, tok⟩ })

/-! ### Holds (R352, R356) -/

/-- The die whose hold queue a home uses: device and die. -/
def holdDie : Home → Nat × Nat
  | .bank c _ | .memPort c | .claims c | .msgs c | .kicks c | .chains c => (devOf c, dieOf c)
  | .slice d n => (d, n / 16)
  | .part d die | .root d die _ => (d, die)
  | .tokens d | .host d => (d, 0)

/-- Query `w` of a hold has its answer, the first that comes; `w` is twice the hold's access and the token's place in it. -/
def State.holdAnswered (s : State) (w : Nat) (ok : Bool) : State :=
  match s.acc (w / 2) with
  | some a => if a.answers.any (fun p => p.1 == w % 2) then s
    else (s.setAcc { a with answers := a.answers ++ [(w % 2, ok)] }).later (.holdRelease a.id)
  | none => s

/-- The token table of device `d` sends its answer to a hold's query (R346, R352, R354). -/
def State.answerHold (s : State) (d w : Nat) (ok : Bool) : State :=
  match s.acc (w / 2) with
  | some a => s.send (answerPacket s d w ok (holdDie a.home) a.space)
  | none => s

/-- All waiting holds of an entry of device `d`'s table are answered. -/
def State.answerAll (s : State) (d : Nat) (t : Token) (ok : Bool) : State := t.waiting.foldl (fun s w => s.answerHold d w ok) s

/-- An answer arrives at the die of its hold. One from a device that is cut off is lost on its way, and its hold is answered
"expired", as the holds on a fenced device's tokens are (R345, R357; assumption log 74). -/
def State.answerArrives (s : State) (a : Access) (ok : Bool) : State :=
  (({ s with net := s.net.filter (fun b => b.id != a.id) } : State).settleFlows).holdAnswered a.aux.toNat
    (ok && s.reach (devOf a.core) a.home.dev)

/-- What a relaxed `stw` puts into its slot's message queue (R355), carried by its reply; 0 is nothing. -/
def holdRefusedMsg (tok : Nat) : Word := BitVec.ofNat 64 (0x0007 * 2 ^ 48 + 16 * 2 ^ 32 + tok % 2 ^ 32)
def tokenExpiredMsg (tok : Nat) : Word := BitVec.ofNat 64 (0x0006 * 2 ^ 48 + tok % 2 ^ 32)

/-- The queries of a hold go to the origin tables. -/
def State.sendQueries (s : State) (a : Access) : Nat → List Nat → State
  | _, [] => s
  | i, t :: r => (s.send (tokenPacket s (holdDie a.home).1 a.space (.query a.id) t i)).sendQueries a (i + 1) r

/-- A store carried by `stw` enters the hold queue of its home's die, or is refused (R352). -/
def execHoldEnter (id : Nat) (s : State) : Out :=
  match s.acc id with
  | none => .next s
  | some a =>
    if a.kind ≠ .stw ∨ a.stage ≠ .sent then .next s
    else if s.behindFlow a then .next (s.later (.arrive id))
    else if !s.reach (devOf a.core) (holdDie a.home).1 then
      let (s, r) := s.homeFault a 9 7
      .next (s.answer a { r with val := 0 })
    else if 256 ≤ (s.net.filter (fun b => b.stage == .hold && holdDie b.home == holdDie a.home)).length then
      .next (s.answer a (if a.relaxed then { val := holdRefusedMsg (a.bulk.headD 0) } else { trap := some ⟨0x17, 6, 256⟩ }))
    else .next ((s.setAcc { a with stage := .hold }).settleFlows.sendQueries a 0 a.bulk)

/-- The first expired token of a hold, in the order of its tokens. -/
def firstExpired (a : Access) : Option Nat :=
  (a.bulk.zipIdx.find? (fun p => a.answers.contains (p.2, false))).map (·.1)

/-- A hold whose tokens have all landed moves to its home FIFO; one with an expired token is discarded
(R352, R356). -/
def execHoldRelease (id : Nat) (s : State) : Out :=
  match s.acc id with
  | none => .next s
  | some a =>
    if a.stage ≠ .hold then .next s
    else match firstExpired a with
      | some tok => .next (s.answer a (if a.relaxed then { val := tokenExpiredMsg tok }
          else { trap := some ⟨0x0F, 0, BitVec.ofNat 64 tok⟩ }))
      | none =>
        if a.answers.length < a.bulk.length then .next s
        else
          let s := s.setAcc { a with stage := .queued }
          .next ({ s with fifo := s.fifo ++ [id] }.nextAt a.home)

/-! ### The token table (R354) -/

/-- An INFLIGHT entry becomes EXPIRED at cycle `t`. -/
def State.expireToken (s : State) (d i t : Nat) : State :=
  let e := s.token d i
  (s.setToken d i { e with st := .expired, deadline := t + 2 ^ 24, waiting := [] }).answerAll d e false

/-- A landed or failed notice at its table; one that cannot reach it is dropped, and its token stays INFLIGHT until its deadline
(R345, R354, R357). -/
def execTokenNotice (id : Nat) (s : State) : Out :=
  match s.atHead id with
  | none => .next s
  | some a =>
    let tok := a.val
    let d := bitsN tok 26 6
    let i := bitsN tok 12 14
    let e := s.token d i
    match a.kind with
    | .notice ok =>
      let s1 := if s.reach (devOf a.core) d ∧ e.st = .inflight ∧ e.gen.toNat = bitsN tok 0 12 then
          (if ok then (s.setToken d i { st := .free, gen := e.gen + 1 }).answerAll d e true else s.expireToken d i (s.dv d).cycle)
        else s
      .next (s1.sink a)
    | _ => .next s

/-- An INFLIGHT entry reaches its deadline. -/
def execTokenDeadline (d i : Nat) (s : State) : Out :=
  let e := s.token d i
  if e.st = .inflight ∧ e.deadline ≤ (s.dv d).cycle then .next (s.expireToken d i (s.dv d).cycle) else .next s

/-- An EXPIRED entry becomes FREE 2^24 cycles later. -/
def execTokenEntryFree (d i : Nat) (s : State) : Out :=
  let e := s.token d i
  if e.st = .expired ∧ e.deadline ≤ (s.dv d).cycle then .next (s.setToken d i { st := .free, gen := e.gen + 1 }) else .next s

/-- A hold's query at its table: answered by the entry's current generation, or threaded onto the entry. A packet from a fenced
device is dropped; one that cannot reach its table gets an error notice, which answers the hold "expired" (R345, R354, R357). -/
def execHoldQueryAnswer (id : Nat) (s : State) : Out :=
  match s.atHead id with
  | none => .next s
  | some a =>
    let tok := a.val
    let d := bitsN tok 26 6
    let i := bitsN tok 12 14
    let e := s.token d i
    match a.kind with
    | .query hold =>
      let w := 2 * hold + a.aux.toNat % 2
      let s1 := s.sink a
      .next (if devOf a.core ≠ d ∧ (s.dv (devOf a.core)).fenced then s1
        else if (s.dv d).fenced ∨ !s.reach (devOf a.core) d then s1.holdAnswered w false
        else if e.gen.toNat ≠ bitsN tok 0 12 then s1.answerHold d w true
        else match e.st with
          | .free | .landed => s1.answerHold d w true
          | .expired => s1.answerHold d w false
          | .inflight => s1.setToken d i { e with waiting := e.waiting ++ [w] })
    | _ => .next s

end Sys2Proof.Machine
end

