-- ==== Sys2Proof/Machine/Messages.lean ====
section
/-! DEFINITION. Message queues, active messages, semaphores and kicks (R124, R125, R130 to R140). -/

namespace Sys2Proof.Machine

/-! ### wmsg (R137) -/

def wmsgBody (x : Ctx) (_ : Vals) (s : State) : Res :=
  match (s.slot x.c x.n).msgs with
  | [] => .wait [.message]
  | m :: r => giveD x m.word (s.modSlot x.c x.n (fun sl => { sl with msgs := r }))

def wmsgCountBody (x : Ctx) (_ : Vals) (s : State) : Res :=
  match (s.slot x.c x.n).msgs with
  | [] => .wait [.message]
  | l => giveD x (BitVec.ofNat 64 l.length) s

def execWmsg (o : Opnd) (s : State) : Out := runShared 0x60 .value { d := .dst, anyPol := true, role := .task } o (.wmsg o) wmsgBody s
def execWmsgCount (o : Opnd) (s : State) : Out :=
  runShared 0x60 .value { d := .dst, anyPol := true, role := .task } o (.wmsgCount o) wmsgCountBody s

/-! ### send and send.am (R138, R345) -/

/-- User messages in a save area's queue (R118, R135). -/
def State.areaUsers (s : State) (c : Nat) (e : SpillEnt) (cnt : Nat) : Nat :=
  ((rangeFrom 0 (cnt % 32)).filter (fun i =>
    decide (0x8000 ≤ ((s.vdword (devOf c) e.space (e.area + 0x80 + 8 * i)).getD 0) / 2 ^ 48 % 2 ^ 16))).length

/-- The message port takes or refuses a message (R138). -/
def serveSend (a : Access) (s : State) : State × Reply :=
  let w := BitVec.ofNat 64 a.va
  let c := coreOf w
  let n := bitsN w 43 6
  let no (sub : Nat) (hint : Word) : State × Reply := (s, { trap := some ⟨0x17, sub, hint⟩ })
  if !s.reach (devOf a.core) (devOf c) then (s.unreached a, { trap := some ⟨0x17, 1, 0⟩ })
  else match s.mbox c n (bitsN w 0 32) with
    | .none => no 1 0
    | .slot => if 8 ≤ ((s.slot c n).msgs.filter (fun m => !m.sys)).length then no 2 256
        else (s.modSlot c n (fun sl => { sl with msgs := sl.msgs ++ [⟨a.val, false⟩] }), {})
    | .area e =>
      let cnt := s.areaCount c e
      if 8 ≤ s.areaUsers c e cnt then no 2 256 else (s.areaMsg c e a.val cnt, {})

def sendBody (x : Ctx) (v : Vals) (s : State) : Res :=
  if bitsN v.b 48 16 < 0x8000 then .trap 1 5 v.b
  else if bitsN v.a 32 11 ≠ 0 then .trap 1 5 v.a
  else
    let hc := coreOf v.a
    issueHome x { kind := .send, n := 0, addr := v.a, val := v.b } (.msgs hc) hc serveSend s

/-- An active message enters the memory port's FIFO; one to the own core is complete for its slot at once. -/
def sendAmBody (x : Ctx) (v : Vals) (s : State) : Res :=
  if bitsN v.a 0 49 ≠ 0 then .trap 1 5 v.a
  else
    let hc := coreOf v.a
    let r : Req := { kind := .am, n := 0, addr := v.a, val := v.b, aux := v.c }
    match s.issueWaits x.c x.n (.memPort hc) (.pad 0 0) (decide (hc = x.c)) r with
    | w :: ws => .wait (w :: ws)
    | [] =>
      if hc = x.c then .ok (s.send { accessOf x s r (.memPort hc) (.pad 0 0) with loose := true })
      else issueRemote x r (.memPort hc) (.pad 0 0) s

def execSend (o : Opnd) (s : State) : Out :=
  runShared 0x61 (.effect false) { a := .src, b := .src, lit := .int, far := .name } o (.send o) sendBody s
def execSendAm (o : Opnd) (s : State) : Out :=
  runShared 0x61 (.effect false) { a := .src, b := .src, c := .src, lit := .int, far := .name } o (.sendAm o) sendAmBody s

/-- A message port serves the send at the head of its FIFO. -/
def execMessageAccept (id : Nat) (s : State) : Out :=
  match s.atHead id with
  | none => .next s
  | some a => if a.kind = .send then (let (s, r) := serveSend a s; .next (s.answer a r)) else .next s

/-! ### The handler slot (R124, R125) -/

/-- The handler slot at the start of a user handler: the 32 entries from 2,016, the sender's address space,
x0 to x2 set (R125). -/
def State.startHandler (s : State) (c : Nat) (a : Access) : State :=
  let k := s.core c
  let k := { k with sfile := k.sfile.filter (fun p => decide (p.1 < 2016)), am := some { core := a.core, taskw := a.taskw, count := 0 } }
  let k := ((k.setEntry 2016 (entryOf a.aux)).setEntry 2017 (entryOf (BitVec.ofNat 64 (s.coreId a.core)))).setEntry 2018
    (entryOf (BitVec.ofNat 64 (bitsN a.taskw 0 50)))
  let sl : Slot := { run := .ready, pc := (a.val &&& ~~~3).setWidth 56, space := a.space, sbase := 2016, scount := 32 }
  s.setCore c (k.setSlot 62 sl)

/-- The active message at the head of a core's memory port starts its handler; the sender's access is complete
at the reply. -/
def execActiveMessageRun (c : Nat) (s : State) : Out :=
  match s.headAt (.memPort c) with
  | none => .next s
  | some a =>
    if a.kind ≠ .am then .next s
    else if !s.reach (devOf a.core) (devOf c) then .next ((s.unreached a).answer a { trap := some ⟨0x17, 1, 0⟩ })
    else
      let s := (s.trace c a).startHandler c a
      .next (if a.loose then s.sink a else s.answer a {})

/-- A user handler that has issued 256 instructions is aborted. -/
def execHandlerAbort (c : Nat) (s : State) : Out :=
  match (s.core c).am with
  | some m => if 256 ≤ m.count then .next (s.abortHandler c) else .next s
  | none => .next s

/-! ### Semaphores (R130, R131) -/

/-- `sem.wait`: take a unit, or join the tail of the waiter list; the pc of a waiting slot stays at the `sem`. -/
def semWaitBody (x : Ctx) (_ : Vals) (s : State) : Res :=
  let m := fld x.fn 0 4
  let y := (s.core x.c).sem m
  if 0 < y.count then .ok ((s.modCore x.c (fun k => k.setSem m { y with count := y.count - 1 })).lvqPut x.c x.n { val := 0 })
  else
    let s1 := s.modCore x.c (fun k => k.setSem m { y with waiters := y.waiters ++ [x.n] })
    .ok ((s1.leave x.c x.n [.sem m]).modSlot x.c x.n (fun sl => { sl with pc := x.pc }))

/-- A unit posted by a slot or an engine (R130). -/
def State.postSem (s : State) (c m : Nat) : State :=
  let y := (s.core c).sem m
  (s.modCore c (fun k => k.setSem m { y with count := min 65535 (y.count + 1) })).handUnits c m 1

def semPostBody (x : Ctx) (_ : Vals) (s : State) : Res :=
  let m := fld x.fn 0 4
  let y := (s.core x.c).sem m
  if y.waiters = [] ∧ 65535 ≤ y.count then .trap 1 5 65535 else .ok (s.postSem x.c m)

def semTryBody (x : Ctx) (_ : Vals) (s : State) : Res :=
  let m := fld x.fn 0 4
  let y := (s.core x.c).sem m
  if 0 < y.count then giveP x true (s.modCore x.c (fun k => k.setSem m { y with count := y.count - 1 }))
  else giveP x false s

def execSemWait (o : Opnd) (s : State) : Out := runShared 0x62 (.effect false) { role := .task } o (.semWait o) semWaitBody s
def execSemPost (o : Opnd) (s : State) : Out := runShared 0x62 (.effect false) {} o (.semPost o) semPostBody s
def execSemTry (o : Opnd) (s : State) : Out := runShared 0x62 (.effect false) { d := .pdst } o (.semTry o) semTryBody s

/-! ### kick (R140) -/

/-- A kick queue takes or refuses a notice; the manual states no number for its back-off hint (assumption log 4). -/
def serveKick (a : Access) (s : State) : State × Reply :=
  let c := coreOf (BitVec.ofNat 64 a.va)
  if !s.reach (devOf a.core) (devOf c) then (s.unreached a, { trap := some ⟨0x17, 1, 0⟩ })
  else if 32 ≤ (s.core c).kicks.length then (let (v, s) := s.freeVal; (s, { trap := some ⟨0x17, 2, v⟩ }))
  else
    let q : Kick := { notice := a.val, core := a.core, slot := a.slot, taskw := a.taskw }
    (s.modCore c (fun k => { k with kicks := k.kicks ++ [q] }), {})

def kickBody (x : Ctx) (v : Vals) (s : State) : Res :=
  if bitsN v.a 0 49 ≠ 0 then .trap 1 5 v.a
  else
    let hc := coreOf v.a
    issueHome x { kind := .kick, n := 0, addr := v.a, val := v.b, book := true } (.kicks hc) hc serveKick s

def execKick (o : Opnd) (s : State) : Out :=
  runShared 0x63 (.effect false) { a := .src, b := .src, lit := .int, far := .name } o (.kick o) kickBody s

/-- A kick queue serves the kick at the head of its FIFO. -/
def execKickAccept (id : Nat) (s : State) : Out :=
  match s.atHead id with
  | none => .next s
  | some a => if a.kind = .kick then (let (s, r) := serveKick a s; .next (s.answer a r)) else .next s

end Sys2Proof.Machine
end

