-- ==== Sys2Proof/Machine/Tasks.lean ====
section
/-! DEFINITION. Moving and starting tasks, and the level instructions (R213 to R215, R310 to R315). -/

namespace Sys2Proof.Machine

/-! ### OwnerCore and radii (R213, R300) -/

/-- The quadrant core of a slice: core 0 of gang 0 of the quadrant that holds it. -/
def sliceCore (n : Nat) : Nat := n / 16 * 128 + n % 16 / 4 * 32

/-- OwnerCore of a place of device memory or a scratchpad, as a core identifier. -/
def ownerOfLoc (l : Loc) (e : Option Tlb) : Nat :=
  match l with
  | .pad c _ => cidOf c
  | .dram _ pa => (match e.bind (·.owner) with
    | some o => o
    | none => sliceCore (sliceOf pa))
  | _ => 0

/-- A core identifier lies within a radius of a hint core. -/
def within (radius hint cid : Nat) : Bool :=
  if radius = 0 then decide (cid = hint) else if radius = 1 then decide (cid / 4 = hint / 4)
  else if radius = 2 then decide (cid / 32 = hint / 32) else if radius = 3 then decide (cid / 128 = hint / 128) else true

/-! ### go (R213, R214) -/

/-- What keeps a task on its core (R213, R230, R241). -/
def State.stuck (s : State) (c n : Nat) : Bool :=
  let k := s.core c
  let sl := k.slot n
  decide (0 < sl.vcount) || sl.matrix || sl.paired || sl.gang || decide (n = 63) || decide (sl.msgs ≠ []) || decide (0 < sl.booked)
    || k.claims.any (fun p => p.2.valid && p.2.slot == n && p.2.saved.isNone)
    || anyBelow 16 (fun i => decide ((k.chain i).st ≠ .free) && decide ((k.chain i).task = sl.task))

/-- Watchdog cycles that a slot's task has counted. -/
def State.dogTime (s : State) (c n : Nat) : Nat := (s.slot c n).dogRan + (s.now c + 1 - (s.slot c n).dogFrom)

/-- The task leaves its slot and walks toward the hint; %flags is not carried, so its trap enables are 0 at the new seat
(R17, R214). -/
def State.depart (s : State) (c n hint radius : Nat) : State :=
  let sl := s.slot c n
  let d := devOf c
  let regs := (rangeFrom 0 (min sl.scount 24)).map (fun i => (s.core c).entry (sl.ent i))
  match s.taskRec d sl.task with
  | none => s
  | some r =>
    let cy : Carry := { slot := { sl.settle (s.now c + 1) with trapEn := 0 }, regs := regs, hint := hint, radius := radius }
    let s1 := s.setTask d sl.task { r with st := .transit, since := (s.dv d).cycle, ran := s.dogTime c n, carry := some cy }
    ((s1.modDev d (fun v => { v with arrivals := v.arrivals ++ [sl.task] })).later (.taskMigrateSeat d sl.task)).vacate c n

def goBody (x : Ctx) (v : Vals) (s : State) : Res :=
  let addr := v.a + v.b
  let sl := s.slot x.c x.n
  let radius := fld x.fn 0 3
  let move (l : Loc) (e : Option Tlb) (s : State) : Res :=
    if s.stuck x.c x.n then .trap 0x16 0 addr
    else
      let hint := ownerOfLoc l e
      if within radius hint (cidOf x.c) then .ok s else .ok (s.depart x.c x.n hint radius)
  if !s.drained x.c x.n then .wait [.drain]
  else match s.unitsBusy x.c x.n with
  | w :: ws => .wait (w :: ws)
  | [] => match areaOf addr.toNat with
    | .near off => move (.pad x.c off) none s
    | .pad cid off => move (.pad (devOf x.c * 512 + cid) off) none s
    | .panel d va => if d ≠ devOf x.c then .trap 0x16 0 addr
      else match s.look x.c sl.space va with
      | .miss => .wait [.walk sl.space (va / 65536)]
      | .fault n => .trap 9 n addr
      | .hit _ => .trap 0x16 0 addr
    | .bad => .trap 9 2 addr
    | .xlat => match s.look x.c sl.space addr.toNat with
      | .miss => .wait [.walk sl.space (addr.toNat / 65536)]
      | .fault n => .trap 9 n addr
      | .hit e =>
        if e.tgt ≠ 0 then .trap 0x16 0 addr
        else move (leafLoc (devOf x.c) e addr.toNat) (some e) (s.touch x.c e)

def execGo (o : Opnd) (s : State) : Out := runLong 0x58 { a := .src, b := .src, lit := .int, role := .task } o goBody s

/-! ### spawn (R215) -/

/-- The launch of a slot's task. -/
def State.launchOf (s : State) (c n : Nat) : Nat :=
  match s.taskRec (devOf c) (s.slot c n).task with
  | some r => r.launch
  | none => 0

def spawnBody (x : Ctx) (v : Vals) (s : State) : Res :=
  if bitsN v.a 12 52 ≠ 0 then .trap 1 5 v.a
  else if bitsN v.b 0 3 ≠ 0 then .trap 8 0 v.b
  else
    let h : Home := .part (devOf x.c) (dieOf x.c)
    let r : Req := { kind := .spawn, n := 0, addr := v.b, val := v.a, aux := BitVec.ofNat 64 (s.launchOf x.c x.n), dst := some x.o.d.toNat }
    match s.issueWaits x.c x.n h (.pad 0 0) false r with
    | w :: ws => .wait (w :: ws)
    | [] => issueRemote x r h (.pad 0 0) s

def execSpawn (o : Opnd) (s : State) : Out :=
  runShared 0x59 (.effect false) { d := .dregz, a := .src, b := .src, lit := .int, role := .task } o (.spawn o) spawnBody s

/-- A dword read for a core's slot by a unit, as a load is performed. -/
def State.unitLoad (s : State) (c n space va : Nat) : State × Reply :=
  match s.placeVia c space va .load with
  | .at l _ => s.perform { id := 0, kind := .ld false, core := c, slot := n, taskw := 0, space := space, home := .memPort c,
                           va := va, loc := l, n := 8 }
  | .trap cause sub => (s.noteAt (devOf c) space va, { trap := some ⟨cause, sub, BitVec.ofNat 64 va⟩ })
  | .walk _ => (s, {})

/-- `n` dwords read one after another, or the first trap. -/
def State.unitLoads (s : State) (c slot space va : Nat) : Nat → State × Except Trap (List Reply)
  | 0 => (s, .ok [])
  | n + 1 =>
    let (s1, r) := s.unitLoad c slot space va
    match r.trap with
    | some t => (s1, .error t)
    | none =>
      let (s2, q) := s1.unitLoads c slot space (va + 8) n
      (s2, q.map (fun l => r :: l))

/-- The headframe partition enqueues a spawned task (R215, R297, R299). -/
def serveSpawn (a : Access) (s : State) : State × Reply :=
  let d := devOf a.core
  let g := bitsN a.taskw 44 6
  let node := bitsN a.val 0 12
  let lno := a.aux.toNat
  let (s1, q) := s.unitLoads a.core a.slot a.space a.va 24
  let illegal : State × Reply := (s1, { trap := some ⟨1, 5, a.val⟩ })
  match q with
  | .error t => (s, { trap := some t })
  | .ok rs => match (s1.graph d g).launch lno with
    | none => illegal
    | some l =>
      let nd := s1.gnode d g node
      if (s1.graph d g).nodes.length ≤ node ∨ nd.kind ≠ 0 ∨ nth .waiting l.nodes node = .complete then illegal
      else if 262144 ≤ (s1.dv d).tasks.length then (s1, { trap := some ⟨0x17, 3, 1024⟩ })
      else
        let num := nd.count + nth 0 l.spawned node
        let regs := rs.map (fun r => ({ val := r.val, poison := r.poison, tag := r.tag } : Entry))
        let s2 := s1.modLaunch d g lno (fun y => { y with spawned := setNth y.spawned node (nth 0 y.spawned node + 1) })
        (s2.newTask d { graph := g, node := node, num := num, launch := lno, regs := regs, spawnDie := some (dieOf a.core) },
          { val := BitVec.ofNat 64 (num % 2 ^ 32) })

/-! ### Levels (R311 to R315) -/

/-- A level instruction goes to the board's partition (R305, R311). -/
def issueLevel (x : Ctx) (r : Req) (s : State) : Res :=
  let sl := s.slot x.c x.n
  let d := devOf x.c
  let h : Home := .part d (s.gnode d (bitsN sl.taskw 44 6) (bitsN sl.taskw 32 12)).part
  match s.issueWaits x.c x.n h (.pad 0 0) false r with
  | w :: ws => .wait (w :: ws)
  | [] => issueRemote x r h (.pad 0 0) s

def lvgetBody (x : Ctx) (v : Vals) (s : State) : Res :=
  issueLevel x { kind := .lvget (fld x.fn 0 4), n := 0, addr := v.b, dst := some x.o.d.toNat } s

/-- The board's answer to `lvget` (R311). -/
def serveLvget (item : Nat) (a : Access) (s : State) : State × Reply :=
  let d := devOf a.core
  let nd := s.gnode d (bitsN a.taskw 44 6) (bitsN a.taskw 32 12)
  let b := bitsN a.taskw 0 16
  let x := nth {} nd.board b
  let r := nth { level := 0, prev := 0, cur := 0, old := 0 } x.recs a.va
  let out (v : Nat) : State × Reply := (s, { val := BitVec.ofNat 64 v })
  if 8 ≤ item ∧ x.nbrs.length ≤ a.va then (s, { trap := some ⟨1, 5, BitVec.ofNat 64 a.va⟩ })
  else match item with
    | 0 => out x.level.toNat
    | 1 => out x.step.toNat
    | 2 => out (x.level + x.step).toNat
    | 3 => out x.prev.toNat
    | 4 => out b
    | 5 => out x.nbrs.length
    | 6 => out (nd.buffer b x.buf)
    | 7 => out (nd.buffer b (!x.buf))
    | 8 => out r.level.toNat
    | 9 => out r.prev.toNat
    | 10 => out (nth 0 x.nbrs a.va)
    | 11 => out r.cur
    | _ => out r.old

def lvcommitBody (x : Ctx) (v : Vals) (s : State) : Res :=
  let sl := s.slot x.c x.n
  let d := devOf x.c
  let nd := s.gnode d (bitsN sl.taskw 44 6) (bitsN sl.taskw 32 12)
  let b := nth {} nd.board (bitsN sl.taskw 0 16)
  if !s.drained x.c x.n then .wait [.drain]
  else match s.unitsBusy x.c x.n with
    | w :: ws => .wait (w :: ws)
    | [] =>
      if b.committed ∨ b.spread ∨ nd.stepmax < v.a.toNat then .trap 1 5 v.a
      else issueLevel x { kind := .lvcommit, n := 0, addr := 0, val := v.a } s

/-- `n` dwords from a virtual address become undefined: free values, their poison marks as they were (R313; assumption
log 41). -/
def State.blurWords (s : State) (d space va : Nat) : Nat → State
  | 0 => s
  | n + 1 =>
    let (v, s1) := s.freeVal
    let s2 := match s1.hfPlace d space va .store with
      | some l => { (s1.takePad space l).writeNum space l 8 v.toNat with poison := s1.poison }
      | none => s1
    s2.blurWords d space (va + 8) n

/-- A discarded provisional step ends its task as `exit` does, its next-state buffer becomes undefined, and its block is
evaluated again (R313, R315). -/
def State.discardStep (s : State) (c n : Nat) : State :=
  let sl := s.slot c n
  let d := devOf c
  match s.taskRec d sl.task with
  | none => s
  | some r =>
    let s := (((s.leaveCore c n).freeArea d r).delTask d sl.task).vacate c n
    let s := if sl.paired then s.vacate c (n / 2 * 2 + 1) else s
    let b := r.num % 65536
    let nd := s.gnode d r.graph r.node
    let s := s.blurWords d (s.graph d r.graph).space (nd.buffer b (!(s.block d r.graph r.node b).buf)) (nd.bufsize / 8)
    (s.setBlock d r.graph r.node b { s.block d r.graph r.node b with st := .idle, committed := false }).evalNode d r.graph r.node

/-- A provisional block's neighbours have levels other than those recorded (R315). -/
def staleStart (nd : GNode) (x : Block) : Bool :=
  (x.nbrs.zip x.recs).any (fun p => decide ((nth {} nd.board p.1).level ≠ p.2.level))

/-- A level spreads too far from another live block's (R314). -/
def spreads (nd : GNode) (b : Nat) (new : BitVec 32) : Bool :=
  nd.board.zipIdx.any (fun p => decide (p.2 ≠ b) && decide (p.1.st ≠ .done) &&
    (decide (2 ^ 30 ≤ levelDiff new p.1.level) || decide (levelDiff new p.1.level ≤ -2 ^ 30)))

/-- The board performs a commit; none is the end of a task whose step is discarded (R312 to R315). LEVEL_SPREAD stops the node's
starts where the task has a handler for it; where it escalates, other blocks keep starting (R314, R316). -/
def serveLvcommit (a : Access) (s : State) : State × Option Reply :=
  let d := devOf a.core
  let g := bitsN a.taskw 44 6
  let n := bitsN a.taskw 32 12
  let b := bitsN a.taskw 0 16
  let nd := s.gnode d g n
  let x := nth {} nd.board b
  let new := x.level + x.step
  if x.st = .provisional ∧ staleStart nd x then (s, none)
  else if spreads nd b new then
    let sl := s.slot a.core a.slot
    ((s.freezeBlock d g n b 0x14 (!sl.hmode && decide (sl.tvec ≠ 0))), some { trap := some ⟨0x14, 0, new.setWidth 64⟩ })
  else
    let y := { x with prev := x.level, level := new, step := if a.val = 0 then x.step else a.val.setWidth 32,
                      buf := !x.buf, committed := true }
    ((s.setBlock d g n b y).evalNode d g n, some {})

/-- The fields of `lvget`: operand b for items 8 to 12. -/
def dscLvget (fn : Nat) : Desc :=
  if fn ≤ 7 then { d := .dreg, role := .level } else { d := .dreg, b := .src, lit := .int, role := .level }

def execLvget (o : Opnd) (s : State) : Out := runShared 0x5A .value (dscLvget o.fn.toNat) o (.lvget o) lvgetBody s
def execLvcommit (o : Opnd) (s : State) : Out :=
  runShared 0x5B (.effect false) { a := .src, role := .level } o (.lvcommit o) lvcommitBody s

end Sys2Proof.Machine
end

