-- ==== Sys2Proof/Machine/Jobs.lean ====
section
/-! DEFINITION. Jobs: their cards, the order among them, their element accesses and their end (R149 to R151,
R207 to R210, R220, R249 to R254, R258, R261). -/

namespace Sys2Proof.Machine

/-! ### Cards (R249 to R251) -/

/-- The regions of a card from its dwords after the header. -/
def regionsOf : List Nat → List Region
  | b :: l :: r => { base := b, len := l } :: regionsOf r
  | _ => []

/-- Regions a card declares: reads, writes (R249). -/
def cardCounts (w0 : Nat) : Nat × Nat := (nbits w0 43 4, nbits w0 39 4)

/-- The atomic operation and element size of a REDUCE card are a pair that R96 admits. -/
def reduceOk (op es : Nat) : Bool := decide (op ≤ 8) || (op == 9 && es == 2) || (op == 10 && es == 3)

/-- The header of a card is well formed, for a starting core with the hand-over slot and tasks given (R251, R256). -/
def cardOk (ds : List Nat) (handover : Option Nat) (hasTask : Nat → Bool) : Bool :=
  let d (i : Nat) : Nat := nth 0 ds i
  let kind := nbits (d 0) 56 8
  let nmode := nbits (d 0) 31 2
  let es := 2 ^ nbits (d 0) 33 2
  let ex := nbits (d 4) 0 32
  let ez := nbits (d 4) 48 16
  decide (1 ≤ kind) && decide (kind ≤ 6) && decide ((cardCounts (d 0)).1 ≤ 8) && decide ((cardCounts (d 0)).2 ≤ 8)
    && decide (nbits (d 0) 0 31 = 0) && decide (nbits (d 1) 0 43 = 0) && decide (nbits (d 1) 49 15 = 0)
    && decide (nmode ≠ 3) && (nmode != 1 || hasTask (nbits (d 1) 43 6)) && (nmode != 2 || handover.isSome)
    && (kind != 2 && kind != 3 || ez == 1)
    && (kind != 6 || decide (nbits (d 3) 32 16 = 0))
    && (kind != 4 || (reduceOk (nbits (d 0) 35 4) (nbits (d 0) 33 2) &&
      [ex, nbits (d 5) 0 32, nbits (d 5) 32 32, nbits (d 6) 0 32, nbits (d 6) 32 32, d 2, d 3].all (fun x => decide (x % es = 0))))

/-- The job of a card at address `card`, started by slot `n` (R207, R249). -/
def jobOf (n : Nat) (sl : Slot) (launch card : Nat) (ds : List Nat) (no : Nat) (notify : Option (Nat × Word)) : Job :=
  let d (i : Nat) : Nat := nth 0 ds i
  let rs := regionsOf (ds.drop 8)
  let (nr, nw) := cardCounts (d 0)
  let kind := nbits (d 0) 56 8
  { no := no, kind := kind, scope := nbits (d 0) 53 3, raw := nbits (d 0) 52 1 == 1,
    sem := if nbits (d 0) 51 1 = 1 then some (nbits (d 0) 47 4) else none,
    redop := nbits (d 0) 35 4, esize := 2 ^ nbits (d 0) 33 2, card := card, src := d 2, dst := d 3,
    ex := nbits (d 4) 0 32, ey := nbits (d 4) 32 16, ez := nbits (d 4) 48 16,
    sy := sgnN 32 (d 5), sz := sgnN 32 (d 5 / 2 ^ 32), dy := sgnN 32 (d 6), dz := sgnN 32 (d 6 / 2 ^ 32),
    srcList := if kind = 2 then d 5 else 0, dstList := if kind = 3 then d 6 else 0,
    reads := rs.take nr, writes := (rs.drop nr).take nw,
    slot := n, task := sl.task, space := sl.space, taskw := sl.taskw, launch := launch, notify := notify }

/-- A job without elements (R253). -/
def Job.zero (j : Job) : Bool := decide (j.ex = 0) || decide (j.ey = 0) || decide (j.ez = 0)

/-- A pull has no card and writes no STATUS (R257). -/
def Job.pull (j : Job) : Bool := j.kicker.isSome

/-! ### Conflicts (R209, R250) -/

/-- The write regions of a job, with the STATUS dword of its card. -/
def Job.allWrites (j : Job) : List Region := j.writes ++ (if j.pull then [] else [{ base := j.card + 56, len := 8 }])

def meetRegions (xs ys : List Region) : Bool := xs.any (fun x => ys.any (fun y => overlap x.base x.len y.base y.len))

/-- Two jobs conflict when a write region of either overlaps any region of the other. -/
def conflict (i j : Job) : Bool :=
  meetRegions i.allWrites (j.reads ++ j.allWrites) || meetRegions j.allWrites (i.reads ++ i.allWrites)

/-- The jobs of a sequencer before one. -/
def earlier (seq : List Job) (no : Nat) : List Job := seq.takeWhile (fun j => j.no != no)

def Core.job (k : Core) (no : Nat) : Option Job := k.seq.find? (fun j => j.no == no)
def Core.setJob (k : Core) (j : Job) : Core := { k with seq := k.seq.map (fun i => if i.no = j.no then j else i) }
def State.setJob (s : State) (c : Nat) (j : Job) : State := s.modCore c (fun k => k.setJob j)

/-! ### Engines (R254, R264) -/

/-- The engine that a job goes to: the one beside DST's memory slice where that lies on the starting core's die, else
the engine of core identifier [6:3]. -/
def State.engineOf (s : State) (c : Nat) (j : Job) : Nat :=
  let other := dieOf c * 16 + cidOf c / 8 % 16
  if j.kind = 6 then other
  else match s.placeVia c j.space j.dst .store with
    | .at (.dram d pa) _ => if d = devOf c ∧ sliceOf pa / 16 = dieOf c then sliceOf pa else other
    | _ => other

/-- The queue of an engine of a device: starting cores and job numbers. -/
def Dev.engineQ (v : Dev) (e : Nat) : List (Nat × Nat) := tabGet [] v.engines e

/-- A job leaves the queue of its engine. -/
def State.leaveEngine (s : State) (c : Nat) (j : Job) : State :=
  match j.engine with
  | none => s
  | some e => s.modDev (devOf c) (fun v => { v with engines := tabPut v.engines e ((v.engineQ e).filter (fun q => q != (c, j.no))) })

/-! ### Elements (R209, R250, R251) -/

def Job.rows (j : Job) : Nat := j.ey * j.ez

/-- A 64-bit address. -/
def addrOf (i : Int) : Nat := wrapN 64 i

/-- Elements of a row: bytes of one 8-byte word at the destination, elements of REDUCE. -/
def Job.perRow (j : Job) : Nat := if j.kind = 4 then j.ex / j.esize else j.ex / 8 + 2

/-- Scale-frame words that a row of a copy between QC4 pages may have (R151). -/
def Job.scalesPerRow (j : Job) : Nat :=
  if (j.kind = 1 ∨ j.kind = 5) ∧ !j.raw ∧ j.stream.isNone ∧ j.ex % 8192 = 0 then j.ex / 8192 * 64 else 0

/-- How many elements a job has: of a stream 8-byte elements, of a multicast packets of 64 bytes. -/
def Job.total (j : Job) : Nat :=
  if j.zero then 0
  else if j.stream.isSome then j.ex * j.rows / 8
  else if j.kind = 6 then (j.ex * j.rows + 63) / 64
  else j.rows * (j.perRow + j.scalesPerRow)

/-- An error kind and a faulting address (R252). -/
abbrev JErr := Nat × Nat

/-- Every byte of a range lies in some region. -/
def inRegions (rs : List Region) (va n : Nat) : Bool :=
  allBelow n (fun i => rs.any (fun r => decide (r.base ≤ va + i) && decide (va + i < r.base + r.len)))

/-- A range lies wholly inside one region. -/
def inOne (rs : List Region) (va n : Nat) : Bool := rs.any (fun r => decide (r.base ≤ va) && decide (va + n ≤ r.base + r.len))

/-- The first of `n` elements of one byte each, from `va` on, that no region covers: its place among them. -/
def firstOut (rs : List Region) (va n : Nat) : Option Nat := firstFrom (fun i => !inRegions rs (va + i) 1) 0 n

/-- The first element of a range that no region covers: its place in the range. The bytes of a copy are elements of one byte
each; an element of a reduction lies wholly inside one region (R250). -/
def Job.out (j : Job) (rs : List Region) (va n : Nat) : Option Nat :=
  if j.kind = 4 then (if inOne rs va n then none else some 0) else firstOut rs va n

/-- FOOTPRINT of a move: the address of the first element, read before written, outside the declared regions (R250, R252). -/
def Job.stray (j : Job) (src dst n : Nat) : Option Nat :=
  match j.out j.reads src n, j.out j.writes dst n with
  | none, none => none
  | some i, none => some (addrOf (src + i))
  | none, some k => some (addrOf (dst + k))
  | some i, some k => some (if i ≤ k then addrOf (src + i) else addrOf (dst + k))

/-- A range of bytes in runs that do not cross an 8-byte word. -/
def wordRuns : Nat → Nat → Nat → List (Nat × Nat)
  | 0, _, _ => []
  | f + 1, va, n => if n = 0 then []
    else let k := min n (8 - va % 8)
      (va, k) :: wordRuns f ((va + k) % 2 ^ 64) (n - k)

/-- The address of byte `i` of the box of a source or a destination, in box order. -/
def Job.boxAddr (j : Job) (out : Bool) (i : Nat) : Nat :=
  let r := i / (max 1 j.ex)
  let x := i % (max 1 j.ex)
  let y := r % (max 1 j.ey)
  let z := r / (max 1 j.ey)
  if out then addrOf (j.dst + z * j.dz + y * j.dy + x) else addrOf (j.src + z * j.sz + y * j.sy + x)

/-- Bytes `i` to `i + n - 1` of the source box in runs that cross neither a row nor an 8-byte word. -/
def Job.boxRuns (j : Job) : Nat → Nat → Nat → List (Nat × Nat)
  | 0, _, _ => []
  | f + 1, i, n => if n = 0 then []
    else
      let va := j.boxAddr false i
      let k := min n (min (8 - va % 8) (j.ex - i % max 1 j.ex))
      (va, k) :: j.boxRuns f (i + k) (n - k)

/-! ### Where elements lead (R281, R329) -/

/-- Where an element access leads, its page, and whether its format is known; that of another device's page is found in
that device's tables. -/
structure JPlace where
  loc : Loc
  page : Option Tlb := none
  known : Bool := true
  deriving DecidableEq, Repr

/-- A translation through the cache of an engine's die; a miss walks the tables within the step and fills the cache
(R280, R281; assumption log 59). -/
def State.dieLook (s : State) (d die space va : Nat) : State × Look :=
  match s.dieAnswer d die space va with
  | .hit e => (s.fillDie d die e, .hit e)
  | .fault n => (s.noteWalk d space va n (unitOf d), .fault n)
  | .miss => (s, .miss)

/-- Where an element access of a job leads on the own device, through its engine's die. -/
def State.jobXlat (s : State) (c : Nat) (j : Job) (va va' : Nat) (u : Use) : State × Except JErr JPlace :=
  let (s1, l) := s.dieLook (devOf c) (dieOf c) j.space va'
  match placeOf (devOf c) va' u l with
  | .trap cause _ => (s1, .error (if cause = 9 then 1 else 2, va))
  | .walk _ => (s1, .error (1, va))
  | .at l e => match l with
    | .pci _ _ => if j.kind = 5 then (s1, .ok { loc := l, page := e }) else (s1, .error (2, va))
    | _ => (s1, .ok { loc := l, page := e })

/-- Where an element access of a job leads; only PEER touches host and peer pages (R281, R329). The owner of a scratchpad
granule is checked when the access is served (R283), and what another device finds, at that device; the page of one that
cannot be reached is not known (R345). -/
def State.jobPlace (s : State) (c : Nat) (j : Job) (va : Nat) (u : Use) : State × Except JErr JPlace :=
  match areaOf va with
  | .near off => (s, .ok { loc := .pad c off })
  | .pad cid off => (s, .ok { loc := .pad (devOf c * 512 + cid) off })
  | .xlat => s.jobXlat c j va va u
  | .panel d va' =>
    if d = devOf c then s.jobXlat c j va va' u
    else match s.reach (devOf c) d, s.farPlace d j.space va' u with
      | true, .at _ e => (s, .ok { loc := .far d va', page := e })
      | _, _ => (s, .ok { loc := .far d va', known := false })
  | .bad => (s, .error (1, va))

/-- The places of runs of source bytes, or the first error. -/
def State.jobPlaces (s : State) (c : Nat) (j : Job) : List (Nat × Nat) → State × Except JErr (List (Nat × Nat × JPlace))
  | [] => (s, .ok [])
  | (va, n) :: r =>
    let (s1, q) := s.jobPlace c j va .load
    match q with
    | .error e => (s1, .error e)
    | .ok p =>
      let (s2, q2) := s1.jobPlaces c j r
      (s2, q2.map (fun ps => (va, n, p) :: ps))

/-- The device whose memory a place is in. -/
def JPlace.dev (p : JPlace) (c : Nat) : Nat :=
  match p.loc with
  | .far d _ | .dram d _ | .pci d _ => d
  | .pad _ _ => devOf c

/-- The page format of a place: bytes outside device memory are raw (R149). -/
def fmtAt (e : Option Tlb) : Nat := (e.map (·.fmt)).getD 0

/-- FORMAT_MISMATCH of a copy between two pages (R151), `src` and `dst` where the row begins. -/
def copyMismatch (j : Job) (src dst : Nat) (a b : JPlace) : Bool :=
  if j.raw || (j.kind != 1 && j.kind != 5) || !a.known || !b.known then false
  else if fmtAt a.page ≠ fmtAt b.page then true
  else decide (fmtAt a.page = 1) && (decide (src % 8192 ≠ 0) || decide (dst % 8192 ≠ 0) || decide (j.ex % 8192 ≠ 0))

/-! ### Reads and writes in channels (R209) -/

/-- An access of a job enters a channel. -/
def State.jobSend (s : State) (c : Nat) (j : Job) (k : AKind) (va : Nat) (l : Loc) (n v tag : Nat) : State × Nat :=
  let h := match l with
    | .far d va' => s.farHome j.space d va' k.use
    | l => homeOf c l
  let a : Access := { id := s.nextId, kind := k, core := c, slot := 64, taskw := j.taskw, space := j.space, home := h, va := va,
                      loc := l, n := n, val := BitVec.ofNat 64 v, aux := BitVec.ofNat 64 tag, par := j.launch + 1, jobNo := j.no,
                      peer := decide (j.kind = 5) }
  (s.send a, a.id)

/-- The reads of an element enter channels. -/
def State.jobReads (s : State) (c : Nat) (j : Job) : List (Nat × Nat × JPlace) → State × List Part
  | [] => (s, [])
  | (va, n, p) :: r =>
    let (s1, id) := s.jobSend c j (.ld false) va p.loc n 0 0
    let (s2, ps) := s1.jobReads c j r
    (s2, { id := id, n := n } :: ps)

/-- The step that a going job takes next. -/
def State.jobNext (s : State) (c no : Nat) : State :=
  match (s.core c).job no with
  | none => s
  | some j =>
    if j.err.isSome ∨ j.total ≤ j.did.length then s.later (.jobComplete c no)
    else match j.stream with
      | some sm => if ((s.core c).stream sm).out then s.later (.jobAccess c no j.did.length) else s.later (.streamDeliver c sm)
      | none => match firstFrom (fun e => !j.did.contains e && !j.work.any (fun w => w.elem == e)) 0 j.total with
        | some e => s.later (.jobAccess c no e)
        | none => s

/-- The end of one element: done, with its write posted; or the error that ends the job. -/
def State.elemDone (s : State) (c no elem : Nat) (post : Option Nat) (err : Option JErr) : State :=
  match (s.core c).job no with
  | none => s
  | some j => (s.setJob c { j with did := j.did ++ [elem], posted := j.posted ++ post.toList,
                                   err := if j.err.isSome then j.err else err }).jobNext c no

/-- The reads of an element begin, or the job meets an error. -/
def State.jobBegin (s : State) (c : Nat) (j : Job) (w : Work) (runs : List (Nat × Nat)) (ok : List (Nat × Nat × JPlace) → State →
    State × Option JErr) : State :=
  let (s1, q) := s.jobPlaces c j runs
  match q with
  | .error e => s1.elemDone c j.no w.elem none (some e)
  | .ok ps => match ok ps s1 with
    | (s2, some e) => s2.elemDone c j.no w.elem none (some e)
    | (s2, none) =>
      let (s3, parts) := s2.jobReads c j ps
      s3.setJob c { j with work := j.work ++ [{ w with parts := parts }] }

/-- No further check. -/
def noCheck (_ : List (Nat × Nat × JPlace)) (s : State) : State × Option JErr := (s, none)

/-- Bytes of one word of a row, or one element of REDUCE, from `src` to `dst`: the footprints, the pages and their
formats. -/
def State.jobMove (s : State) (c : Nat) (j : Job) (elem src dst n srcRow dstRow : Nat) : State :=
  match j.stray src dst n with
  | some va => s.elemDone c j.no elem none (some (5, va))
  | none => s.jobBegin c j { elem := elem, sort := .move, dst := dst } (wordRuns 9 src n) (fun ps s =>
    let (s1, q) := s.jobPlace c j dst (if j.kind = 4 then .both else .store)
    match q with
    | .error e => (s1, some e)
    | .ok p => (s1, if ps.any (fun a => copyMismatch j srcRow dstRow a.2.2 p) then some (3, src) else none))

/-- Word `w` of the scale frames of a row of a copy between QC4 pages (R150, R151); no step in any other copy. -/
def State.jobScale (s : State) (c : Nat) (j : Job) (elem src dst w : Nat) : State :=
  let src := addrOf (src + w / 64 * 8192)
  let dst := addrOf (dst + w / 64 * 8192)
  let (s1, q) := s.jobPlace c j src .load
  let (s2, q2) := s1.jobPlace c j dst .store
  match q, q2 with
  | .ok a, .ok b =>
    if fmtAt a.page ≠ 1 ∨ fmtAt b.page ≠ 1 ∨ src % 8192 ≠ 0 ∨ dst % 8192 ≠ 0 then s2.elemDone c j.no elem none none
    else
      let at' (p : JPlace) (va : Nat) : Loc :=
        .dram (p.dev c) ((p.page.map (·.scale)).getD 0 + va % 65536 / 8192 * 512 + w % 64 * 8)
      let (s3, id) := s2.jobSend c j (.ld false) src (at' a src) 8 0 0
      s3.setJob c { j with work := j.work ++ [{ elem := elem, sort := .scale (at' b dst), dst := dst, parts := [{ id := id, n := 8 }] }] }
  | _, _ => s2.elemDone c j.no elem none none

/-- The element of a row from `src` to `dst`, once the row's addresses are known. -/
def State.jobRowElem (s : State) (c : Nat) (j : Job) (elem src dst : Nat) : State :=
  let main := j.rows * j.perRow
  if main ≤ elem then s.jobScale c j elem src dst ((elem - main) % max 1 j.scalesPerRow)
  else
    let k := elem % max 1 j.perRow
    if j.kind = 4 then s.jobMove c j elem (addrOf (src + k * j.esize)) (addrOf (dst + k * j.esize)) j.esize src dst
    else
      let lo := if k = 0 then 0 else 8 * k - dst % 8
      let hi := min j.ex (8 * (k + 1) - dst % 8)
      if hi ≤ lo then s.elemDone c j.no elem none none
      else s.jobMove c j elem (addrOf (src + lo)) (addrOf (dst + lo)) (hi - lo) src dst

/-- The row of an element of a job that moves a box. -/
def Job.rowOf (j : Job) (elem : Nat) : Nat :=
  let main := j.rows * j.perRow
  if elem < main then elem / max 1 j.perRow else (elem - main) / max 1 j.scalesPerRow

/-- The address of the index of a row (R251). -/
def Job.indexAddr (j : Job) (r : Nat) : Nat := addrOf ((if j.kind = 2 then j.srcList else j.dstList) + 8 * (r % max 1 j.ey))

/-- Source and destination of row `r`, for GATHER and SCATTER with its index (R251). -/
def Job.rowAddr (j : Job) (r : Nat) (ix : Int) : Nat × Nat :=
  let y := r % (max 1 j.ey)
  let z := r / (max 1 j.ey)
  if j.kind = 2 then (addrOf (j.src + ix), addrOf (j.dst + y * j.dy))
  else if j.kind = 3 then (addrOf (j.src + y * j.sy), addrOf (j.dst + ix))
  else (addrOf (j.src + z * j.sz + y * j.sy), addrOf (j.dst + z * j.dz + y * j.dy))

/-- One element of a job that moves a box begins; GATHER and SCATTER read an I64 of their index list first. -/
def State.jobElem (s : State) (c : Nat) (j : Job) (elem : Nat) : State :=
  let r := j.rowOf elem
  if j.kind = 2 ∨ j.kind = 3 then
    let va := j.indexAddr r
    if va % 8 ≠ 0 then s.elemDone c j.no elem none (some (4, va))
    else if !inOne j.reads va 8 then s.elemDone c j.no elem none (some (5, va))
    else s.jobBegin c j { elem := elem, sort := .index } [(va, 8)] noCheck
  else s.jobRowElem c j elem (j.rowAddr r 0).1 (j.rowAddr r 0).2

/-- The multicast root of a tag (R259). -/
def rootOf (tag : Nat) : Nat := (tag ^^^ (tag / 32) ^^^ (tag / 1024)) % 32
def rootHome (c tag : Nat) : Home := .root (devOf c) (dieOf c) tag

/-- Bytes of the box from byte `i` on begin to be read, each inside a declared read region. That an element of an inbound stream
may begin at any address is the model's choice (R258, assumption log 74). -/
def State.boxBegin (s : State) (c : Nat) (j : Job) (w : Work) (i n : Nat) (out : Nat → Nat → Option Nat) : State :=
  let runs := j.boxRuns (n + 1) i n
  match runs.findSome? (fun r => (out r.1 r.2).map (fun k => addrOf (r.1 + k))) with
  | some va => s.elemDone c j.no w.elem none (some (5, va))
  | none => s.jobBegin c j w runs noCheck

/-- One packet of a multicast (R251). -/
def State.jobPacket (s : State) (c : Nat) (j : Job) (elem : Nat) : State :=
  s.boxBegin c j { elem := elem, sort := .packet } (64 * elem) (min 64 (j.ex * j.rows - 64 * elem)) (firstOut j.reads)

/-- One element of an outbound stream goes from the stream to the destination box (R258). That an element at an address that is
no multiple of 8 ends the job MISALIGNED is the model's choice (assumption log 74). -/
def State.jobDrain (s : State) (c : Nat) (j : Job) (sm elem : Nat) : State :=
  let x := (s.core c).stream sm
  match x.ents with
  | [] => s
  | e :: rest =>
    if !e.filled ∨ elem ≠ j.did.length then s
    else
      let dst := j.boxAddr true (8 * elem)
      let s1 := s.modCore c (fun k => k.setStream sm { x with ents := rest, bound := x.bound && decide (elem + 1 < j.total) })
      if dst % 8 ≠ 0 then s1.elemDone c j.no elem none (some (4, dst))
      else if !inOne j.writes dst 8 then s1.elemDone c j.no elem none (some (5, dst))
      else
        let (s2, q) := s1.jobPlace c j dst .store
        match q with
        | .error er => s2.elemDone c j.no elem none (some er)
        | .ok p =>
          let (s3, id) := s2.jobSend c j .jwrite dst p.loc 8 e.val.toNat (if e.poison then e.tag.toNat else 0)
          s3.elemDone c j.no elem (some id) none

/-! ### The end of an element's reads (R209, R220, R258) -/

/-- The bytes of an element's reads, lowest first, each with the tag of the poisoned word it comes from. -/
def Work.bytes (w : Work) : List (Nat × Nat) :=
  w.parts.flatMap (fun p => match p.got with
    | some (v, t) => (bytesOf p.n v).map (fun b => (b.toNat, t))
    | none => [])

/-- The number that the reads make, and the lowest tag among their words. -/
def Work.num (w : Work) : Nat := numOf (w.bytes.map (fun b => BitVec.ofNat 8 b.1))
def Work.tag (w : Work) : Nat := w.bytes.foldl (fun t b => lowTag t b.2) 0

/-- The reads of an element have all returned: its write is posted, its packet sent, its index used, or the stream gets
it. -/
def State.workDone (s : State) (c : Nat) (j : Job) (w : Work) : State :=
  match w.sort with
  | .index =>
    let (src, dst) := j.rowAddr (j.rowOf w.elem) (sgnN 64 w.num)
    s.jobRowElem c j w.elem src dst
  | .move =>
    let n := w.bytes.length
    let (s1, q) := s.jobPlace c j w.dst (if j.kind = 4 then .both else .store)
    (match q with
     | .error e => s1.elemDone c j.no w.elem none (some e)
     | .ok p =>
       let (s2, id) := s1.jobSend c j (if j.kind = 4 then .jamo j.redop else .jwrite) w.dst p.loc n w.num w.tag
       s2.elemDone c j.no w.elem (some id) none)
  | .scale l =>
    let (s1, id) := s.jobSend c j .jwrite w.dst l 8 w.num w.tag
    s1.elemDone c j.no w.elem (some id) none
  | .packet =>
    let tag := j.dst / 2 ^ 48 % 2 ^ 16
    let a : Access := { id := s.nextId, kind := .mcast, core := c, slot := 64, taskw := j.taskw, space := j.space,
                        home := rootHome c tag, va := (j.dst % 2 ^ 32 + 64 * w.elem) % 2 ^ 64, n := tag,
                        bulk := w.bytes.map (fun b => b.1 + 256 * b.2), par := j.launch + 1, jobNo := j.no }
    (s.send a).elemDone c j.no w.elem (some a.id) none
  | .stream sm =>
    let e : PEntry := { val := BitVec.ofNat 64 w.num, poison := decide (w.tag ≠ 0), tag := BitVec.ofNat 12 w.tag }
    let s1 := s.modCore c (fun k => k.setStream sm { k.stream sm with ents := (k.stream sm).ents ++ [e] })
    s1.elemDone c j.no w.elem none none

/-- The read `id` of an element has returned. -/
def Work.back (w : Work) (id v tag : Nat) : Work :=
  { w with parts := w.parts.map (fun p => if p.id = id then { p with got := some (v, tag) } else p) }

/-- A read of a job has returned; a fault ends the job (R252), and an ended job uses nothing more. -/
def State.readBack (s : State) (a : Access) : State :=
  let c := a.core
  match (s.core c).job a.jobNo with
  | none => s
  | some j => match j.work.find? (fun w => w.parts.any (fun p => p.id == a.id)) with
    | none => s
    | some w =>
      let rest := j.work.filter (fun x => x.elem != w.elem)
      let w' := w.back a.id a.reply.val.toNat (if a.reply.poison then a.reply.tag.toNat else 0)
      let err := j.err <|> a.reply.trap.map (fun t => ((if t.cause = 9 then 1 else 2), a.va))
      if err.isSome then (s.setJob c { j with work := rest, err := err }).later (.jobComplete c j.no)
      else if w'.parts.all (fun p => p.got.isSome) then
        let j' := { j with work := rest }
        (s.setJob c j').workDone c j' w'
      else s.setJob c { j with work := rest ++ [w'] }

/-! ### Ends of jobs (R252, R253, R257) -/

/-- What a job's end posts and sends: its semaphore, COPY_DONE or COPY_ERROR, KICK_ACK. The unit of a post to a full
semaphore is lost with a record of class NETWORK whose LOCATION is 0 (R130). -/
def State.jobNotify (s : State) (c : Nat) (j : Job) : State :=
  let s1 := match j.sem with
    | none => s
    | some m =>
      let y := (s.core c).sem m
      if y.waiters = [] ∧ 65535 ≤ y.count then
        (s.logErr (devOf c) clsNetwork j.space (some 0) (BitVec.ofNat 64 j.card) (s.now c) (s.coreId c)).2
      else s.postSem c m
  let s2 := match j.notify with
    | none => s1
    | some (n, tw) => s1.sysFor c n tw
        (BitVec.ofNat 64 ((if j.err.isSome then 2 else 1) * 2 ^ 48 + j.card % 2 ^ 48))
  match j.kicker with
  | none => s2
  | some k =>
    let s3 := s2.sysFor k.core k.slot k.taskw (BitVec.ofNat 64 (5 * 2 ^ 48 + bitsN k.notice 0 48))
    match j.err with
    | some (kind, va) => s3.sysFor c j.slot j.taskw (BitVec.ofNat 64 (2 * 2 ^ 48 + kind * 2 ^ 40 + va % 2 ^ 40))
    | none => s3.unbookFor c j.slot j.taskw

/-- A stream whose job has ended early gives what has arrived and then unbinds; an outbound one unbinds at once and drops its
entries. R133 and R258 leave this open: it is the model's choice (assumption log 74). -/
def Core.endStream (k : Core) (j : Job) : Core :=
  match j.stream with
  | none => k
  | some sm =>
    let x := k.stream sm
    if j.err.isNone ∨ x.job ≠ j.no ∨ !x.bound then k
    else if x.out ∨ x.ents = [] then k.setStream sm { x with bound := false, ents := [] }
    else k.setStream sm { x with total := x.moved + x.ents.length }

/-- Steps that a job's end may make possible: jobs behind it, held accesses, the end of its node and launch. -/
def State.afterJob (s : State) (c : Nat) (j : Job) : State :=
  let s1 := (s.core c).seq.foldl (fun s i => if i.going then s else s.later (.jobGo c i.no)) (s.releaseHeld c)
  let d := devOf c
  (s1.later (.nodeComplete d (bitsN j.taskw 44 6) j.launch (bitsN j.taskw 32 12))).later
    (.launchComplete d (bitsN j.taskw 44 6) j.launch)

/-- The STATUS dword (R249, R252). -/
def Job.status (j : Job) : Nat :=
  match j.err with
  | none => 0
  | some (k, va) => k * 2 ^ 56 + va % 2 ^ 56

/-- Post the write of STATUS, translated through the engine's die cache as the job's other writes are; an address that cannot
be written is left (R252, R281). -/
def State.postStatus (s : State) (c : Nat) (j : Job) : State :=
  if j.pull then s.setJob c { j with statusDone := true }
  else match s.jobPlace c j (j.card + 56) .store with
    | (s1, .ok p) =>
      let (s2, id) := s1.jobSend c j .jwrite (j.card + 56) p.loc 8 j.status 0
      s2.setJob c { j with statusDone := true, statusId := id, posted := j.posted ++ [id] }
    | (s1, .error _) => s1.setJob c { j with statusDone := true }

/-- A read of a job has not returned, or a posted write of it is not acknowledged whose home lies within a scope; the
write of STATUS is one of them whatever its home (R209, R252). -/
def State.jobPending (s : State) (c scope : Nat) (j : Job) : Bool :=
  j.work.any (fun w => w.parts.any (fun p => p.got.isNone)) ||
    s.net.any (fun a => j.posted.contains a.id && (a.kind == .mcast || (j.statusDone && a.id == j.statusId) || inScope c scope a.home))

/-- A job enters the sequencer (R209, R253): one without elements leaves it in the same step. -/
def State.startJob (s : State) (c : Nat) (j : Job) : State :=
  let s1 := s.modCore c (fun k => { k with lastJob := BitVec.ofNat 16 j.no })
  if j.zero then
    let s2 := if j.pull then s1 else match s1.jobPlace c j (j.card + 56) .store with
      | (s1, .ok p) => (s1.perform { id := 0, kind := .jwrite, core := c, slot := 64, taskw := j.taskw, space := j.space,
                                     home := homeOf c p.loc, va := j.card + 56, loc := p.loc, n := 8 }).1
      | (s1, .error _) => s1
    s2.jobNotify c j
  else (s1.modCore c (fun k => { k with seq := k.seq ++ [j] })).later (.jobGo c j.no)

/-- The number of the next job of a core (R256). -/
def Core.nextJob (k : Core) : Nat := (k.lastJob + 1).toNat

/-! ### Events -/

/-- A job that no earlier job of the sequencer conflicts with goes to its engine (R209): it enters the engine's queue, or
a full queue refuses it with a back-off of 16 cycles for each job ahead, after which it is dispatched again (R254,
R264). -/
def execJobGo (c no : Nat) (s : State) : Out :=
  match (s.core c).job no with
  | none => .next s
  | some j =>
    if j.going ∨ s.now c < j.backoff ∨ (earlier (s.core c).seq no).any (conflict j) then .next s
    else
      let e := s.engineOf c j
      let q := (s.dv (devOf c)).engineQ e
      if 32 ≤ q.length then .next (s.setJob c { j with backoff := s.now c + 16 * q.length })
      else
        let s1 := s.modDev (devOf c) (fun v => { v with engines := tabPut v.engines e (q ++ [(c, no)]) })
        .next ((s1.setJob c { j with going := true, engine := some e }).jobNext c no)

/-- An engine begins one element of a job, or the job meets an error (R209, R250, R251). -/
def execJobAccess (c no elem : Nat) (s : State) : Out :=
  match (s.core c).job no with
  | none => .next s
  | some j =>
    if !j.going ∨ j.err.isSome ∨ j.total ≤ elem ∨ j.did.contains elem ∨ j.work.any (fun w => w.elem == elem) then .next s
    else match j.stream with
      | some sm =>
        if ((s.core c).stream sm).out ∧ ((s.core c).stream sm).ents ≠ [] then .next (s.jobDrain c j sm elem) else .next s
      | none => if j.kind = 6 then .next (s.jobPacket c j elem) else .next (s.jobElem c j elem)

/-- An engine begins to read the next element of an inbound stream, never more than 64 ahead (R258). -/
def execStreamDeliver (c sm : Nat) (s : State) : Out :=
  let x := (s.core c).stream sm
  match (s.core c).job x.job with
  | none => .next s
  | some j =>
    let elem := j.did.length
    if j.stream ≠ some sm ∨ x.out ∨ !j.going ∨ j.err.isSome ∨ j.total ≤ elem ∨ j.work ≠ [] ∨ 64 ≤ x.ents.length then .next s
    else if !inOne j.reads (j.boxAddr false (8 * elem)) 8 then
      .next (s.elemDone c j.no elem none (some (5, j.boxAddr false (8 * elem))))
    else .next (s.boxBegin c j { elem := elem, sort := .stream sm } (8 * elem) 8 (fun _ _ => none))

/-- A job ends: STATUS is written once its elements are done, and once every write within its scope is
acknowledged it leaves the sequencer (R209, R252). -/
def execJobComplete (c no : Nat) (s : State) : Out :=
  match (s.core c).job no with
  | none => .next s
  | some j =>
    if (!j.going ∧ j.err.isNone) ∨ (j.err.isNone ∧ j.did.length < j.total) ∨ s.jobPending c j.scope j then .next s
    else if !j.statusDone then .next ((s.postStatus c j).later (.jobComplete c no))
    else
      let s1 := s.modCore c (fun k => { k with seq := k.seq.filter (fun i => i.no != no) }.endStream j)
      .next (((s1.leaveEngine c j).jobNotify c j).afterJob c j)

/-! ### Multicast (R259 to R261) -/

/-- A root performs the packet at the head of its FIFO: it joins every member's delivery FIFO. -/
def execMcastRootForward (id : Nat) (s : State) : Out :=
  match s.atHead id with
  | none => .next s
  | some a =>
    if a.kind ≠ .mcast then .next s
    else
      let ms := (s.dv (devOf a.core)).members.filter (fun m => m.tag == a.n && dieOf m.core == dieOf a.core)
      let pkt : MPkt := { tag := a.n, off := a.va, bytes := a.bulk.map (BitVec.ofNat 8), tags := a.bulk.map (· / 256) }
      let s1 := ms.foldl (fun (s : State) m =>
        (s.modCore m.core (fun k => { k with deliver := k.deliver ++ [pkt] })).later (.mcastDeliver m.core a.n)) s
      .next (s1.answer a {})

/-- Bytes, each with the tag of the poisoned word it comes from, stored at a core's scratchpad for a space: word by word, as
local stores; a granule of another space is left (R99, R220, R261, R283). -/
def State.landBytes (s : State) (c space : Nat) : Nat → Nat → List (Byte × Nat) → State
  | 0, _, _ => s
  | f + 1, off, bs =>
    if bs = [] then s
    else
      let k := min bs.length (8 - off % 8)
      let w := bs.take k
      let l : Loc := .pad c off
      let a : Access := { id := 0, kind := .jwrite, core := c, slot := 64, taskw := 0, space := space, home := .memPort c, loc := l,
                          n := k, val := BitVec.ofNat 64 (numOf (w.map (·.1))),
                          aux := BitVec.ofNat 64 (w.foldl (fun t b => lowTag t b.2) 0) }
      let s1 := if s.mayPad space l then ((s.takePad space l).operate a l).1 else s
      s1.landBytes c space f (off + k) (bs.drop k)

/-- A member's interface writes the oldest packet of a tag at its bank port; bytes beyond the landing length, or
into a granule of another space, are discarded. -/
def execMcastDeliver (c tag : Nat) (s : State) : Out :=
  match (s.core c).deliver.find? (fun p => p.tag == tag) with
  | none => .next s
  | some p =>
    let s1 := s.modCore c (fun k => { k with deliver := k.deliver.erase p })
    match (s.core c).subs.find? (fun x => x.tag == tag) with
    | none => .next s1
    | some m =>
      let bs := (p.bytes.zipIdx.map (fun q => (q.1, nth 0 p.tags q.2))).take (m.len - p.off)
      .next (s1.landBytes c m.space bs.length (m.base + p.off) bs)

end Sys2Proof.Machine
end

