-- ==== Sys2Proof/Machine/Haulage.lean ====
section
/-! DEFINITION. The haulage instructions `hcopy`, `hpull`, `hstream`, `hsub` (R255 to R260). -/

namespace Sys2Proof.Machine

/-! ### Reading a card (R256, R258) -/

/-- The checks of a default load at a card's address, then the read as a default access: the slot leaves rotation. That the
card read of `hstream` takes a reply buffer as `hcopy`'s does is the model's choice (R247, assumption log 71). -/
def issueCard (x : Ctx) (kind : AKind) (addr : Word) (val : Word) (dst : Option Nat) (s : State) : Res :=
  let space := (s.slot x.c x.n).space
  let r : Req := { kind := kind, n := 8, addr := addr, val := val, dst := dst, never := true }
  match s.place x.c space addr.toNat .load with
  | .trap cause sub => .trap cause sub addr
  | .walk page => .wait [.walk space page]
  | .at l e =>
    let s := match e with
      | some t => s.touch x.c t
      | none => s
    let go (h : Home) : Res :=
      match s.issueWaits x.c x.n h l false r with
      | w :: ws => .wait (w :: ws)
      | [] => if 256 ≤ s.replyUse x.c then .wait [.replyRoom] else issueRemote x r h l s
    match l with
    | .pci _ _ => .trap 0x0A 5 addr
    | .far d va => go (s.farHome space d va .load)
    | l => go (homeOf x.c l)

def hcopyBody (x : Ctx) (v : Vals) (s : State) : Res :=
  issueCard x (.card false 0 false) v.a 0 (some x.o.d.toNat) s

/-- `hstream`: the stream must be unbound and B name a slot 0 to 61 with a task, when it issues and when its card has come
(R258). -/
def hstreamBody (x : Ctx) (v : Vals) (s : State) : Res :=
  let sm := x.o.d.toNat - 136
  if ((s.core x.c).stream sm).bound then .trap 1 5 (x.o.d.setWidth 64)
  else if 61 < v.b.toNat ∨ !(s.core x.c).holdsTask v.b.toNat then .trap 1 5 v.b
  else issueCard x (.card true sm (bitN x.fn 0)) v.a v.b none s

/-- The home reads the card: the header, then the regions that it counts; the lowest tag of a poisoned word. -/
def serveCard (a : Access) (s : State) : State × Reply :=
  if a.va % 64 ≠ 0 then (s, {})
  else
    let (s1, q) := s.unitLoads a.core a.slot a.space a.va 8
    match q with
    | .error t => (s, { trap := some t })
    | .ok hd =>
      let w0 := (nth {} hd 0).val.toNat
      let more := if (cardCounts w0).1 ≤ 8 ∧ (cardCounts w0).2 ≤ 8 then 2 * ((cardCounts w0).1 + (cardCounts w0).2) else 0
      let (s2, q2) := s1.unitLoads a.core a.slot a.space (a.va + 64) more
      match q2 with
      | .error t => (s, { trap := some t })
      | .ok tl =>
        let all := hd ++ tl
        let tag := all.foldl (fun t r => lowTag t (if r.poison then r.tag.toNat else 0)) 0
        (s2, { elems := all.map (fun r => { k := 0, va := 0, loc := .pad 0 0, n := 8, dat := r.val.toNat }),
               poison := decide (tag ≠ 0), tag := BitVec.ofNat 12 tag })

/-- The notified slot of a card; a hand-over slot whose task has ended is none, since its message is discarded (R136, R256). -/
def Core.notified (k : Core) (ds : List Nat) (handover : Option Nat) : Option Nat :=
  (match nbits (nth 0 ds 0) 31 2 with
  | 1 => some (nbits (nth 0 ds 1) 43 6)
  | 2 => handover
  | _ => none).filter k.holdsTask

/-- How an instruction that read a card goes on: a trap, a wait after which it is issued again, or the job. -/
inductive CardEnd where
  | trap (t : Trap)
  | wait (ws : List Wait)
  | job (j : Job) (notify : Option Nat)
  deriving DecidableEq, Repr

/-- The card of an access whose reply has come (R256, R258). -/
def State.cardEnd (s : State) (a : Access) : CardEnd :=
  let c := a.core
  let k := s.core c
  let sl := k.slot a.slot
  let ds := a.reply.elems.map (·.dat)
  let bad : CardEnd := .trap ⟨1, 5, BitVec.ofNat 64 a.va⟩
  let stream := match a.kind with
    | .card true sm out => some (sm, out)
    | _ => none
  match a.reply.trap with
  | some t => .trap t
  | none =>
    if a.reply.poison then .trap ⟨0x12, 0, a.reply.tag.setWidth 64⟩
    else if stream.isSome && !k.holdsTask a.val.toNat then .trap ⟨1, 5, a.val⟩
    else if a.va % 64 ≠ 0 ∨ !cardOk ds sl.handover k.holdsTask then bad
    else
      let streamBad := match stream with
        | some (_, out) => decide (nbits (nth 0 ds 0) 56 8 ≠ 1) || decide (nbits (nth 0 ds 4) 0 32 % 8 ≠ 0)
            || decide (nth 0 ds (if out then 2 else 3) ≠ 0)
        | none => false
      if streamBad then bad
      else
        let n := k.notified ds sl.handover
        let room : List Wait := if k.seq.length < 32 then [] else [.seqRoom]
        let book : List Wait := match n with
          | some m => if (k.slot m).sysUse < 8 then [] else [.book m]
          | none => []
        match room ++ book with
        | w :: ws => .wait (w :: ws)
        | [] =>
          let tw := n.map (fun m => (m, (k.slot m).taskw))
          let j := jobOf a.slot sl (s.launchOf c a.slot) a.va ds k.nextJob tw
          .job { j with stream := stream.map (·.1) } n

/-- A job starts from its card: the entry is booked, a stream bound, the job in the sequencer (R256, R258). -/
def State.cardStart (s : State) (a : Access) (j : Job) (n : Option Nat) : State :=
  let c := a.core
  let s1 := match n with
    | some m => s.modSlot c m (fun sl => { sl with booked := sl.booked + 1 })
    | none => s
  let s2 := match a.kind with
    | .card true sm out => if j.zero then s1 else
        s1.modCore c (fun k => k.setStream sm { bound := true, slot := a.val.toNat, out := out, job := j.no, total := j.total })
    | _ => s1
  s2.startJob c j

/-! ### hpull (R257) -/

def hpullBody (x : Ctx) (v : Vals) (s : State) : Res :=
  let k := s.core x.c
  let sl := k.slot x.n
  match k.kicks with
  | [] => .wait [.kickIn]
  | q :: rest =>
    let len := bitsN q.notice 48 16 * 64
    let src := bitsN q.notice 0 48
    if 8 ≤ sl.sysUse then .wait [.book x.n]
    else if 32 ≤ k.seq.length then .wait [.seqRoom]
    else
      let s1 := (s.modCore x.c (fun k => { k with kicks := rest })).modSlot x.c x.n (fun sl => { sl with booked := sl.booked + 1 })
      let dst := v.a + v.b
      let hdr : List Nat := [1 * 2 ^ 56 + 5 * 2 ^ 53 + 2 ^ 52 + 2 ^ 43 + 2 ^ 39, 0, src, dst.toNat,
        2 ^ 48 + 2 ^ 32 + len, 0, 0, 0, src, len, dst.toNat, len]
      let j := { jobOf x.n sl (s.launchOf x.c x.n) 0 hdr k.nextJob none with kicker := some q }
      (writeD x q.notice s1).andThen (fun s2 => .ok (s2.startJob x.c j))

/-! ### hsub (R259, R260) -/

/-- The routers of a die between a core and a root, both ends included: on the minimal route, or through an intermediate
quadrant `via` (R245). -/
def routerPath (cid root : Nat) (via : Option Nat) : List Nat :=
  let r := cid % 128 / 4
  let q := r / 8
  let q' := root / 8
  if q = q' then [r, root]
  else match via with
    | none => [r, 8 * q + 2 * q', 8 * q' + 2 * q, root]
    | some m => [r, 8 * q + 2 * m, 8 * m + 2 * q, 8 * m + 2 * q', 8 * q' + 2 * m, root]

/-- The intermediate quadrant that a free value stands for: a router takes one by the length of its queues, which the model
does not hold (assumption log 62). -/
def viaOf (cid root : Nat) (v : Word) : Option Nat :=
  if bit v 0 then (nth none (((rangeFrom 0 4).filter (fun m => m != cid % 128 / 32 && m != root / 8)).map some) (bitsN v 1 1)) else none

/-- Tags, other than `tag`, in the subscription table of router `x` of a die (R259). -/
def Dev.routerTags (v : Dev) (die x tag : Nat) : List Nat :=
  ((v.members.filter (fun m => dieOf m.core == die && m.tag != tag && m.path.contains x)).map (·.tag)).eraseDups

/-- The address and length that `hsub` admits. -/
def landingBad (b len : Word) : Option Word :=
  if b.toNat % 64 ≠ 0 then some b
  else if len.toNat % 64 ≠ 0 ∨ len = 0 then some len
  else if 2 ^ 24 < b.toNat + len.toNat then some b
  else none

/-- A default access to a tag's root. -/
def issueRoot (x : Ctx) (kind : AKind) (tag : Word) (base len : Word) (s : State) : Res :=
  let h := rootHome x.c (bitsN tag 0 16)
  let r : Req := { kind := kind, n := 0, addr := tag, val := base, aux := len }
  match s.issueWaits x.c x.n h (.pad 0 0) false r with
  | w :: ws => .wait (w :: ws)
  | [] => issueRemote x r h (.pad 0 0) s

/-- `hsub`: the join packet finds a full match table or a full router table (R260). -/
def hsubBody (x : Ctx) (v : Vals) (s : State) : Res :=
  let subs := (s.core x.c).subs
  if bitsN v.a 16 48 ≠ 0 then .trap 1 5 v.a
  else match landingBad v.b v.c with
    | some w => .trap 1 5 w
    | none =>
      if subs.any (fun m => m.tag == v.a.toNat) then .trap 1 5 v.a
      else issueRoot x .hsub v.a v.b v.c s

/-- `hsub.leave` goes to the tag's root. Bits [63:16] of A, which R260 wants 0 beside the subscribing form, are no fault here: the
root finds no such tag. That is the model's choice (assumption log 74). -/
def hsubLeaveBody (x : Ctx) (v : Vals) (s : State) : Res := issueRoot x .hleave v.a 0 0 s

/-- The root takes a join or a leave; the manual states no number for the back-off hint of a full table (R259, R260;
assumption log 4). -/
def serveSub (a : Access) (s : State) : State × Reply :=
  let c := a.core
  let d := devOf c
  let v := s.dv d
  if a.kind = .hleave then
    ((s.modDev d (fun v => { v with members := v.members.filter (fun m => !(m.core == c && m.tag == a.va)) })).modCore c
      (fun k => { k with subs := k.subs.filter (fun m => m.tag != a.va) }), {})
  else
  let (r, s) := s.freeVal
  let path := routerPath (cidOf c) (rootOf a.va) (viaOf (cidOf c) (rootOf a.va) r)
  if 32 ≤ (s.core c).subs.length ∨ path.any (fun x => decide (256 ≤ (v.routerTags (dieOf c) x a.va).length)) = true then
    (let (w, s) := s.freeVal; (s, { trap := some ⟨0x17, 5, w⟩ }))
  else if a.dead then (s, {})
  else
    let m : Sub := { tag := a.va, base := a.val.toNat, len := a.aux.toNat, space := a.space, acked := true }
    ((s.modDev d (fun v => { v with members := v.members ++ [{ tag := a.va, core := c, path := path }] })).modCore c
      (fun k => { k with subs := k.subs ++ [m] }), {})

/-! ### The instructions (R255) -/

def execHcopy (o : Opnd) (s : State) : Out := runLong 0x68 { d := .dregz, a := .src, role := .haulage } o hcopyBody s
def execHpull (o : Opnd) (s : State) : Out := runLong 0x69 { d := .dregz, a := .src, b := .src, role := .haulage } o hpullBody s
def execHsub (o : Opnd) (s : State) : Out := runLong 0x6A { a := .src, b := .src, c := .src, role := .haulage } o hsubBody s
def execHsubLeave (o : Opnd) (s : State) : Out := runLong 0x6A { a := .src, role := .haulage } o hsubLeaveBody s
def execHstream (o : Opnd) (s : State) : Out :=
  runLong 0x6B { d := .strm, a := .src, b := .src, role := .haulage } o hstreamBody s

end Sys2Proof.Machine
end

