-- ==== Sys2Proof/Machine/Channel.lean ====
section
/-! DEFINITION. The steps of accesses that every home shares: Arrive, Serve and Complete (R101, R244), escape moves
(R246, R347), and host loads with no completion (R329). -/

namespace Sys2Proof.Machine

/-! ### Arrive and Serve -/

/-- An earlier block of the same vector instruction has yet to arrive at the same home: the blocks arrive in ascending
order of their lowest element (R186). -/
def State.behindBlock (s : State) (a : Access) : Bool :=
  !a.elems.isEmpty && s.net.any (fun b => b.core == a.core && b.slot == a.slot && b.par == a.par && b.home == a.home
    && b.stage == .sent && decide (b.id < a.id))

/-- A channel moves an access to the tail of its home's FIFO; a store with tokens goes to its die's hold queue, and an answer
to its hold (R101, R352). -/
def execArrive (id : Nat) (s : State) : Out :=
  match s.acc id with
  | none => .next s
  | some a =>
    if a.stage ≠ .sent then .next s
    else if s.behindBlock a ∨ s.behindFlow a then .next (s.later (.arrive id))
    else match a.kind with
      | .stw => .next (s.later (.holdEnter id))
      | .answer ok => .next (s.answerArrives a ok)
      | _ =>
        let s1 : State := ({ s with fifo := s.fifo ++ [id] }.setAcc { a with stage := .queued }).settleFlows
        .next (if (s1.atHead id).isSome then s1.later (stepOf a) else s1)

/-- The kinds whose Serve step is an operation at an address (R97, R285). -/
def AKind.atAddress : AKind → Bool
  | .ld _ | .st | .amo _ _ _ | .cas _ | .vread | .vwrite | .stt | .stw | .gquery | .gfree | .jwrite | .jamo _ => true
  | _ => false

/-- The memory port of a core logs what it serves (R263). -/
def State.traced (s : State) (a : Access) : State :=
  match a.home with
  | .memPort c => s.trace c a
  | _ => s

/-- A home performs the access at the head of its FIFO, in one step. -/
def execServe (id : Nat) (s : State) : Out :=
  match s.atHead id with
  | none => .next s
  | some a =>
    let done (p : State × Reply) : Out := .next (p.1.answer a p.2)
    if a.kind.atAddress then done ((s.traced a).served a)
    else match a.kind with
      | .spawn => done (serveSpawn a s)
      | .lvget item => done (serveLvget item a s)
      | .lvcommit => (match serveLvcommit a s with
        | (s1, some r) => .next (s1.answer a r)
        | (s1, none) => .next ((s1.discardStep a.core a.slot).sink a))
      | .tokq => done (serveTokq a s)
      | .card _ _ _ => done (serveCard a (s.traced a))
      | .hsub | .hleave => done (serveSub a s)
      | _ => .next s

/-! ### Values that wait at runq (R50, R128) -/

/-- Put the values that wait at runq into the priorities that have room, in their order. -/
def Core.placeRunq (k : Core) : Core :=
  let (k, left) := k.runqWait.foldl (fun (p : Core × List PEntry) e =>
    let q := runqKey (prioOf e.val)
    if (p.1.port q).length < 64 && !(p.2.any (fun f => prioOf f.val == prioOf e.val)) then
      (p.1.setPort q (p.1.port q ++ [{ e with key := 0 }]), p.2)
    else (p.1, p.2 ++ [e])) (k, [])
  { k with runqWait := left }

/-- A long-latency push of runq is placed when its priority has room; an access that waited for that is complete. -/
def execRunqDeferredPlace (c : Nat) (s : State) : Out :=
  let s1 := s.modCore c Core.placeRunq
  let left := (s1.core c).runqWait.map (·.key)
  .next (({ s1 with net := s1.net.filter (fun a => !(a.core == c && a.stage == .placing && !left.contains a.id)) } : State).releaseHeld c)

/-- A value that its access must leave waiting at runq. -/
def State.atRunq (s : State) (a : Access) : Bool :=
  decide (a.dst = .runq) && !a.dead && a.reply.trap.isNone && !(s.slot a.core a.slot).paired
    && !(s.core a.core).runqOpen (prioOf a.reply.val)

/-- The access is not complete until its value is placed. -/
def State.waitAtRunq (s : State) (a : Access) : State :=
  let e : PEntry := { val := a.reply.val, poison := a.reply.poison, tag := a.reply.tag, key := a.id, writer := a.slot }
  (s.setAcc { a with stage := .placing }).modCore a.core (fun k => { k with runqWait := k.runqWait ++ [e] })

/-! ### Complete -/

/-- A trap that a reply reports: nothing is written, and the slot takes it at its next turn (R27, R111). -/
def State.replyTrap (s : State) (a : Access) (t : Trap) : State :=
  let s1 := if a.booked then s.unbook a.core a.slot else s
  let s2 := (s1.undoDst a.core a.dst a.dstWas).lvqFill a.core a.slot a.id { val := 0, trap := some t }
  s2.lateTrap a.core a.slot a.pc a.popped t

/-- What a relaxed `dlv` or `stw` leaves in its slot's message queue (R108, R136, R355). -/
def State.replyMessage (s : State) (a : Access) : State :=
  if !a.relaxed then s
  else match a.kind with
    | .dlv => s.dlvMessage a.core a.slot (BitVec.ofNat 64 a.va) a.reply.refused
    | .stw => if a.reply.val ≠ 0 ∧ !a.reply.refused then s.sysMsg a.core a.slot a.reply.val else s.unbook a.core a.slot
    | _ => s

/-- The reply of a slot's access: its destination is written full. -/
def State.replySlot (s : State) (a : Access) : State :=
  let r := a.reply
  match r.trap with
  | some t => s.replyTrap a t
  | none => ((s.deliver a.core a.slot a.dst r.val r.poison r.tag a.pc).lvqFill a.core a.slot a.id
      { val := r.val, poison := r.poison, tag := r.tag }).replyMessage a

/-- The reply of a card read: the job starts, or the instruction traps or is issued again (R256, R258). -/
def State.replyCard (s : State) (a : Access) : State :=
  match s.cardEnd a with
  | .trap t => s.replyTrap a t
  | .wait ws =>
    let s1 := (s.undoDst a.core a.dst a.dstWas).modCore a.core (fun k => a.popped.foldr (fun p k => k.unpop a.slot p) k)
    s1.modSlot a.core a.slot (fun sl => { sl with run := .out ws, pc := a.pc })
  | .job j n => (s.deliver a.core a.slot a.dst (BitVec.ofNat 64 j.no) false 0 a.pc).cardStart a j n

/-- A job's write is acknowledged, or met a fault at its home (R252, R345). A fault found once STATUS is posted is in
neither STATUS nor the message (assumption log 61). -/
def State.replyWrite (s : State) (a : Access) : State :=
  let c := a.core
  let failed := a.reply.trap.map (fun t => ((if t.cause = 9 then 1 else 2), a.va))
  let s1 := match (s.core c).job a.jobNo with
    | some j => if j.posted.contains a.id && !j.statusDone then s.setJob c { j with err := j.err <|> failed } else s
    | none => s
  let d := devOf c
  let g := bitsN a.taskw 44 6
  ((s1.later (.jobComplete c a.jobNo)).later (.nodeComplete d g (a.par - 1) (bitsN a.taskw 32 12))).later (.launchComplete d g (a.par - 1))

/-- What a reply does, once its access has left its slot's registers. -/
def State.reply (s : State) (a : Access) : State :=
  if a.slot = 64 then (if a.kind = .ld false then s.readBack a else s.replyWrite a)
  else match a.kind with
    | .vread | .vwrite => s.memPart a
    | .card _ _ _ => if a.dead then s else s.replyCard a
    | _ => if a.dead || a.loose then s else s.replySlot a

/-- A channel hands a reply to its slot. -/
def execComplete (id : Nat) (s : State) : Out :=
  match s.acc id with
  | none => .next s
  | some a =>
    if a.stage ≠ .replied then .next s
    else if s.behindFlow a then .next (s.later (.complete id))
    else if s.atRunq a then .next (s.waitAtRunq a)
    else .next (((({ s with net := s.net.filter (fun b => b.id != id) }.reply a).releaseHeld a.core).killGoOn a.core a.slot).settleFlows)

/-! ### Networks (R246, R347) -/

/-- The packets of the request network of a die (R246). -/
def AKind.request : AKind → Bool
  | .mcast | .hsub | .hleave | .notice _ | .query _ | .answer _ | .slsend => false
  | _ => true

/-- A request that has waited moves to the escape network of its die, once; no rule of ordering changes (R246). -/
def execEscapeReroute (id : Nat) (s : State) : Out :=
  match s.acc id with
  | some a => if a.stage = .sent ∧ a.kind.request then .next (s.setAcc { a with escape := true }) else .next s
  | none => .next s

/-- A packet that holds a switch's buffer moves to the escape channel, with every later packet of its flow, and the flow
stays there until its packets in the normal channel are gone (R347). -/
def execEscapeChannelMove (id : Nat) (s : State) : Out :=
  match s.acc id with
  | some a =>
    if !a.crossing then .next s
    else
      let f := s.flowOf a
      let net := s.net.takeWhile (fun b => b.id != id) ++
        (s.net.dropWhile (fun b => b.id != id)).map (fun b => if b.crossing && s.flowOf b == f then { b with aside := true } else b)
      .next { s with net := net, flows := if s.flows.contains f then s.flows else s.flows ++ [f] }.settleFlows
  | none => .next s

/-! ### Host loads (R329) -/

/-- A load of a host or peer page with no completion within 50 ms fills its destination poisoned; a page of another panel is
none of them (R348). -/
def execHostLoadTimeout (id : Nat) (s : State) : Out :=
  match s.acc id with
  | none => .next s
  | some a =>
    match a.kind, a.home with
    | .ld _, .host d =>
      let hosted : Bool := match s.resolve a with
        | .at (.pci _ addr) _ => decide (addr < farPanel)
        | _ => false
      if hosted ∧ (a.stage = .sent ∨ a.stage = .queued) then
        let (tag, s1) := s.logErr d clsHost a.space none (BitVec.ofNat 64 a.va) (s.dv d).cycle (s.coreId a.core)
        let (v, s2) := s1.freeVal
        .next (s2.answer a { val := v, poison := true, tag := BitVec.ofNat 12 tag })
      else .next s
    | _, _ => .next s

end Sys2Proof.Machine
end

