-- ==== Sys2Proof/Machine/Place.lean ====
section
/-! DEFINITION. Placement: seats, hints and bands, save areas of a pool, the placement release, and the start of
tasks (R17, R122, R123, R211, R214, R216, R228, R230, R300 to R302, R363). -/

namespace Sys2Proof.Machine

/-! ### Seats (R211) -/

/-- A seat: core, slot, and the windows' first registers; the second scalar window is the trailing slot's (R216). -/
structure Seat where
  core : Nat
  slot : Nat
  sbase : Nat := 0
  vbase : Nat := 0
  sbase2 : Nat := 0
  deriving DecidableEq, Repr

/-- What a task needs of a core; `kept` is a matrix seat that it holds there already. -/
structure Need where
  matrix : Bool := false
  haulage : Bool := false
  paired : Bool := false
  scount : Nat
  vcount : Nat
  kept : Bool := false
  deriving DecidableEq, Repr

def needOf (nd : GNode) : Need :=
  { matrix := nd.role == 1, haulage := nd.role == 2, paired := nd.paired, scount := nd.scount, vcount := nd.vcount }

/-- The lowest run of `n` free registers below `cap` at a multiple of `align`. -/
def freeRun (used : List (Nat × Nat)) (cap align n : Nat) : Option Nat :=
  let ok (b : Nat) : Bool := decide (b + n ≤ cap) && !used.any (fun u => overlap b n u.1 u.2)
  ((0 :: used.map (fun u => ceilTo align (u.1 + u.2))).filter ok).foldl
    (fun m b => match m with
      | none => some b
      | some a => some (min a b)) none

/-- The windows in use on a core. -/
def Core.windows (k : Core) (f : Slot → Nat × Nat) : List (Nat × Nat) :=
  k.slots.filterMap (fun p => if p.2.run = .free then none else some (f p.2))

/-- Matrix seats of a core in use; a spilled matrix-role task keeps its seat (R123). -/
def State.matrixSeats (s : State) (c : Nat) : Nat :=
  ((s.core c).slots.filter (fun p => decide (p.2.run ≠ .free) && p.2.matrix)).length +
  ((s.dv (devOf c)).tasks.filter (fun p => p.2.matrix && p.2.core == c && p.2.away)).length

/-- A seat in slot `n` of a core. -/
def State.seatAt (s : State) (c n : Nat) (w : Need) : Option Seat :=
  let k := s.core c
  if (k.slot n).run ≠ .free ∨ (w.paired ∧ (k.slot (n + 1)).run ≠ .free) ∨
      (w.matrix ∧ 4 ≤ s.matrixSeats c - b2n w.kept) then none
  else
    let used := k.windows (fun sl => (sl.sbase, sl.scount))
    match freeRun used 2016 1 w.scount, freeRun (k.windows (fun sl => (sl.vbase, sl.vcount))) 256 4 w.vcount with
    | some sb, some vb =>
      if w.paired then (freeRun ((sb, w.scount) :: used) 2016 1 w.scount).map
        (fun sb2 => { core := c, slot := n, sbase := sb, vbase := vb, sbase2 := sb2 })
      else some { core := c, slot := n, sbase := sb, vbase := vb }
    | _, _ => none

/-- The slots that a task may take, lowest first (R122, R211, R216). -/
def slotsFor (w : Need) : List Nat :=
  if w.haulage then [63] else if w.paired then (rangeFrom 0 31).map (2 * ·) else rangeFrom 0 62

/-- A seat on a core: the lowest free slot, and the lowest windows. -/
def State.seatOn (s : State) (c : Nat) (w : Need) : Option Seat :=
  ((slotsFor w).find? (fun n => decide (((s.core c).slot n).run = .free) &&
    (!w.paired || decide (((s.core c).slot (n + 1)).run = .free)))).bind (fun n => s.seatAt c n w)

/-- Four seats at one slot index on the cores of a gang, for needs by core-in-gang (R228). -/
def State.seatGang (s : State) (base : Nat) (w : Nat → Need) : Option (List Seat) :=
  (slotsFor (w 0)).findSome? (fun n =>
    let q := (rangeFrom 0 4).filterMap (fun j => s.seatAt (base + j) n (w j))
    if q.length = 4 then some q else none)

/-! ### Hints and bands (R213, R300) -/

/-- The cores of bands 0 to `radius` from a hint core, band by band. -/
def bandCores (hint radius : Nat) : List Nat :=
  hint :: (([(4, 1), (32, 4), (128, 32), (512, 128)].take radius).flatMap (fun p =>
    (rangeFrom (hint / p.1 * p.1) p.1).filter (fun c => c / p.2 != hint / p.2)))

/-- OwnerCore of an address of a space, none where it does not translate. -/
def State.ownerCore (s : State) (d space va : Nat) : Option Nat :=
  match areaOf va with
  | .pad cid _ => some cid
  | .xlat => (match s.walk d space va with
    | .leaf e => if e.tgt = 0 then some (ownerOfLoc (leafLoc d e va) (some e)) else none
    | .fault _ => none)
  | _ => none

/-- The hint core of a task. -/
def State.hintOf (s : State) (d : Nat) (r : TaskRec) : Nat :=
  let nd := s.gnode d r.graph r.node
  let space := (s.graph d r.graph).space
  let other := (r.spawnDie.map (· * 128)).getD 0
  if nd.hint = 0 then nd.hcore
  else if nd.hint = 1 then (s.ownerCore d space (nth (entryOf 0) r.regs nd.hreg).val.toNat).getD other
  else
    let b := r.num % 65536
    (s.ownerCore d space (nd.buffer b (!(nth {} nd.board b).buf))).getD other

/-- The record of a hint whose page-table entry is read poisoned (R279). -/
def State.noteHint (s : State) (d : Nat) (r : TaskRec) : State :=
  let nd := s.gnode d r.graph r.node
  let at' (va : Nat) : State := if areaOf va = .xlat then s.noteRoot d (s.graph d r.graph).space va else s
  if nd.hint = 0 then s
  else if nd.hint = 1 then at' (nth (entryOf 0) r.regs nd.hreg).val.toNat
  else at' (nd.buffer (r.num % 65536) (!(nth {} nd.board (r.num % 65536)).buf))

/-- The first seat within a task's bands. -/
def State.seatBands (s : State) (d : Nat) (r : TaskRec) (w : Need) : Option Seat :=
  (bandCores (s.hintOf d r) (s.gnode d r.graph r.node).radius).findSome? (fun cid => s.seatOn (d * 512 + cid) w)

/-- The first gang within a task's bands that seats four. -/
def State.seatGangs (s : State) (d : Nat) (r : TaskRec) (w : Nat → Need) : Option (List Seat) :=
  ((bandCores (s.hintOf d r) (s.gnode d r.graph r.node).radius).map gangBase).eraseDups.findSome?
    (fun b => s.seatGang (d * 512 + b) w)

/-! ### Tasks that start (R228, R230, R298, R301, R314) -/

/-- The seats that a waiting task, or a gang's four, would start on. A killed gang member starts again in its own
slot (R230). -/
def State.freshSeats (s : State) (d t : Nat) (r : TaskRec) : Option (List (Nat × Seat)) :=
  let nd := s.gnode d r.graph r.node
  let w := needOf nd
  if nd.gang ∧ r.home then
    let sl := s.slot r.core r.slot
    if sl.again then some [(t, { core := r.core, slot := r.slot, sbase := sl.sbase, vbase := sl.vbase })]
    else if (s.gangTasks d r).any (fun p => p.2.away) then none
    else (s.seatAt r.core r.slot w).map (fun q => [(t, q)])
  else if nd.gang then
    let ms := (s.gangTasks d r).filter (fun p => p.2.st == .waiting && !p.2.home)
    if ms.length ≠ 4 then none
    else (s.seatGangs d (ms.headD (t, r)).2 (fun _ => w)).map (fun qs => (ms.map (·.1)).zip qs)
  else (s.seatBands d r w).map (fun q => [(t, q)])

/-! ### Save areas (R363) -/

/-- The lowest free areas of a pool for `n` tasks, each as its index + 1; zeros where the graph has no pool. -/
def takeAreas (saven : Nat) (used : List Nat) : Nat → Option (List Nat)
  | 0 => some []
  | n + 1 =>
    if saven = 0 then (takeAreas saven used n).map (0 :: ·)
    else match firstFrom (fun i => !used.contains i) 0 saven with
      | none => none
      | some i => (takeAreas saven (i :: used) n).map ((i + 1) :: ·)

/-- The address of an area. -/
def Graph.areaAddr (g : Graph) (area : Nat) : Nat := if area = 0 then 0 else (g.save + 20480 * (area - 1)) % 2 ^ 64

/-! ### The placement release (R298, R302) -/

/-- The narrowest scope that encloses two cores. -/
def enclosing (a b : Nat) : Nat :=
  if a = b then 1 else if a / 4 = b / 4 then 2 else if a / 32 = b / 32 then 3 else if a / 128 = b / 128 then 4 else 5

/-- The footprint of a node in a launch (R292, R296). -/
def Graph.foot (g : Graph) (lno n : Nat) : List Region × List Region :=
  match g.launch lno with
  | some l => nth ([], []) l.foot n
  | none => ((nth noNode g.nodes n).reads, (nth noNode g.nodes n).writes)

/-- Two footprints conflict (R209, R298). -/
def footMeet (x y : List Region × List Region) : Bool := meetRegions x.2 (y.1 ++ y.2) || meetRegions y.2 (x.1 ++ x.2)

/-- A node of a launch comes before another, and they conflict (R298). -/
def Graph.dependsOn (g : Graph) (lno n lno' n' : Nat) : Bool :=
  (lno' != lno || decide (n' < n)) && footMeet (g.foot lno n) (g.foot lno' n')

/-- Jobs of predecessor tasks with writes within W not yet acknowledged, for a task seated on core `c`: core, job and W. -/
def State.placementWait (s : State) (d : Nat) (r : TaskRec) (c : Nat) : List (Nat × Nat × Nat) :=
  let g := s.graph d r.graph
  let scope (node at' : Nat) : Nat := max (nth noNode g.nodes node).cscope (enclosing at' c)
  let before (taskw : Word) (lno : Nat) : Bool :=
    decide (bitsN taskw 44 6 = r.graph) && g.dependsOn r.launch r.node lno (bitsN taskw 32 12)
  let flying := (s.net.filter (fun a => a.slot == 64 && devOf a.core == d && before a.taskw (a.par - 1) &&
    inScope a.core (scope (bitsN a.taskw 32 12) a.core) a.home)).map
      (fun a => (a.core, a.jobNo, scope (bitsN a.taskw 32 12) a.core))
  let running := (s.cores.filter (fun (p : Nat × Core) => devOf p.1 == d)).flatMap (fun (p : Nat × Core) =>
    (p.2.seq.filter (fun j => before j.taskw j.launch &&
      j.writes.any (s.regionIn p.1 j.space (scope (bitsN j.taskw 32 12) p.1)))).map
        (fun j => (p.1, j.no, scope (bitsN j.taskw 32 12) p.1)))
  flying ++ running

/-! ### Starting a task (R17, R211) -/

/-- A slot's state and registers are set: its windows zero, full and unpoisoned but for the registers given. -/
def State.occupy (s : State) (c n : Nat) (sl : Slot) (regs : List Entry) : State :=
  let s1 := { s with badRegs := s.badRegs.filter (fun b =>
    !(b.1 == c && b.2.1 == 1 && decide (sl.vbase ≤ b.2.2) && decide (b.2.2 < sl.vbase + sl.vcount))) }
  s1.modCore c (fun k =>
    ((regs.take sl.scount).zipIdx.foldl (fun k p => k.setEntry (sl.sbase + p.2) p.1) (k.scrub sl)).setSlot n sl)

/-- %savearea with an address: its reserved bits read zero (R4, R32). -/
def saveReg (a : Nat) : Word := BitVec.ofNat 64 a &&& 0x00FFFFFFFFFFF000

/-- The slot of a task that starts. -/
def freshSlot (g : Graph) (nd : GNode) (t : Nat) (r : TaskRec) (q : Seat) (area now : Nat) : Slot where
  pc := BitVec.ofNat 56 nd.entry
  taskw := BitVec.ofNat 64 r.word
  savearea := saveReg (g.areaAddr area)
  space := g.space
  sbase := q.sbase
  scount := nd.scount
  vbase := q.vbase
  vcount := nd.vcount
  task := t
  matrix := nd.role == 1
  haulage := nd.role == 2
  gang := nd.gang
  paired := nd.paired
  level := nd.kind == 2
  dogFrom := now

/-- A task is off the list of those waiting for a seat. -/
def State.offList (s : State) (d t : Nat) : State := s.modDev d (fun v => { v with arrivals := v.arrivals.filter (fun x => x != t) })

/-- A seated block runs, its neighbours recorded; a PROVISIONAL one was recorded at its start (R306, R311, R315). -/
def State.runBlock (s : State) (d : Nat) (r : TaskRec) : State :=
  let nd := s.gnode d r.graph r.node
  let b := r.num % 65536
  let x := nth {} nd.board b
  if nd.kind = 2 ∧ x.st = .ready then
    let s1 := s.setBlock d r.graph r.node b { x with st := .running, recs := nbrRecs nd x }
    if nd.runahead then s1.evalNode d r.graph r.node else s1
  else s

/-- A task starts on its seat and joins rotation after the placement release (R211, R302). -/
def State.startTask (s : State) (d t : Nat) (r : TaskRec) (q : Seat) (area : Nat) : State :=
  let g := s.graph d r.graph
  let nd := s.gnode d r.graph r.node
  let wait := match s.placementWait d r q.core with
    | [] => Wait.over
    | l => Wait.placement l
  let sl := { freshSlot g nd t r q area (s.now q.core) with run := .out [wait] }
  let s1 := s.occupy q.core q.slot sl (r.regs.take 24)
  let s2 := if nd.paired then
      (s1.occupy q.core (q.slot + 1) { sl with sbase := q.sbase2 } (r.regs.take 24)).modCore q.core (fun k => k.setPair (q.slot / 2) {})
    else s1
  let s3 := (s2.offList d t).setTask d t { r with
    st := .seated, core := q.core, slot := q.slot, seated := (s.dv d).cycle, ran := 0, area := area, matrix := nd.role == 1,
    home := false, carry := none }
  (if area = 0 then s3 else s3.modGraph d r.graph (fun g => { g with areas := g.areas ++ [area - 1] })).runBlock d r

/-- The seats and the save areas on which a waiting task would start now. -/
def State.startPlan (s : State) (d t : Nat) (r : TaskRec) : Option (List ((Nat × Seat) × Nat)) :=
  let g := s.graph d r.graph
  if r.st ≠ .waiting ∨ !s.mayStart d r then none
  else match s.freshSeats d t r with
    | none => none
    | some qs => (takeAreas g.saven g.areas qs.length).map (fun as => qs.zip as)

/-! ### Restored and moving tasks -/

/-- What a spilled task needs: its windows are those that its save area names (R118, R119). -/
def State.savedNeed (s : State) (d : Nat) (r : TaskRec) : Need :=
  let w := needOf (s.gnode d r.graph r.node)
  match s.vdword d (s.graph d r.graph).space (r.savearea.toNat + 0x58) with
  | some x => { w with scount := nbits x 0 8, vcount := nbits x 32 8, kept := w.matrix }
  | none => { w with kept := w.matrix }

/-- The seats on which a spilled task, or the members of a spilled gang, would be restored: none, or by task
number within the gang (R119, R230, R241). -/
def State.restoreSeats (s : State) (d : Nat) (r : TaskRec) : Option (List Seat) :=
  let nd := s.gnode d r.graph r.node
  if (r.st ≠ .spilled ∧ !s.reseats d r) ∨ (s.graph d r.graph).quiesced then none
  else if nd.gang then
    let ms := s.gangTasks d r
    let live := ms.filter (fun p => p.2.st == .spilled)
    if ms.any (fun p => p.2.st != .spilled && p.2.st != .lost && p.2.st != .waiting) then none
    else
      let need (j : Nat) : Need := match live.find? (fun p => p.2.num % 4 == j) with
        | some p => s.savedNeed d p.2
        | none => needOf nd
      match live.find? (fun p => p.2.home) with
      | some p => s.seatGang (gangBase p.2.core) need
      | none => s.seatGangs d r need
  else if r.home then (s.seatOn r.core (s.savedNeed d r)).map (fun q => [q])
  else (s.seatBands d r (s.savedNeed d r)).map (fun q => [q])

/-- The seats that a moving task may take, within the radius of its hint (R214). -/
def State.moveSeats (s : State) (d : Nat) (r : TaskRec) : List Seat :=
  match r.carry with
  | none => []
  | some y => (bandCores y.hint y.radius).filterMap (fun cid => s.seatOn (d * 512 + cid) { scount := y.slot.scount, vcount := 0 })

/-- Whether a waiting task could be seated now. -/
def State.seatable (s : State) (d t : Nat) (r : TaskRec) : Bool :=
  match r.st with
  | .waiting => (s.startPlan d t r).isSome || (s.restoreSeats d r).isSome
  | .spilled => (s.restoreSeats d r).isSome
  | .transit => decide (s.moveSeats d r ≠ [])
  | _ => false

/-- Seats go to waiting tasks in their order (R301): a task ahead that could be seated is seated first. -/
def State.inTurn (s : State) (d t : Nat) (k : State → Out) : Out :=
  match ((s.ranked d).takeWhile (fun p => p.1 != t)).find? (fun p => s.seatable d p.1 p.2) with
  | some p => .next ((s.later (seatStep d p.1 p.2)).later (match s.taskRec d t with
    | some r => seatStep d t r
    | none => .taskPlace d t))
  | none => k s

/-! ### Events -/

/-- The headframe seats a waiting task, or the four of a gang in one step. -/
def execTaskPlace (d t : Nat) (s : State) : Out :=
  match s.taskRec d t with
  | none => .next s
  | some r => match s.startPlan d t r with
    | none => .next (if s.reseats d r then s.later (.restore d t) else s)
    | some plan => s.inTurn d t (fun s => .next (plan.foldl (fun (s : State) p =>
        match s.taskRec d p.1.1 with
        | some m => s.startTask d p.1.1 m p.1.2 p.2
        | none => s) (s.noteHint d r)))

/-- A seat out of several where the manual does not name one (assumption log 4). -/
def pickSeat (qs : List Seat) (s : State) : Option (Seat × State) :=
  match qs with
  | [] => none
  | [q] => some (q, s)
  | q :: r => let (v, s1) := s.freeVal; some (nth q (q :: r) (v.toNat % (r.length + 1)), s1)

/-- A task moved by `go` is seated within the radius of its hint; what it carries is restored, and the rest of its
window is zero and full (R214). -/
def execTaskMigrateSeat (d t : Nat) (s : State) : Out :=
  match s.taskRec d t with
  | none => .next s
  | some r => match r.st, r.carry, pickSeat (s.moveSeats d r) s with
    | .transit, some y, some (q, _) => s.inTurn d t (fun s =>
        let s1 := match pickSeat (s.moveSeats d r) s with
          | some p => p.2
          | none => s
        let persist := (s.gnode d r.graph r.node).kind = 1
        let sl := { y.slot with
          run := .out [.over], sbase := q.sbase, vbase := q.vbase, msgs := [], booked := 0, acqs := [], rels := [],
          dogFrom := s.now q.core, dogRan := if persist then 0 else r.ran }
        .next (((s1.occupy q.core q.slot sl y.regs).offList d t).setTask d t
          { r with st := .seated, core := q.core, slot := q.slot, seated := (s.dv d).cycle, carry := none }))
    | _, _, _ => .next s

end Sys2Proof.Machine
end

