-- ==== Sys2Proof/Machine/Fetch.lean ====
section
/-! DEFINITION. Fetching the words of an instruction (R36, R37, R57 steps 2 to 4). -/

namespace Sys2Proof.Machine

/-- One word fetched: the word, a trap, or a page whose walk must end first. -/
inductive Word32 where
  | word (w : BitVec 32)
  | trap (t : Trap)
  | walk (va : Nat)
  deriving DecidableEq, Repr

/-- The word at an address (R37): only translated device memory, read-only and executable. The manual names a 64 KiB
instruction cache (R8) and says nothing of a word that it may still hold after code memory is written; the model's fetch
reads memory as it is (DESIGN CHOICE, assumption log 60). -/
def State.fetchWord (s : State) (c space va : Nat) : Word32 :=
  match areaOf va with
  | .near _ | .pad _ _ | .panel _ _ => .trap ⟨0x0A, 1, BitVec.ofNat 64 va⟩
  | .bad => .trap ⟨0x09, 1, BitVec.ofNat 64 va⟩
  | .xlat => match placeOf (devOf c) va .fetch (s.look c space va) with
    | .at (.dram d pa) _ => .word (BitVec.ofNat 32 (s.readNum space (.dram d pa) 4))
    | .at _ _ => .trap ⟨0x0A, 1, BitVec.ofNat 64 va⟩
    | .trap cause _ => .trap ⟨cause, 1, BitVec.ofNat 64 va⟩
    | .walk _ => .walk va

/-- What a turn fetches. -/
inductive Fetched where
  | words (w0 w1 w2 : BitVec 32)
  | trap (t : Trap)
  | walk (va : Nat)
  deriving DecidableEq, Repr

/-- The translation entry that a fetch used moves to the front of the core's buffer (R280). -/
def State.touchFetch (s : State) (c space va : Nat) : State :=
  match s.look c space va with
  | .hit e => s.touch c e
  | _ => s

/-- The address `n` words past a pc (R42: addresses wrap at 56 bits). -/
def wordVa (pc : BitVec 56) (n : Nat) : Nat := (pc + BitVec.ofNat 56 (4 * n)).toNat

/-- All words of the instruction at a slot's pc; a word with no length is fetched alone (R36). -/
def State.fetch (s : State) (c n : Nat) : Fetched :=
  let sl := s.slot c n
  match s.fetchWord c sl.space (wordVa sl.pc 0) with
  | .trap t => .trap t
  | .walk va => .walk va
  | .word w0 =>
    if wordsOf w0 ≤ 1 then .words w0 0 0
    else match s.fetchWord c sl.space (wordVa sl.pc 1) with
      | .trap t => .trap t
      | .walk va => .walk va
      | .word w1 =>
        if wordsOf w0 = 2 then .words w0 w1 0
        else match s.fetchWord c sl.space (wordVa sl.pc 2) with
          | .trap t => .trap t
          | .walk va => .walk va
          | .word w2 => .words w0 w1 w2

/-- A fetch that met a poisoned page-table entry has written its record (R279). -/
def State.fetchNote (s : State) (c n : Nat) (va : Nat) : State :=
  match s.look c (s.slot c n).space va with
  | .fault sub => s.noteWalk (devOf c) (s.slot c n).space va sub (s.coreId c)
  | _ => s

/-- The state after the words were fetched. -/
def State.fetched (s : State) (c n : Nat) (words : Nat) : State :=
  let sl := s.slot c n
  (rangeFrom 0 words).foldl (fun (x : State) k => x.touchFetch c sl.space (wordVa sl.pc k)) s

end Sys2Proof.Machine
end

