-- ==== Sys2Proof/Machine/Posted.lean ====
section
/-! DEFINITION. The commit queues of the host interface: posted writes by requester, in order (R325, R328). -/

namespace Sys2Proof.Machine

/-- The commit queue of a requester (R328). -/
def Dev.queue (v : Dev) (r : Nat) : List Posted := tabGet [] v.posted r

/-- What a BAR 0 offset is (R325). -/
def isTrig (off : Nat) : Bool := decide (0x1000 ≤ off) && decide (off < 0x1080)
def isCmdDb (off : Nat) : Bool := decide (0x3000 ≤ off) && decide (off < 0x3008)
def isPlimit (off : Nat) : Bool := decide (0x4000 ≤ off) && decide (off < 0x4008)

/-- The steps that may take a write when it reaches the head of its queue. -/
def postSteps (d r : Nat) (w : Posted) : List Instr :=
  if w.bar2 then [.hostBar2Write d r]
  else if isTrig w.off then [.triggerWrite d r]
  else if isCmdDb w.off then [.cmddbOverrun d r, .bar0RegisterWrite d r]
  else if isPlimit w.off then [.plimitWrite d r]
  else [.bar0RegisterWrite d r]

/-- A posted write enters its requester's queue at the tail. -/
def State.enterPost (s : State) (d r : Nat) (w : Posted) : State :=
  let s := s.modDev d (fun v => { v with posted := tabPut v.posted r (v.queue r ++ [w]) })
  { s with agenda := s.agenda ++ (postSteps d r w).map .event }

/-- The writes of a requester that wait for flow-control credits (R328). -/
def Dev.waitingPosts (v : Dev) (r : Nat) : List Posted := tabGet [] v.withheld r

/-- A posted write arrives: it enters its requester's queue, or waits behind it while the queue holds 512 writes and the
interface withholds credits (R328). -/
def State.arrivePost (s : State) (d r : Nat) (w : Posted) : State :=
  if 512 ≤ ((s.dv d).queue r).length then
    s.modDev d (fun v => { v with withheld := tabPut v.withheld r (v.waitingPosts r ++ [w]) })
  else s.enterPost d r w

/-- The head write of a queue is taken off it, and the oldest write that waits for credits follows. -/
def State.takePost (s : State) (d r : Nat) : State :=
  let s1 := s.modDev d (fun v => { v with posted := tabPut v.posted r (v.queue r).tail })
  match (s1.dv d).waitingPosts r with
  | [] => s1
  | w :: ws => (s1.modDev d (fun v => { v with withheld := tabPut v.withheld r ws })).enterPost d r w

/-! ### Commands (R333, R334) -/

/-- Dword `i` of CMDBUF. -/
def Dev.cmdw (v : Dev) (i : Nat) : Nat := (tabGet 0 v.cmdbuf i).toNat

/-- The argument dwords of each command. -/
def cmdLen : Nat → Option Nat
  | 1 => some 0
  | 2 => some 4
  | 3 => some 2
  | 4 => some 3
  | 5 => some 9
  | 6 => some 3
  | 7 => some 1
  | 8 => some 1
  | 9 => some 2
  | 10 => some 1
  | 11 => some 3
  | 12 => some 1
  | 13 => some 2
  | _ => none

/-- The command in CMDBUF, with the variant that its first argument names: CMD x 4 + variant; none where CMD is not
listed or LEN is wrong for it. -/
def Dev.command (v : Dev) : Option Nat :=
  let cmd := nbits (v.cmdw 0) 0 8
  let w := v.cmdw 1
  if cmdLen cmd ≠ some (nbits (v.cmdw 0) 8 16) then none
  else if cmd = 4 then some (16 + (if nbits w 17 1 = 1 then 2 else nbits w 16 1))
  else if cmd = 8 then some (32 + nbits w 18 1)
  else if cmd = 13 then some (52 + nbits w 6 2 % 3)
  else some (4 * cmd)

/-- The step that serves a command. -/
def commandStep : Nat → Instr
  | 4 => .identify
  | 8 => .attest
  | 12 => .loadFirmware
  | 16 => .map
  | 17 => .mapDeferred
  | 18 => .mapAperture
  | 20 => .keySet
  | 24 => .graphLoad
  | 28 => .graphUnload
  | 32 => .nodeResumeContinue
  | 33 => .nodeResumeRerun
  | 36 => .resetScope
  | 40 => .errorLogRead
  | 44 => .watchConfig
  | 48 => .linkStatus
  | 52 => .checkpointQuiesce
  | 53 => .checkpointRelease
  | _ => .checkpointAdopt

/-- The step of the command being served is due. -/
def State.dueCommand (s : State) (d : Nat) : State :=
  match (s.dv d).busy, (s.dv d).command with
  | true, some k => s.laterAt d (commandStep k)
  | _, _ => s

end Sys2Proof.Machine
end

