-- ==== Sys2Proof/Machine/Rounds.lean ====
section
/-! DEFINITION. Rounds of an issue point, TIMER and fetch faults (R25 to R29, R35, R37, R110, R304, R354). -/

namespace Sys2Proof.Machine

/-! ### What a round start makes due -/

/-- Token entries of a device whose time has come (R354). -/
def State.dueTokens (s : State) (d : Nat) : State :=
  (s.dv d).tokens.foldl (fun s p =>
    if p.2.st = .inflight ∧ p.2.deadline ≤ (s.dv d).cycle then s.later (.tokenDeadline d p.1)
    else if p.2.st = .expired ∧ p.2.deadline ≤ (s.dv d).cycle then s.later (.tokenEntryFree d p.1) else s) s

/-- The cycles after which a task's watchdog fires; 0 is never (R292, R304). -/
def GNode.dogLimit (nd : GNode) : Nat := if nd.kind = 1 then nd.beat else nd.budget

/-- The watchdog of a slot's task has run out. -/
def State.dogOut (s : State) (c n : Nat) : Bool :=
  let sl := s.slot c n
  match s.taskRec (devOf c) sl.task with
  | some r =>
    let m := (s.gnode (devOf c) r.graph r.node).dogLimit
    sl.live && sl.spill.isNone && sl.kill.isNone && decide (m ≠ 0) && decide (m ≤ s.dogTime c n)
  | none => false

/-- Slots whose watchdog has run out, and slots that wait to be spilled (R117, R304). -/
def State.dueSlots (s : State) (c : Nat) : State :=
  (rangeFrom 0 64).foldl (fun (s : State) n =>
    if (s.slot c n).spill.isSome then s.later (.spill c n)
    else if n % 2 = 1 && (s.slot c n).paired then s
    else if s.dogOut c n then s.later (.watchdogFire c n) else s) s

/-- Streams that have moved, jobs and requests that were refused, pairs with effects to compare (R218, R248, R254, R258). -/
def State.dueUnits (s : State) (c : Nat) : State :=
  let s1 := (s.core c).seq.foldl (fun s j => if j.going && j.stream.isSome then s.jobNext c j.no
    else if !j.going && decide (j.backoff ≠ 0) then s.later (.jobGo c j.no) else s) s
  let s2 := (s1.net.filter (fun a => a.core == c && a.stage == .refused)).foldl (fun s a => s.later (.requestResend a.id)) s1
  (s2.core c).pairs.foldl (fun s p => if p.2.cmp ≠ [] ∧ p.2.trail ≠ [] then s.later (.pairedEffectCompare c p.1) else s) s2

/-- Tasks of priority 3 that have waited 65,536 cycles since their arrival and since the last pre-emption for them
(R301). -/
def State.duePriority (s : State) (d : Nat) : State :=
  (s.waiting d).foldl (fun s p =>
    if (s.gnode d p.2.graph p.2.node).prio = 3 ∧ s.seeks d p.2 ∧ max p.2.since p.2.lastPreempt + 65536 ≤ (s.dv d).cycle then
      s.later (.taskPreemptPriority d p.1) else s) s

/-- A new round at cycle `t`: the slots whose waits are over rejoin, and the round is fixed (R25, R27). -/
def State.newRound (s : State) (c t : Nat) : State :=
  let s1 := s.rejoin c t
  let o := (s1.core c).rotation
  s1.modCore c (fun k => { k with order := o, pos := 0, start := t, len := max 8 o.length })

/-- The handler slot takes one turn in each round (R125). -/
def State.dueHandler (s : State) (c : Nat) : State := if (s.core c).am.isSome then s.due (.handler c) else s

/-- The issue point of a core fixes the slots of a new round, once the turns of the last one are taken. A claim whose
deadline lies before the round releases its reader for it (R27, R110). -/
def execRoundStart (c : Nat) (s : State) : Out :=
  let k := s.core c
  if k.pos < k.order.length then .next s
  else
    let t := k.start + k.len
    let d := devOf c
    let s1 := ((s.claimsAt c (t - 1)).newRound c t).modDev d (fun v => { v with cycle := max v.cycle t })
    .next ((((((s1.releaseHeld c).claimsAt c t).dueTokens d).dueSlots c).dueUnits c |>.duePriority d |>.dueCommand d).dueHandler c)

/-! ### TIMER (R35) -/

/-- The count has reached 0: TIMER is taken before the turn's instruction. -/
def execTimerExpiry (c n : Nat) (s : State) : Out :=
  let sl := s.slot c n
  if sl.run ≠ .ready ∨ sl.hmode ∨ !sl.timerDue (s.now c) then .next s
  else
    let s1 := s.setSlot c n { sl with timer := 0, timerFrom := s.now c, timerHit := false }
    .next (s1.takeTrap c n ⟨0x11, 0, 0⟩)

/-! ### Fetch faults (R37) -/

/-- A turn whose fetch fails takes TRANSLATION or PROTECTION, subcode 0x01. -/
def execFetchFault (c n : Nat) (s : State) : Out :=
  if (s.slot c n).run ≠ .ready then .next s
  else match s.fetch c n with
    | .trap t => .next ((s.fetchNote c n t.val.toNat).takeTrap c n t)
    | _ => .next s

end Sys2Proof.Machine
end

