-- ==== Sys2Proof/Machine/Spill.lean ====
section
/-! DEFINITION. Pre-emption, the save area, restore, and the tasks that the headframe stops (R117 to R121, R139,
R219, R230, R241, R301, R304, R306, R334, R363). -/

namespace Sys2Proof.Machine

/-! ### Stopping a slot (R117 step 1) -/

/-- The slot whose spill saves a task: the leading one of a pair (R219). -/
def State.leadOf (s : State) (c n : Nat) : Nat := if (s.slot c n).paired then n / 2 * 2 else n

/-- A slot leaves rotation to be spilled; what it waited for is issued again after the restore. A slot that is being
spilled or killed takes the reason that stands before the other. -/
def State.stopFor (s : State) (c n : Nat) (why : SpillWhy) : State :=
  let sl := s.slot c n
  if !sl.live then s
  else if sl.spill.isSome ∨ sl.kill.isSome then
    (if sl.kill.isSome ∧ why ≠ .discard then s else s.modSlot c n (fun x => { x with spill := some (why.after x.spill) }))
  else (((s.modCore c (fun k => k.dropWaiter n)).leave c n [.spilled]).modSlot c n (fun x => { x with arrived := false })).askSpill
    c n why

/-- Stop a task's slot; of a gang, every live member (R230). -/
def State.preempt (s : State) (c n : Nat) (why : SpillWhy) : State :=
  let m := s.leadOf c n
  let s1 := s.stopFor c m why
  if (s.slot c m).gang then
    (gangCores c).foldl (fun (s : State) x => if x ≠ c ∧ (s.slot x m).gang then s.stopFor x m .gang else s) s1
  else s1

/-! ### The save area (R117, R118) -/

/-- Why a page of a save area cannot be used: cause and subcode as %tcause holds them. -/
def State.areaPage (s : State) (d space va : Nat) (u : Use) : Option Nat :=
  match areaOf va with
  | .xlat => (match s.placeAt d space va u with
    | .at (.dram _ _) _ => none
    | .trap cause sub => some (sub * 256 + cause)
    | _ => some 0x030A)
  | _ => some 0x030A

/-- The first failure of `n` pages of 4 KiB at an address: cause, and the failing address. -/
def State.areaFail (s : State) (d space area n : Nat) (u : Use) : Option (Nat × Nat) :=
  (rangeFrom 0 n).findSome? (fun i => (s.areaPage d space (area + 4096 * i) u).map (fun e => (e, area + 4096 * i)))

/-- What a spill meets before it writes. -/
def State.spillFail (s : State) (d space area : Nat) : Option (Nat × Nat) :=
  if area = 0 then some (0x030A, 0) else s.areaFail d space area 5 .store

/-- The claims of a slot, each with its register's number. -/
def Core.boundClaims (k : Core) (n sbase : Nat) : List (Nat × Nat) :=
  (k.claims.filter (fun p => p.2.valid && p.2.slot == n && p.2.saved.isNone)).map (fun p => (p.1, p.2.reg - sbase))

/-- The words of a save area but for STATUS, the registers and the vector window: offset and value. -/
def headWords (sl : Slot) (claims : List (Nat × Nat)) (fullBits : Nat) : List (Nat × Nat) :=
  let hd := [sl.pc.toNat, sl.predWord.toNat, sl.flagsWord.toNat, sl.tvec.toNat, sl.tcause.toNat, sl.tepc.toNat, sl.tval.toNat,
    sl.timer.toNat, sl.vshape.toNat, b2n sl.hmode, sl.taskw.toNat, sl.regsWord.toNat,
    sl.msgs.length + claims.length * 2 ^ 8 + sl.booked * 2 ^ 16]
  hd.zipIdx.map (fun p => (8 * p.2, p.1)) ++ [(0x70, 0), (0x78, 0)]
    ++ sl.msgs.zipIdx.map (fun p => (0x80 + 8 * p.2, p.1.word.toNat))
    ++ claims.zipIdx.map (fun p => (0x100 + 8 * p.2, p.1.1 + p.1.2 * 2 ^ 8))
    ++ [(0xA00, fullBits)] ++ (rangeFrom 0 191).map (fun i => (0xA08 + 8 * i, 0))

/-- No word that holds any of `n` bytes of a save area is marked poisoned (R118). -/
def State.vclean (s : State) (d space va n : Nat) : State :=
  match s.placeAt d space va .store with
  | .at (.dram d' pa) _ => { s with poison := s.poison.filter (fun p => !overlap (p.1 * 8) 8 (keyOf (.dram d' pa)) n) }
  | _ => s

/-- Step 3: the header, the scalar window with its metadata, the vector window. -/
def State.saveSlot (s : State) (c n : Nat) : State :=
  let k := s.core c
  let sl := k.slot n
  let d := devOf c
  let area := sl.savearea.toNat
  let claims := k.boundClaims n sl.sbase
  let bits := (rangeFrom 0 sl.vcount).foldl (fun b i => b + b2n (k.vreg (sl.vbase + i)).full * 2 ^ i) 0
  let s1 := (headWords sl claims bits).foldl (fun (s : State) p => s.vputN d sl.space (area + p.1) 8 p.2) s
  let s2 := ((rangeFrom 0 sl.scount).foldl (fun (s : State) i =>
    let e := k.entry (sl.sbase + i)
    (s.vputN d sl.space (area + 0x500 + 8 * i) 8 e.val.toNat).vputN d sl.space (area + 0x900 + 2 * i) 2
      (areaMeta e.full e.poison (claims.any (fun p => p.2 == i)) e.tag.toNat)) s1).vclean d sl.space (area + 0x900) (2 * sl.scount)
  (rangeFrom 0 sl.vcount).foldl (fun (s : State) i =>
    s.vputN d sl.space (area + 0x1000 + 512 * i) 512 (k.vreg (sl.vbase + i)).val.toNat) s2

/-- The slot number under which the streams of a spilled task stand. -/
def spilledSlot (t : Nat) : Nat := 64 + t

/-- The streams bound to one slot stand under another. -/
def Core.moveStreams (k : Core) (a b : Nat) : Core :=
  (rangeFrom 0 4).foldl (fun k i => if (k.stream i).bound ∧ (k.stream i).slot = a then k.setStream i { k.stream i with slot := b } else k) k

/-- A task is held to its core while it is spilled (R119, R123, R241, R258). -/
def Core.holds (k : Core) (n : Nat) (sl : Slot) : Bool :=
  sl.matrix || decide (k.boundClaims n sl.sbase ≠ [])
    || anyBelow 16 (fun i => decide ((k.chain i).st ≠ .free) && decide ((k.chain i).task = sl.task))
    || anyBelow 4 (fun i => (k.stream i).bound && decide ((k.stream i).slot = n))

/-- Step 4: claims name their words in the save area, streams stand by, the directory names the task (R139). -/
def Core.repoint (k : Core) (n : Nat) (sl : Slot) : Core :=
  let area := sl.savearea.toNat
  let claims := k.claims.map (fun p =>
    if p.2.valid && p.2.slot == n && p.2.saved.isNone then (p.1, { p.2 with saved := some (sl.space, area, p.2.reg - sl.sbase) }) else p)
  let dir := k.spillDir ++ [{ taskw := sl.taskw, space := sl.space, area := area }]
  { k.moveStreams n (spilledSlot sl.task) with claims := claims, spillDir := dir.drop (dir.length - 256) }

/-- A task is no longer in a core's spill directory (R139). -/
def Core.offDir (k : Core) (space area : Nat) : Core :=
  { k with spillDir := k.spillDir.filter (fun e => !(e.space == space && e.area == area)) }

/-! ### Discarding tasks (R110, R240, R306, R334, R363) -/

/-- Claims whose words lie in a save area end. -/
def Core.dropSaved (k : Core) (space area : Nat) : Core :=
  { k with claims := k.claims.map (fun p => match p.2.saved with
      | some (sp, a, _) => if p.2.valid && sp == space && a == area then (p.1, { p.2 with valid := false, gen := p.2.gen + 1 }) else p
      | none => p) }

/-- A task that is not seated leaves its core: claims, chains, streams and its entry in the directory. -/
def State.dropAway (s : State) (d t : Nat) (r : TaskRec) : State :=
  let space := (s.graph d r.graph).space
  (s.modCore r.core (fun k =>
    (((k.dropSaved space r.savearea.toNat).closeChains t).dropStreams (spilledSlot t)).offDir space r.savearea.toNat)).wakeJobs r.core

/-- A task without a seat is gone: STATUS is 0 in its save area, and its pool area is free. -/
def State.removeTask (s : State) (d t : Nat) (r : TaskRec) : State :=
  let s1 := if r.away then
      (s.dropAway d t r).vput d (s.graph d r.graph).space (r.savearea.toNat + 0x68) 0
    else s
  ((s1.freeArea d r).delTask d t).offList d t

/-- The block of a discarded task is IDLE; a FROZEN one stays (R306). -/
def State.idleBlock (s : State) (d : Nat) (r : TaskRec) : State :=
  let b := r.num % 65536
  let x := s.block d r.graph r.node b
  if (s.gnode d r.graph r.node).kind ≠ 2 ∨ x.st = .frozen then s
  else (s.setBlock d r.graph r.node b { x with st := .idle, committed := false }).evalNode d r.graph r.node

/-- The seat that a killed member of a gang would have started again on is ended with its task (R230). -/
def State.leaveSeat (s : State) (d : Nat) (r : TaskRec) : State :=
  let sl := s.slot r.core r.slot
  if r.st = .waiting ∧ r.home ∧ (s.gnode d r.graph r.node).gang ∧ sl.run = .ended ∧ sl.again then
    (s.modSlot r.core r.slot (fun x => { x with again := false })).gangEnd r.core r.slot
  else s

/-- RESET_SCOPE discards a task without a seat: it counts as lost, unless it was (R299). -/
def State.discardTask (s : State) (d t : Nat) (r : TaskRec) : State :=
  let s1 := (if r.st = .lost then s else s.countLost d r.graph r.launch).leaveSeat d r
  ((((s1.removeTask d t r).idleBlock d r).later (.nodeFreeze d r.graph r.node)).afterEnd d r).offerAll d |>.dueCommand d

/-! ### Spill (R117) -/

/-- A slot has nothing outstanding (R117 step 2, R169, R193, R284). -/
def State.quiet (s : State) (c n : Nat) : Bool :=
  s.drained c n && s.waitOver c n .vectorIdle && s.waitOver c n .unitIdle && s.waitOver c n .runqPlaced && (s.slot c n).tlbi.isNone

/-- Joins of a slot that wait in a pending-join table are withdrawn; the pc names the `sljoin` (R236). The entries that it
popped are back at the heads of their ports, and of a pair the load-value queue loses them and the place of the value,
since the instruction issues again after the restore: the manual is silent on both (assumption log 72). -/
def State.withdrawJoins (s : State) (c n : Nat) : State :=
  (s.net.filter (fun a => a.core == c && a.slot == n && a.stage == .parked)).foldl (fun (s : State) a =>
    let s1 := { s with net := s.net.filter (fun b => b.id != a.id), fifo := s.fifo.filter (fun i => i != a.id) }
    let s2 := (s1.undoDst c a.dst a.dstWas).modCore c (fun k => a.popped.foldr (fun p k => k.unpop n p) k)
    let s3 := if s.leads c n then s2.modLvq c (n / 2) (fun l => l.take (l.length - (a.popped.length + 1))) else s2
    s3.modSlot c n (fun sl => { sl with pc := a.pc })) s

/-- The load-value queue and the store comparator of a pair are empty, and its trailing slot has nothing outstanding
(R219). -/
def State.pairQuiet (s : State) (c n : Nat) : Bool :=
  let p := (s.core c).pair (n / 2)
  !(s.slot c n).paired || (decide (p.lvq = []) && decide (p.cmp = []) && s.quiet c (n + 1))

/-- What the headframe does with a task once its state is saved. -/
def State.taskAway (s : State) (d t : Nat) (r : TaskRec) (why : SpillWhy) (nested : Bool) (n c : Nat) (pc : BitVec 56) : State :=
  let wait := { r with st := .spilled, since := (s.dv d).cycle }
  match why with
  | .trap => s.setTask d t { r with st := .parked }
  | .watchdog =>
    let cause := bitsN (s.slot c n).tcause 0 16
    (s.errPut d r.graph r.node [4 * 2 ^ 56 + r.word, errWord1 cause 0 nested false n (s.coreId c), pc.toNat,
      (s.slot c n).tval.toNat]).setTask d t { r with st := .parked }
  | .checkpoint => s.setTask d t { r with st := .quiesced }
  | .discard => (s.setTask d t { r with st := .parked }).discardTask d t { r with st := .parked }
  | .priority | .gang => (s.setTask d t wait).modDev d (fun v => { v with arrivals := v.arrivals ++ [t] })

/-- The trailing slot waits for its newest effect to be compared or performed: its instruction issues again after a
restore (R219). -/
def State.trailWaits (s : State) (c n : Nat) : Bool :=
  (s.slot c (n + 1)).pairWait.isSome || (((s.core c).pair (n / 2)).trail.getLast?.map (·.trap.isSome)).getD false

/-- The trailing slot of a pair with its registers: the save area has room for one slot, so the task's record holds the
other (R219, assumption log 51). Where it waits at an effect, its pc names that instruction. -/
def State.trailOf (s : State) (c n : Nat) : Option (Slot × List Entry) :=
  if (s.slot c n).paired then
    let t := s.slot c (n + 1)
    let t' := match t.pairWait with
      | some (_, pc, _) => { t with pc := pc, pairWait := none }
      | none => t
    some (t', (rangeFrom 0 t.scount).map (fun i => (s.core c).entry (t.sbase + i)))
  else none

/-- The pushes that the trailing slot has made ahead of the leading one, still to be compared (R218, R219). -/
def State.pushedAhead (s : State) (c n : Nat) : List Effect :=
  let q := ((s.core c).pair (n / 2)).trail
  if !(s.slot c n).paired then [] else if s.trailWaits c n then q.dropLast else q

/-- Steps 3 to 5 for one slot, with what the save area does not hold in the task's record. Whether the task is held to
its core is judged here, by the claims bound at its spill (R119, assumption log 52). The slot itself is freed by the
caller. -/
def State.spillOne (s : State) (c n : Nat) (ended : List (Nat × List (Nat × VReg))) : State :=
  let sl := s.slot c n
  let d := devOf c
  match s.taskRec d sl.task with
  | none => s
  | some r =>
    let r1 := { r with core := c, slot := n, ran := s.dogTime c n, savearea := sl.savearea, home := (s.core c).holds n sl,
                       matrix := sl.matrix, ended := ended, timerHit := sl.timerDue (s.now c), handover := sl.handover,
                       trail := s.trailOf c n, pushed := s.pushedAhead c n, rels := sl.rels.filter (fun q => q.2.2 != []) }
    let s1 := (s.saveSlot c n).modCore c (fun k => k.repoint n sl)
    let s2 := s1.vputN d sl.space (sl.savearea.toNat + 0x68) 8 1
    ((s2.taskAway d sl.task r1 (sl.spill.getD .priority) sl.nested n c sl.pc).later (.nodeFreeze d r.graph r.node)).nextAt (.claims c)

/-- A spill whose save area cannot be written: the slot is killed (R117). NESTED of the record is 0 whatever trap led to
the spill (R114, assumption log 53). -/
def State.spillKill (s : State) (c n : Nat) (f : Nat × Nat) : State :=
  let sl := s.slot c n
  let s1 := (if f.1 = 0x0809 then s.noteAt (devOf c) sl.space f.2 else s).kill c n { cause := f.1, tval := f.2 }
  if sl.spill = some .discard then (match s1.taskRec (devOf c) sl.task with
    | some r => s1.discardTask (devOf c) sl.task r
    | none => s1) else s1

/-- One slot, or a pair, is saved and freed. -/
def State.spillSlot (s : State) (c n : Nat) : State :=
  let sl := s.slot c n
  let d := devOf c
  match s.spillFail d sl.space sl.savearea.toNat with
  | some f => s.spillKill c n f
  | none =>
    let s1 := (s.modCore c (fun k => k.dropWaiter n)).spillOne c n []
    let s2 := if sl.paired then (s1.setSlot c (n + 1) {}).modCore c (fun k => k.setPair (n / 2) {}) else s1
    (((s2.setSlot c n {}).modCore c (fun k => { k with spillQ := k.spillQ.filter (fun x => x != n) })).nextSpill c).offerAll d

/-- The vector windows of the members of a gang that have ended, by core-in-gang. -/
def State.endedWindows (s : State) (c n : Nat) : List (Nat × List (Nat × VReg)) :=
  ((gangCores c).filter (fun x => (s.slot x n).run == .ended)).map (fun x =>
    let sl := s.slot x n
    (x % 4, (rangeFrom 0 sl.vcount).map (fun i => (i, (s.core x).vreg (sl.vbase + i)))))

/-- The live members of a gang are saved in one step, each in its own area, and the four slots are freed; a member
whose area fails is killed (R117, R230). -/
def State.spillGang (s : State) (c n : Nat) : State :=
  let d := devOf c
  let live := (gangCores c).filter (fun x => (s.slot x n).live && (s.slot x n).gang)
  let fails := live.filterMap (fun x => let sl := s.slot x n; (s.spillFail d sl.space sl.savearea.toNat).map (fun f => (x, f)))
  let s1 := fails.foldl (fun (s : State) q => s.spillKill q.1 n q.2) s
  let good := live.filter (fun x => !fails.any (fun q => q.1 == x))
  let ended := s1.endedWindows c n
  let s2 := good.foldl (fun (s : State) x => s.spillOne x n ended) s1
  if good = [] then s2
  else ((gangCores c).foldl (fun (s : State) x =>
    ((s.setSlot x n {}).modCore x (fun k => { k with spillQ := k.spillQ.filter (fun y => y != n) })).nextSpill x) s2).offerAll d

/-- A slot that is being spilled, with its joins withdrawn and a trap that a completion reported taken first, in a pair once
the store comparator has room for it (R218). -/
def State.spillReady (s : State) (c n : Nat) : State ⊕ State :=
  let s1 := s.withdrawJoins c n
  let sl := s1.slot c n
  match sl.hit with
  | some t =>
    let s2 := s1.takeTrap c n t
    .inl (if (s2.slot c n).hit.isNone then s2.later (.spill c n) else s2)
  | none => if s1.quiet c n && s1.pairQuiet c n then .inr s1 else .inl s1

/-- The spill engine saves a slot's state once nothing of it is outstanding, and frees it. It serves the requests of its
core in their order; the members of a gang, which are saved together, are served when all are ready and the request of
each is the next of its core (R117, R230, assumption log 54). -/
def execSpill (c n : Nat) (s : State) : Out :=
  let sl := s.slot c n
  if sl.spill.isNone ∨ sl.kill.isSome ∨ !sl.live then .next s
  else if sl.gang then
    let others := (gangCores c).filter (fun x => (s.slot x n).live && (s.slot x n).gang && (s.slot x n).spill.isNone)
    if others ≠ [] then .next (others.foldl (fun (s : State) x => s.stopFor x n .gang) s)
    else if (gangCores c).any (fun x => (s.slot x n).live && (s.slot x n).gang && decide ((s.core x).spilling ≠ some n)) then .next s
    else match s.spillReady c n with
      | .inl s1 => .next s1
      | .inr s1 =>
        if (gangCores c).all (fun x => let m := s1.slot x n
            !(m.live && m.gang) || (m.hit.isNone && m.kill.isNone && (s1.withdrawJoins x n).quiet x n)) && !(gangCores c).any (fun x => (s1.slot x n).again)
        then .next (((gangCores c).foldl (fun (s : State) x => s.withdrawJoins x n) s1).spillGang c n) else .next s1
  else if (s.core c).spilling ≠ some n then .next s
  else match s.spillReady c n with
    | .inl s1 => .next s1
    | .inr s1 => .next (s1.spillSlot c n)

/-! ### Restore (R119, R120) -/

/-- The number in `n` bytes of a space, 0 where they do not translate. -/
def State.vnum (s : State) (d space va n : Nat) : Nat :=
  match s.placeAt d space va .load with
  | .at (.dram d' pa) _ => s.readNum space (.dram d' pa) n
  | _ => 0

/-- The lowest tag of the words that hold `n` bytes of a space. -/
def State.vtag (s : State) (d space va n : Nat) : Nat :=
  match s.placeAt d space va .load with
  | .at (.dram d' pa) _ => if n = 0 then 0 else s.tagOf (keyOf (.dram d' pa)) n
  | _ => 0

/-- The ranges that a restore reads after STATUS: offset and length. -/
def readRanges (cnt scount vcount : Nat) : List (Nat × Nat) :=
  [(0, 0x68), (0x80, 8 * (cnt % 32)), (0x100, 8 * nbits cnt 8 8), (0x500, 8 * scount), (0x900, 2 * scount), (0xA00, 8)]
    ++ (rangeFrom 0 vcount).map (fun i => (0x1000 + 512 * i, 512))

/-- Why a restore stops: cause, tag and TVAL of its record (R114, R120). Of several marked words it reports the lowest
tag in the first of the ranges that it reads (assumption log 55). -/
def State.restoreFail (s : State) (d space area : Nat) : Option (Nat × Nat × Nat) :=
  let w := s.vnum d space (area + 0x58) 8
  match s.areaPage d space (area + 0x68) .load with
  | some e => some (e, 0, area + 0x68)
  | none =>
    if s.vtag d space (area + 0x68) 8 ≠ 0 then some (0x12, s.vtag d space (area + 0x68) 8, 0)
    else if s.vnum d space (area + 0x68) 8 ≠ 1 then some (0x12, 0, 0)
    else match s.areaFail d space area (1 + (512 * nbits w 32 8 + 4095) / 4096) .load with
      | some (e, va) => some (e, 0, va)
      | none =>
        ((readRanges (s.vnum d space (area + 0x60) 8) (nbits w 0 8) (nbits w 32 8)).find?
          (fun p => decide (s.vtag d space (area + p.1) p.2 ≠ 0))).map (fun p => (0x12, s.vtag d space (area + p.1) p.2, 0))

/-- The slot that a save area describes, on a seat; bits that a register reserves read zero (R4, R32). -/
def State.savedSlot (s : State) (d t : Nat) (r : TaskRec) (q : Seat) : Slot :=
  let g := s.graph d r.graph
  let nd := s.gnode d r.graph r.node
  let area := r.savearea.toNat
  let rd (off : Nat) : Nat := s.vnum d g.space (area + off) 8
  let cnt := rd 0x60
  { pc := BitVec.ofNat 56 (rd 0) &&& ~~~3, preds := BitVec.ofNat 64 (rd 8) &&& 0xFFFF, trapEn := BitVec.ofNat 5 (nbits (rd 0x10) 8 5),
    tvec := BitVec.ofNat 64 (rd 0x18) &&& ~~~3, tcause := BitVec.ofNat 64 (rd 0x20) &&& 0xFFFF,
    tepc := BitVec.ofNat 64 (rd 0x28) &&& ~~~3, tval := BitVec.ofNat 64 (rd 0x30), timer := BitVec.ofNat 64 (rd 0x38),
    timerHit := r.timerHit, handover := r.handover, vshape := BitVec.ofNat 64 (rd 0x40) &&& 0x7F0F,
    hmode := rd 0x48 % 2 == 1, taskw := BitVec.ofNat 64 (rd 0x50) &&& 0xFF03FFFFFFFFFFFF, savearea := r.savearea, space := g.space,
    sbase := q.sbase, scount := nbits (rd 0x58) 0 8, vbase := q.vbase, vcount := nbits (rd 0x58) 32 8,
    msgs := (rangeFrom 0 (cnt % 32)).map (fun i =>
      let w := rd (0x80 + 8 * i); { word := BitVec.ofNat 64 w, sys := decide (w / 2 ^ 48 % 2 ^ 16 < 0x8000) }),
    booked := nbits cnt 16 4, task := t, matrix := nd.role == 1, haulage := nd.role == 2, gang := nd.gang, paired := nd.paired,
    level := nd.kind == 2, rels := if q.core = r.core then r.rels else [], dogFrom := s.now q.core, dogRan := if nd.kind = 1 then 0 else r.ran, run := .out [.over] }

/-- The scalar entry that a save area holds; one still bound to a claim is empty-pending (R118). -/
def State.savedEntry (s : State) (d space area i : Nat) : Entry :=
  let m := s.vnum d space (area + 0x900 + 2 * i) 2
  let po := nbits m 14 1 == 1
  { val := BitVec.ofNat 64 (s.vnum d space (area + 0x500 + 8 * i) 8), full := nbits m 15 1 == 1 && nbits m 13 1 == 0,
    pend := nbits m 13 1 == 1, poison := po, tag := if po then BitVec.ofNat 12 m else 0 }

/-- Step 3: claims, chains, jobs and streams of the task name its new slot. -/
def Core.rebind (k : Core) (space area t : Nat) (q : Seat) : Core :=
  let k1 := { k with
    claims := k.claims.map (fun (p : Nat × Claim) => match p.2.saved with
      | some (sp, a, r) => if p.2.valid && sp == space && a == area then
          (p.1, { p.2 with saved := none, slot := q.slot, reg := q.sbase + r }) else p
      | none => p),
    seq := k.seq.map (fun (j : Job) => if j.task = t then { j with slot := q.slot } else j) }
  let k2 := (rangeFrom 0 16).foldl (fun k i =>
    if (k.chain i).st ≠ .free ∧ (k.chain i).task = t then k.setChain i { k.chain i with slot := q.slot } else k) k1
  (k2.moveStreams (spilledSlot t) q.slot).offDir space area

/-- The trailing slot of a restored pair: its own state, and where it waited for a claim the register as the save area
holds it (R217, R219); where none was kept, the leading slot's (assumption log 51). -/
def TaskRec.trailSlot (r : TaskRec) (lead : Slot) (sbase : Nat) (regs : List Entry) : Slot × List Entry :=
  match r.trail with
  | some (t, es) => ({ t with run := .out [.over], sbase := sbase, msgs := [], booked := 0, task := lead.task, dogFrom := lead.dogFrom },
      es.zipIdx.map (fun p => if p.1.pend then nth p.1 regs p.2 else p.1))
  | none => ({ lead with sbase := sbase, msgs := [], booked := 0 }, regs)

/-- Restore one task on its seat. -/
def State.restoreOne (s : State) (d t : Nat) (r : TaskRec) (q : Seat) : State :=
  let space := (s.graph d r.graph).space
  let area := r.savearea.toNat
  let sl := s.savedSlot d t r q
  let regs := (rangeFrom 0 sl.scount).map (s.savedEntry d space area)
  let bits := s.vnum d space (area + 0xA00) 8
  let s1 := s.occupy q.core q.slot sl regs
  let s2 := (rangeFrom 0 sl.vcount).foldl (fun (x : State) i => x.modCore q.core (fun k => k.setVreg (sl.vbase + i)
    { val := BitVec.ofNat 4096 (s.vnum d space (area + 0x1000 + 512 * i) 512), full := nbits bits i 1 == 1 })) s1
  let names := ((s.core r.core).claims.filter (fun p => p.2.valid && (match p.2.saved with
    | some (sp, a, _) => sp == space && a == area
    | none => false))).map (fun p => claimName r.core p.1 p.2.gen)
  let s3 := if sl.paired then
      let (t, es) := r.trailSlot sl q.sbase2 regs
      (s2.occupy q.core (q.slot + 1) t es).modCore q.core (fun k => k.setPair (q.slot / 2) { bound := names, trail := r.pushed })
    else s2
  let s4 := (s3.modCore r.core (fun k => k.rebind space area t q)).vput d space (area + 0x68) 0
  ((s4.offList d t).setTask d t { r with st := .seated, core := q.core, slot := q.slot, seated := (s.dv d).cycle,
                                         home := false, ended := [], rels := [], timerHit := false, handover := none, trail := none, pushed := [] }).nextAt
    (.claims r.core)

/-- A restore that stops: the task's claims are destroyed, a LOST record is written, and the task is started again or
stays lost (R120). SLOT and CORE of the record name the seat chosen for the restore (R114, assumption log 53). -/
def State.restoreLost (s : State) (d t : Nat) (r : TaskRec) (q : Seat) (f : Nat × Nat × Nat) (home : Bool) : State :=
  let s := if f.1 = 0x0809 then s.noteAt d (s.graph d r.graph).space f.2.2 else s
  let s1 := ((s.dropAway d t r).offList d t).errPut d r.graph r.node
    [2 * 2 ^ 56 + r.word, errWord1 f.1 f.2.1 false true q.slot (s.coreId q.core), 0, f.2.2]
  (s1.loseTask d t { r with core := q.core, slot := q.slot, home := home } f.1).afterEnd d r

/-- A task is restored, or its restore stops. -/
def State.restoreTask (s : State) (d t : Nat) (r : TaskRec) (q : Seat) (home : Bool) : State :=
  match s.restoreFail d (s.graph d r.graph).space r.savearea.toNat with
  | some f => s.restoreLost d t r q f home
  | none => s.restoreOne d t r q

/-- The seat of a gang member that has ended, with its vector window; `again` where its task starts there anew. -/
def State.seatEnded (s : State) (nd : GNode) (q : Seat) (regs : List (Nat × VReg)) (again : Bool) : State :=
  let sl : Slot := { run := .ended, gang := true, sbase := q.sbase, scount := nd.scount, vbase := q.vbase, vcount := nd.vcount,
                     matrix := nd.role == 1, again := again }
  (s.occupy q.core q.slot sl []).modCore q.core (fun k => regs.foldl (fun k p => k.setVreg (q.vbase + p.1) p.2) k)

/-- The four members of a gang take their seats together: spilled ones are restored, one that was killed and starts again
waits in its slot, and the windows of those that have ended move with them (R230). -/
def State.restoreGang (s : State) (d : Nat) (r : TaskRec) (qs : List Seat) : State :=
  let nd := s.gnode d r.graph r.node
  let ms := s.gangTasks d r
  qs.zipIdx.foldl (fun (s : State) p =>
    match ms.find? (fun m => m.2.num % 4 == p.2) with
    | some (t, m) =>
      if m.st = .spilled then
        let fails := (s.restoreFail d (s.graph d m.graph).space m.savearea.toNat).isSome
        let s1 := if fails then s.seatEnded nd p.1 [] nd.idemp else s
        s1.restoreTask d t m p.1 true
      else if m.st = .waiting then
        ((s.seatEnded nd p.1 [] true).setTask d t { m with core := p.1.core, slot := p.1.slot, home := true }).later (.taskPlace d t)
      else s.seatEnded nd p.1 (((r.ended.find? (fun e => e.1 == p.2)).map (·.2)).getD []) false
    | none => s.seatEnded nd p.1 (((r.ended.find? (fun e => e.1 == p.2)).map (·.2)).getD []) false) s

/-- The spill engine restores a spilled task under its hint, or a gang's members together, when no spill of its core
was requested before (R117). -/
def execRestore (d t : Nat) (s : State) : Out :=
  match s.taskRec d t with
  | none => .next s
  | some r => match s.restoreSeats d r with
    | none => .next s
    | some [] => .next s
    | some (q :: qs) => if (q :: qs).any (fun p => (s.core p.core).spilling.isSome) then .next s
      else s.inTurn d t (fun s =>
        .next (if (s.gnode d r.graph r.node).gang then s.restoreGang d r (q :: qs) else s.restoreTask d t r q false))

/-! ### Watchdog and priority (R301, R304) -/

/-- A watchdog runs out: the task is pre-empted as HUNG. -/
def execWatchdogFire (c n : Nat) (s : State) : Out :=
  if s.dogOut c n then .next (s.preempt c n .watchdog) else .next s

/-- The running tasks that may give way to a task of priority 3: within its bands, which of a moving task are those of its `go`,
of lower priority, with a save area (R214, R301). -/
def State.victims (s : State) (d : Nat) (r : TaskRec) : List (Nat × TaskRec) :=
  let cores := if r.st = .spilled ∧ r.home then [r.core]
    else (match r.st, r.carry with
      | .transit, some y => bandCores y.hint y.radius
      | _, _ => bandCores (s.hintOf d r) (s.gnode d r.graph r.node).radius).map (d * 512 + ·)
  (s.dv d).tasks.filter (fun p =>
    let sl := s.slot p.2.core p.2.slot
    p.2.st == .seated && decide ((s.gnode d p.2.graph p.2.node).prio < 3) && cores.contains p.2.core && sl.live
      && decide (sl.task = p.1) && sl.spill.isNone && sl.kill.isNone && decide (sl.savearea ≠ 0))

/-- The victim: the lowest priority, then the latest started. -/
def State.victim (s : State) (d : Nat) (l : List (Nat × TaskRec)) : Option (Nat × TaskRec) :=
  let prio (p : Nat × TaskRec) : Nat := (s.gnode d p.2.graph p.2.node).prio
  (sortBy (fun x y => decide (prio x < prio y) || (prio x == prio y && decide (y.2.seated < x.2.seated))) l).head?

/-- A task of priority 3 that has waited 65,536 cycles has a task pre-empted, at most once in 65,536 cycles. -/
def execTaskPreemptPriority (d t : Nat) (s : State) : Out :=
  match s.taskRec d t with
  | none => .next s
  | some r =>
    let now := (s.dv d).cycle
    if !(s.dv d).arrivals.contains t ∨ (s.gnode d r.graph r.node).prio ≠ 3 ∨ !s.seeks d r ∨ now < max r.since r.lastPreempt + 65536 then .next s
    else match s.victim d (s.victims d r) with
      | none => .next s
      | some (_, v) => .next ((s.setTask d t { r with lastPreempt := now }).preempt v.core v.slot .priority)

end Sys2Proof.Machine
end

