-- ==== Sys2Proof/Machine/Fabric.lean ====
section
/-! DEFINITION. Walks, memory and register-file errors, links and ports, heartbeats, fencing, egress and power (R222,
R270 to R274, R281, R289, R329, R338, R341, R357). -/

namespace Sys2Proof.Machine

/-! ### Walks (R281) -/

/-- A walk ends: a translation fills the die's cache and the core's buffer; a fault is what the slot finds when it
issues again. -/
def execWalkComplete (c space va : Nat) (s : State) : Out :=
  match s.walk (devOf c) space va with
  | .leaf e => .next (s.fillTlb c e)
  | .fault _ => .next s

/-! ### Uncorrectable and corrected errors (R222, R272, R274, R289) -/

/-- One more corrected error of a class; the counter saturates (R289). -/
def Dev.corrected (v : Dev) (cls : Nat) : Dev :=
  let n := tabGet 0 v.counters cls
  { v with counters := tabPut v.counters cls (if n = 0xFFFFFFFF then n else n + 1) }

/-- A corrected error of a class is counted where a free value says that there was one. -/
def State.maybeCorrected (s : State) (d cls : Nat) : State :=
  let (v, s1) := s.freeVal
  if bit v 0 then s1.modDev d (fun x => x.corrected cls) else s1

/-- Scratchpad offsets lie below 16 MiB (R94). -/
def padWord (c off : Nat) : Loc := .pad c (off % 0x1000000 / 8 * 8)

/-- The scrubber reads a word of the stack: it is written back as it was, and a single-bit error, where there is one,
is counted (R272). The corrected errors of register files, headframe memory and device memory, which have no step of
their own, are counted with it (R272, R274; assumption log 63). Whether there is one is a free value each time. -/
def execSramScrub (c _off : Nat) (s : State) : Out :=
  let d := devOf c
  .next ((((s.maybeCorrected d clsPad).maybeCorrected d clsRegfile).maybeCorrected d clsHead).maybeCorrected d clsGddr7)

/-- The space that owns the granule of a place; 0 is none. -/
def State.padSpace (s : State) (l : Loc) : Nat := s.ownerOf l - 1

/-- An uncorrectable scratchpad word is poisoned, with the tag of a record. Offsets from 16 MiB on stand for headframe
memory, whose uncorrectable errors write a record of class HEADFRAME; the manual gives them no other effect (R272, R287;
assumption log 63). -/
def execSramUncorrectable (c off : Nat) (s : State) : Out :=
  let d := devOf c
  if 0x1000000 ≤ off then .next (s.logErr d clsHead 0 none 0 (s.dv d).cycle (unitOf d)).2
  else
    let l := padWord c off
    let (tag, s1) := s.logErr d clsPad (s.padSpace l) none 0 (s.now c) (s.coreId c)
    .next (s1.markWord false (keyOf l / 8) tag)

/-- The space whose key a unit of device memory was written under last, which is that of its data; 0 where there is none
(R286, R287). -/
def State.unitSpace (s : State) (d u : Nat) : Nat :=
  let kid := tabGet 0 s.unitKey u
  let base := (s.dv d).keyBase
  match (s.dv d).keys.find? (fun p => p.2 == kid) with
  | some p => p.1
  | none => if base < kid ∧ kid ≤ base + 2048 then kid - base - 1 else 0

/-- A multi-bit error poisons the eight words of a unit; a unit that held poison keeps its tag (R274). -/
def execGddr7MultibitError (d pa : Nat) (s : State) : Out :=
  let pa := pa % dramSize
  let (tag, s1) := s.logErr d clsGddr7 (s.unitSpace d (keyOf (.dram d pa) / 64)) (some (BitVec.ofNat 64 pa)) 0 (s.dv d).cycle (0x10000 + sliceOf pa)
  let w := keyOf (.dram d pa) / 64 * 8
  .next ((rangeFrom w 8).foldl (fun (s : State) x => s.markWord true x tag) s1)

/-- The slot whose scalar window holds an entry. -/
def Core.ownerOfEntry (k : Core) (e : Nat) : Option Slot :=
  (k.slots.find? (fun p => decide (p.2.run ≠ .free) && decide (p.2.sbase ≤ e) && decide (e < p.2.sbase + p.2.scount))).map (·.2)

/-- An uncorrectable error of a register file: 0 the scalar file, whose entry becomes poisoned; 1 the vector file, 2 the
tiles, 3 the accumulators, whose readers are killed until a full write. -/
def execRegfileUncorrectable (c file idx : Nat) (s : State) : Out :=
  let size := if file = 0 then 2048 else if file = 1 then 256 else if file = 2 then 16 else 4
  if size ≤ idx ∨ 4 ≤ file then .next s
  else if file = 0 then
    let space := (((s.core c).ownerOfEntry idx).map (·.space)).getD 0
    let (tag, s1) := s.logErr (devOf c) clsRegfile space none 0 (s.now c) (s.coreId c)
    .next (s1.modCore c (fun k => k.setEntry idx { k.entry idx with poison := true, tag := BitVec.ofNat 12 tag }))
  else .next { s with badRegs := if s.badRegs.contains (c, file, idx) then s.badRegs else s.badRegs ++ [(c, file, idx)] }

/-! ### Links and ports (R269 to R271, R341) -/

/-- Links 0 to 5 are the die pairs, 8 to 39 the Casris ports (R334). -/
def isDieLink (l : Nat) : Bool := decide (l < 6)
def isPort (l : Nat) : Bool := decide (8 ≤ l) && decide (l < 40)

/-- Lanes of a group, and groups of a link or port: each direction has 16, and of a port one (R269, R341). The groups of
the second direction follow those of the first (assumption log 18). -/
def laneCount (l : Nat) : Nat := if isDieLink l then 17 else 5
def groupCount (l : Nat) : Nat := if isDieLink l then 32 else 2

/-- The two dies of a link, in R269's order. -/
def diePair (l : Nat) : Nat × Nat :=
  match l with
  | 0 => (0, 1)
  | 1 => (0, 2)
  | 2 => (0, 3)
  | 3 => (1, 2)
  | 4 => (1, 3)
  | _ => (2, 3)

def Dev.link (v : Dev) (l : Nat) : Link := tabGet {} v.links l
def Dev.setLink (v : Dev) (l : Nat) (x : Link) : Dev := { v with links := tabPut v.links l x }
def Link.group (x : Link) (g : Nat) : LaneGrp := tabGet {} x.groups g
def Link.setGroup (x : Link) (g : Nat) (y : LaneGrp) : Link := { x with groups := tabPut x.groups g y }

/-- The record of a lane or of a retirement: class LINK names the dies and the lane group (R287). -/
def State.linkRecord (s : State) (d l g : Nat) : State :=
  let p := diePair l
  let loc := if isDieLink l then some (BitVec.ofNat 64 (g % 16 * 2 ^ 8 + p.1 * 2 ^ 4 + p.2)) else none
  (s.logErr d (if isDieLink l then clsLink else clsCasris) 0 loc 0 (s.dv d).cycle (Config.panel.toNat * 2 ^ 15 + d * 512)).2

/-- The step that retires a link or a port. -/
def retireStep (d l : Nat) : Instr := if isDieLink l then .linkRetire d l else .portRetire d (l - 8)

/-- A flit that fails its CRC is resent. Whether it is the flit that failed last is a free value; a flit whose eight resends
have failed in a row, its ninth failure, is not resent any more and retires the link, whatever flits fail before it is
retired (R271). -/
def execFlitResend (d l : Nat) (s : State) : Out :=
  let x := (s.dv d).link l
  if !(isDieLink l || isPort l) ∨ x.retired then .next s
  else
    let (v, s1) := s.freeVal
    let row := if 9 ≤ x.row then x.row else if bit v 0 then x.row + 1 else 1
    let y := { x with resends := if x.row < 9 ∧ 9 ≤ row then x.resends else x.resends + 1, row := row }
    let s2 := s1.modDev d (fun v => v.setLink l y)
    .next (if 9 ≤ row then s2.later (retireStep d l) else s2)

/-- Calibration moves to the next lane of a group, unless a lane of it is out (R270). -/
def execLaneCalibrationRotate (d l g : Nat) (s : State) : Out :=
  let x := (s.dv d).link l
  let y := x.group g
  if !(isDieLink l || isPort l) ∨ groupCount l ≤ g ∨ x.retired ∨ y.out.isSome then .next s
  else .next (s.modDev d (fun v => v.setLink l (x.setGroup g { y with cal := (y.cal + 1) % laneCount l })))

/-- A lane leaves service: the first of its group stops the rotation, a second retires the link (R270, R341). -/
def execLaneFailure (d l g lane : Nat) (s : State) : Out :=
  let x := (s.dv d).link l
  let y := x.group g
  if !(isDieLink l || isPort l) ∨ groupCount l ≤ g ∨ laneCount l ≤ lane ∨ x.retired ∨ y.out = some lane then .next s
  else match y.out with
    | none => .next ((s.modDev d (fun v => v.setLink l (x.setGroup g { y with out := some lane }))).linkRecord d l g)
    | some _ => .next ((s.modDev d (fun v => v.setLink l (x.setGroup g { y with second := true }))).later (retireStep d l))

/-- What retires a link or port: eight failed resends in a row, or a group with two lanes out. -/
def Link.due (x : Link) : Bool := !x.retired && (decide (9 ≤ x.row) || x.groups.any (fun p => p.2.second))

/-- The group that lost its second lane, for the record. -/
def Link.failedGroup (x : Link) : Nat := ((x.groups.find? (fun p => p.2.second)).map (·.1)).getD 0

/-- A die has lost its three links (R271). -/
def Dev.dieAlone (v : Dev) : Bool :=
  anyBelow 4 (fun die => allBelow 6 (fun l => let p := diePair l; (p.1 != die && p.2 != die) || (v.link l).retired))

/-- A die-to-die link is retired; traffic takes the third die, and a die left without links is a fatal fault. -/
def execLinkRetire (d l : Nat) (s : State) : Out :=
  let x := (s.dv d).link l
  if !isDieLink l ∨ !x.due then .next s
  else
    let s1 := (s.modDev d (fun v => v.setLink l { x with retired := true })).linkRecord d l x.failedGroup
    .next (if (s1.dv d).dieAlone then (s1.modDev d (fun v => { v with fatal := true })).laterAt d .deviceFence else s1)

/-- A Casris port is retired: its plane carries nothing to or from this device any more. -/
def execPortRetire (d p : Nat) (s : State) : Out :=
  let l := p + 8
  let x := (s.dv d).link l
  if 32 ≤ p ∨ !x.due then .next s
  else .next ((s.modDev d (fun v => v.setLink l { x with retired := true })).linkRecord d l 0)

/-! ### Heartbeats and fencing (R357) -/

/-- Time on the panel, in milliseconds: the latest of its devices'. -/
def State.panelMs (s : State) : Nat := s.devs.foldl (fun m p => max m p.2.ms) 0

/-- A heartbeat flit arrives on a plane in use and restarts its device's silence count. -/
def execHeartbeatReceive (d plane : Nat) (s : State) : Out :=
  if 32 ≤ plane ∨ ((s.dv d).link (8 + plane)).retired then .next s
  else .next (s.modDev d (fun v => { v with heard := s.panelMs }))

/-- The lamp-room core sends a heartbeat flit on every port, once each millisecond. -/
def execHeartbeatSend (s : State) : Out :=
  let v := s.dv s.dev
  if v.ms ≤ v.beatSent then .next s
  else .next ((rangeFrom 0 32).foldl (fun (s : State) p => s.later (.heartbeatReceive s.dev p))
    (s.setDev s.dev { v with beatSent := v.ms }))

/-- The panel fences a device that reports a fatal fault or has been silent for 16 ms. -/
def State.fenceDue (s : State) (d : Nat) : Bool :=
  let v := s.dv d
  v.onPanel && !v.fenced && (v.fatal || decide (v.heard + 16 ≤ s.panelMs))

/-- The queries of the holds on a device's tokens (R352). -/
def State.queriesOf (s : State) (d : Nat) : List Nat :=
  (s.net.filter (fun a => a.stage == .hold)).flatMap fun a =>
    (a.bulk.zipIdx.filter (fun p => decide (p.1 / 2 ^ 26 % 64 = d))).map (fun p => 2 * a.id + p.2)

/-- Holds on a device's tokens are answered "expired", and its table has none waiting. -/
def State.expireHolds (s : State) (d : Nat) : State :=
  ((s.queriesOf d).foldl (fun (s : State) w => s.holdAnswered w false) s).modDev d
    (fun v => { v with tokens := v.tokens.map (fun p => (p.1, { p.2 with waiting := [] })) })

/-- The devices of the panel that have a place in the tables and are not `d`. -/
def State.survivors (s : State) (d : Nat) : List Nat :=
  (rangeFrom 0 64).filter (fun e => e != d && (s.dv e).onPanel && !(s.dv e).fenced)

/-- The device is cut off; every surviving device records which. -/
def execDeviceFence (s : State) : Out :=
  let d := s.dev
  if !s.fenceDue d then .next s
  else
    let s1 := (s.modDev d (fun v => { v with fenced := true })).expireHolds d
    .next ((s1.survivors d).foldl (fun (s : State) e =>
      (s.logErr e clsCasris 0 (some (BitVec.ofNat 64 d)) 0 (s.dv e).cycle (Config.panel.toNat * 2 ^ 15 + e * 512)).2) s1)

/-! ### Egress and power (R329, R330, R338) -/

/-- The head of the egress queue leaves for PCI Express. -/
def execEgressPost (s : State) : Out :=
  let v := s.dv s.dev
  match v.egress with
  | [] => .next s
  | e :: r => .next (s.setDev s.dev { v with egress := r, sentOut := v.sentOut ++ [e] })

/-- A change of the clock is reported (R338). -/
def Dev.stepClock (v : Dev) (clock : Nat) : Dev :=
  let w := BitVec.ofNat 64 (v.ms % 2 ^ 32 * 2 ^ 32 + v.power % 2 ^ 16 * 2 ^ 16 + clock)
  ({ v with clock := clock, pevt := tabPut v.pevt (v.pevtn.toNat % 256) w, pevtn := v.pevtn + 1 } : Dev).signal 2

/-- Each millisecond the average package power is compared with the limit. -/
def execPowerTick (s : State) : Out :=
  let d := s.dev
  let v := s.dv d
  let p := Config.power d (v.ms + 1)
  let v1 := { v with ms := v.ms + 1, power := p }
  let v2 := if v.plimit < p ∧ 400 < v.clock then v1.stepClock (v.clock - 25)
    else if p * 100 < 97 * v.plimit ∧ v.clock < 1600 then v1.stepClock (v.clock + 25)
    else v1
  .next ((s.setDev d v2).laterAt d .heartbeatSend)

end Sys2Proof.Machine
end

