-- ==== Sys2Proof/Machine/Headframe.lean ====
section
/-! DEFINITION. Launches, eligibility, completion and freezing (R292, R295 to R299, R302, R305, R314, R316). -/

namespace Sys2Proof.Machine

/-! ### Footprint cards and board images (R251, R292, R305) -/

/-- What reading and checking a card or an image gives: a value, a refusal, or a read that failed. -/
inductive Chk (α : Type) where
  | ok (x : α)
  | bad
  | fault
  deriving DecidableEq, Repr

def Chk.isOk {α : Type} : Chk α → Bool
  | .ok _ => true
  | _ => false

def Chk.get {α : Type} (d : α) : Chk α → α
  | .ok x => x
  | _ => d

/-- A footprint card: only its counts and regions are read; address 0 is the empty footprint. -/
def State.readFoot (s : State) (d space addr : Nat) : Chk (List Region × List Region) :=
  if addr = 0 then .ok ([], [])
  else match s.vdword d space addr with
    | none => .fault
    | some w0 =>
      let (nr, nw) := cardCounts w0
      if 8 < nr ∨ 8 < nw then .bad
      else match s.vdwords d space (addr + 64) (2 * (nr + nw)) with
        | none => .fault
        | some ds => .ok ((regionsOf ds).take nr, (regionsOf ds).drop nr)

/-- The block that entry `b` of an image describes, where R305 allows it. -/
def blockOf (count stepmax b : Nat) (ws : List Nat) : Option Block :=
  let w (i : Nat) : Nat := nth 0 ws i
  let step := nbits (w 0) 0 32
  let state := nbits (w 1) 29 3
  let n := nbits (w 1) 24 4
  let nbrs := (rangeFrom 0 8).map (fun i => nbits (w (2 + i / 4)) (16 * (i % 4)) 16)
  if (state ≠ 0 ∧ state ≠ 5) ∨ 8 < n ∨ nbits (w 1) 0 24 ≠ 0 ∨ step = 0 ∨ stepmax < step then none
  else if (nbrs.drop n).any (fun x => x != 0) || (nbrs.take n).any (fun x => decide (count ≤ x) || x == b) then none
  else some { level := BitVec.ofNat 32 (nbits (w 0) 32 32), step := BitVec.ofNat 32 step,
              prev := BitVec.ofNat 32 (nbits (w 1) 32 32), st := if state = 5 then .done else .idle,
              buf := nbits (w 1) 28 1 == 1, nbrs := nbrs.take n }

/-- Live levels lie within the spread of R314. -/
def spreadOk (bs : List Block) : Bool :=
  let live := bs.filter (fun b => b.st != .done)
  live.all (fun a => live.all (fun b => decide (levelDiff a.level b.level < 2 ^ 30) && decide (-2 ^ 30 < levelDiff a.level b.level)))

/-- The entries of a board image from entry `b` on. -/
def State.readBlocks (s : State) (d space board count stepmax : Nat) : Nat → Nat → Chk (List Block)
  | _, 0 => .ok []
  | b, n + 1 => match s.vdwords d space (board + 32 * b) 4 with
    | none => .fault
    | some ws => match blockOf count stepmax b ws, s.readBlocks d space board count stepmax (b + 1) n with
      | _, .fault => .fault
      | some x, .ok l => .ok (x :: l)
      | _, _ => .bad

/-- A LEVEL node's board image; other nodes have none. -/
def State.readBoard (s : State) (d space : Nat) (nd : GNode) : Chk (List Block) :=
  if nd.kind ≠ 2 then .ok []
  else match s.readBlocks d space nd.boardAddr nd.count nd.stepmax 0 nd.count with
    | .ok l => if spreadOk l then .ok l else .bad
    | e => e

/-! ### Tasks of an eligible node (R290, R297) -/

/-- Create a node's launched tasks in ascending number while the headframe has task records. -/
def State.makeTasks (s : State) (d g lno n : Nat) : Nat → State
  | 0 => s
  | f + 1 =>
    let gr := s.graph d g
    let nd := nth noNode gr.nodes n
    match gr.launch lno with
    | none => s
    | some l =>
      let k := nth 0 l.made n
      if nd.kind = 2 ∨ nth .waiting l.nodes n ≠ .eligible ∨ nd.count ≤ k ∨ 262144 ≤ (s.dv d).tasks.length then s
      else
        let s1 := s.modLaunch d g lno (fun y => { y with made := setNth y.made n (k + 1) })
        (s1.newTask d { graph := g, node := n, num := k, launch := lno, regs := s.launchRegs d g lno n }).makeTasks d g lno n f

/-- Every eligible node has the tasks that the records allow, the blocks of LEVEL nodes included. -/
def State.makeMore (s : State) (d : Nat) : State :=
  (s.dv d).graphs.foldl (fun (s : State) p => p.2.launches.foldl (fun (s : State) l =>
    (rangeFrom 0 p.2.nodes.length).foldl (fun (s : State) n =>
      if (nth noNode p.2.nodes n).kind = 2 then s.evalBlocks d p.1 n
      else s.makeTasks d p.1 l.no n ((nth noNode p.2.nodes n).count - nth 0 l.made n)) s) s) s

/-! ### Eligibility (R298) -/

/-- Every node that node `n` of a launch depends on is complete. -/
def Graph.ready (g : Graph) (l : Launch) (n : Nat) : Bool :=
  let before := g.launches.takeWhile (fun x => x.no != l.no)
  (before ++ [l]).all (fun x => (rangeFrom 0 g.nodes.length).all (fun i =>
    nth .waiting x.nodes i == .complete || !(if x.no = l.no then decide (i < n) else true) || !footMeet (g.foot l.no n) (g.foot x.no i)))

/-- The board of a LEVEL node is that of the oldest launch in which it runs (assumption log 34). -/
def State.installBoard (s : State) (d g n : Nat) : State :=
  match (s.graph d g).running n with
  | none => s
  | some l => (s.modNode d g n (fun x =>
      { x with board := nth [] l.boards n, part := nth 0 l.parts n, frozen := false, freezeCause := 0 })).evalNode d g n

/-- Spawned tasks that have waited for their node are offered; they arrive now, and from now on they wait for a seat (R215,
R301). -/
def State.offerNode (s : State) (d : Nat) (ts : List (Nat × TaskRec)) : State :=
  ts.foldl (fun (s : State) p => (((s.offList d p.1).setTask d p.1 { p.2 with since := (s.dv d).cycle }).modDev d
    (fun v => { v with arrivals := v.arrivals ++ [p.1] })).later (.taskPlace d p.1)) s

/-- The tasks that were spawned into a node before it became eligible, by number. -/
def State.earlySpawned (s : State) (d g lno n : Nat) : List (Nat × TaskRec) :=
  sortBy (fun x y => decide (x.2.num < y.2.num)) ((s.dv d).tasks.filter (fun p =>
    decide (p.2.graph = g) && decide (p.2.node = n) && decide (p.2.launch = lno) && p.2.st == .waiting))

/-- A node becomes eligible: its tasks are offered in ascending number, or its blocks are evaluated (R297). -/
def State.makeEligible (s : State) (d g lno n : Nat) : State :=
  let first := ((s.graph d g).running n).isNone
  let nd := s.gnode d g n
  let s1 := s.modLaunch d g lno (fun l => { l with nodes := setNth l.nodes n .eligible })
  let s2 := if nd.kind = 2 then (if first then s1.installBoard d g n else s1)
    else (s1.makeTasks d g lno n nd.count).offerNode d (s1.earlySpawned d g lno n)
  s2.later (.nodeComplete d g lno n)

/-- Every node whose predecessors are complete becomes eligible. -/
def State.refresh (s : State) (d g : Nat) : State :=
  ((s.graph d g).launches.map (·.no)).foldl (fun (s : State) lno =>
    (rangeFrom 0 (s.graph d g).nodes.length).foldl (fun (s : State) n =>
      match (s.graph d g).launch lno with
      | some l => if nth .waiting l.nodes n = .waiting ∧ (s.graph d g).ready l n then s.makeEligible d g lno n else s
      | none => s) s) s

/-! ### Launching (R295, R296) -/

/-- The words of a trigger (R295). -/
def trigGraph (w : Word) : Nat := bitsN w 58 6
def trigPatch (w : Word) : Nat := bitsN w 0 56

/-- A trigger word that the headframe does not take (R295, R358). -/
def State.badTrigger (s : State) (d : Nat) (w : Word) : Bool :=
  match tabFind (s.dv d).graphs (trigGraph w) with
  | none => true
  | some g => g.quiesced || decide (bitsN w 56 2 ≠ 0)

/-- A trigger word is discarded with a record of class HEADFRAME. -/
def State.dropTrigger (s : State) (d : Nat) : State :=
  let s1 := (s.logErr d clsHead 0 none 0 (s.dv d).cycle (Config.panel.toNat * 2 ^ 15 + d * 512)).2
  s1.modDev d (fun v => v.signal 3)

/-- The entries of a patch list, applied in order. -/
def State.patchRegs (s : State) (d space addr nnodes : Nat) (regs : List (List Word)) : Nat → Option (List (List Word))
  | 0 => some regs
  | k + 1 => do
    let regs ← s.patchRegs d space addr nnodes regs k
    let e ← s.vdwords d space (addr + 16 + 16 * k) 2
    let w := nth 0 e 0
    let node := nbits w 16 12
    let reg := nbits w 0 5
    if nbits w 5 11 ≠ 0 ∨ nbits w 28 36 ≠ 0 ∨ nnodes ≤ node ∨ 23 < reg then none
    else some (setNth regs node (setNth (nth [] regs node) reg (BitVec.ofNat 64 (nth 0 e 1))))

/-- The launch records of a launch; none where its patch list is refused. -/
def State.patched (s : State) (d : Nat) (g : Graph) (addr : Nat) : Option (List (List Word)) :=
  let base := g.nodes.map (·.regs)
  if addr = 0 then some base
  else if addr % 8 ≠ 0 then none
  else match s.vdwords d g.space addr 2 with
    | none => none
    | some h =>
      if nth 0 h 0 / 2 ^ 12 ≠ 0 ∨ nth 0 h 1 ≠ 0 then none
      else s.patchRegs d g.space addr g.nodes.length base (nth 0 h 0)

/-- The partition that holds a LEVEL node's board in a launch (R305). -/
def State.partOf (s : State) (d : Nat) (g : Graph) (nd : GNode) (regs : List Word) : Nat :=
  if nd.hint = 0 then nd.hcore / 128
  else if nd.hint = 1 then ((s.ownerCore d g.space (nth 0 regs nd.hreg).toNat).getD 0) / 128
  else 0

/-- A node without OPEN comes after an OPEN node with which its footprint conflicts (R293). -/
def openClash : List (GNode × (List Region × List Region)) → Bool
  | [] => false
  | p :: r => (p.1.openN && r.any (fun q => !q.1.openN && footMeet p.2 q.2)) || openClash r

/-- The completion entry of a launch (R299). -/
def State.completion (s : State) (d g lno lost status : Nat) : State :=
  let gr := s.graph d g
  s.vputs d gr.space (gr.compl + 16 * (lno % 64)) [lno * 2 ^ 32 + lost % 2 ^ 32, status]

/-- What reading a footprint card leaves (R279, R283). -/
def State.noteFoot (s : State) (d space addr : Nat) : State :=
  if addr = 0 then s
  else
  let s := s.noteWords d space addr 1
  match s.vdword d space addr with
    | none => s
    | some w0 =>
      if 8 < (cardCounts w0).1 ∨ 8 < (cardCounts w0).2 then s
      else s.noteWords d space (addr + 64) (2 * ((cardCounts w0).1 + (cardCounts w0).2))

/-- What reading a patch list leaves (R279, R283). -/
def State.notePatch (s : State) (d space addr : Nat) : State :=
  if addr = 0 ∨ addr % 8 ≠ 0 then s
  else
  let s := s.noteWords d space addr 2
  match s.vdwords d space addr 2 with
    | none => s
    | some h => if nth 0 h 0 / 2 ^ 12 ≠ 0 ∨ nth 0 h 1 ≠ 0 then s else s.noteWords d space (addr + 16) (2 * nth 0 h 0)

/-- What reading the card of a node leaves, and with `board` its board image (R279, R283). -/
def State.noteNode (s : State) (d space : Nat) (nd : GNode) (board : Bool) : State :=
  let s1 := s.noteFoot d space (nd.f 3 0 64)
  if board ∧ nd.kind = 2 then s1.noteWords d space nd.boardAddr (4 * nd.count) else s1

/-- What a launch's reads leave (R279, R283, R295). -/
def State.noteLaunch (s : State) (d : Nat) (gr : Graph) (patch : Nat) : State :=
  gr.nodes.foldl (fun (s : State) nd => s.noteNode d gr.space nd true) (s.notePatch d gr.space patch)

/-- The launch of one trigger word. -/
def State.launch (s : State) (d g : Nat) (w : Word) : State :=
  let gr := s.graph d g
  let lno := gr.next
  let s1 := (s.noteLaunch d gr (trigPatch w)).modGraph d g (fun x => { x with next := (x.next + 1) % 2 ^ 32 })
  let feet := gr.nodes.map (fun nd => s1.readFoot d gr.space (nd.f 3 0 64))
  let boards := gr.nodes.map (s1.readBoard d gr.space)
  match s1.patched d gr (trigPatch w) with
  | none => s1.completion d g lno 0 2
  | some regs =>
    let foot := feet.map (Chk.get ([], []))
    if !(feet.all (·.isOk) && boards.all (·.isOk)) ∨ openClash (gr.nodes.zip foot) then s1.completion d g lno 0 2
    else
      let zeros := gr.nodes.map (fun _ => 0)
      let parts := (gr.nodes.zip regs).map (fun p => s1.partOf d gr p.1 p.2)
      let l : Launch :=
        { no := lno, regs := regs, nodes := gr.nodes.map (fun _ => .waiting), made := zeros, spawned := zeros,
          foot := foot, boards := boards.map (Chk.get []), parts := parts }
      let held := (gr.nodes.zip foot).map (fun p => { p.1 with reads := p.2.1, writes := p.2.2 })
      (s1.modGraph d g (fun x => { x with nodes := held, launches := x.launches ++ [l] })).refresh d g

/-- The headframe takes the oldest trigger word and starts a launch. -/
def execLaunch (s : State) : Out :=
  let d := s.dev
  match (s.dv d).trig with
  | [] => .next s
  | w :: r =>
    let s1 := s.modDev d (fun v => { v with trig := r })
    .next (if s1.badTrigger d w then s1.dropTrigger d else s1.launch d (trigGraph w) w)

/-! ### Completion (R299, R302) -/

/-- A job or a posted write of a node of a launch that the node's release waits for. -/
def State.releasePending (s : State) (d g lno n : Nat) : Bool :=
  let sc := (s.gnode d g n).cscope
  let mine (tw : Word) : Bool := decide (bitsN tw 44 6 = g) && decide (bitsN tw 32 12 = n)
  s.cores.any (fun p => devOf p.1 == d && p.2.seq.any (fun j =>
    mine j.taskw && j.launch == lno && j.writes.any (s.regionIn p.1 j.space sc))) ||
  s.net.any (fun a => a.slot == 64 && devOf a.core == d && mine a.taskw && a.par == lno + 1 && inScope a.core sc a.home)

/-- A job or a posted write of a launch. -/
def State.launchPending (s : State) (d g lno : Nat) : Bool :=
  s.cores.any (fun p => devOf p.1 == d && p.2.seq.any (fun j => decide (bitsN j.taskw 44 6 = g) && j.launch == lno)) ||
  s.net.any (fun a => a.slot == 64 && devOf a.core == d && decide (bitsN a.taskw 44 6 = g) && a.par == lno + 1)

/-- No task of a node of a launch remains, and none is still to be made. -/
def State.tasksOver (s : State) (d g : Nat) (l : Launch) (n : Nat) : Bool :=
  let nd := s.gnode d g n
  !(s.dv d).tasks.any (fun p => p.2.graph == g && p.2.node == n && p.2.launch == l.no) &&
  (if nd.kind = 2 then decide (((s.graph d g).running n).map (·.no) = some l.no) && nd.board.all (fun b => b.st == .done)
   else decide (nd.count ≤ nth 0 l.made n))

/-- The nodes that complete together with node `n`: itself, or the OPEN nodes of its launch. -/
def State.completing (s : State) (d g : Nat) (l : Launch) (n : Nat) : List Nat :=
  let gr := s.graph d g
  let all := rangeFrom 0 gr.nodes.length
  let isOpen (i : Nat) : Bool := (nth noNode gr.nodes i).openN
  let fit (i : Nat) : Bool :=
    decide (nth .waiting l.nodes i = .eligible) && s.tasksOver d g l i && !s.releasePending d g l.no i
  if !isOpen n then (if fit n then [n] else [])
  else
    let opens := all.filter isOpen
    if (all.filter (fun i => !isOpen i)).all (fun i => nth .waiting l.nodes i == .complete) && opens.all fit then opens else []

/-- A node completes: its dependants become eligible, and a LEVEL node's board is that of the next launch. -/
def State.finishNode (s : State) (d g lno n : Nat) : State :=
  let s1 := s.modLaunch d g lno (fun l => { l with nodes := setNth l.nodes n .complete })
  if (s.gnode d g n).kind = 2 then s1.installBoard d g n else s1

def execNodeComplete (d g lno n : Nat) (s : State) : Out :=
  let s1 := s.makeMore d
  match (s1.graph d g).launch lno with
  | none => .next s1
  | some l => match s1.completing d g l n with
    | [] => .next s1
    | ns => .next (((ns.foldl (fun (s : State) i => s.finishNode d g lno i) s1).refresh d g).later (.launchComplete d g lno))

/-- A launch ends: the entry is written once every node is complete and every write of its jobs is acknowledged. -/
def execLaunchComplete (d g lno : Nat) (s : State) : Out :=
  match (s.graph d g).launch lno with
  | none => .next s
  | some l =>
    if !l.nodes.all (fun x => x == .complete) ∨ s.launchPending d g lno
        ∨ (s.dv d).tasks.any (fun p => p.2.graph == g && p.2.launch == lno) then .next s
    else
      let s1 := s.modGraph d g (fun x => { x with launches := x.launches.filter (fun y => y.no != lno) })
      .next (((s1.completion d g lno l.lost l.status).refresh d g).dueCommand d)

/-! ### Freezing (R316) -/

/-- The code of a block's state (R305). -/
def stCode : BlockSt → Nat
  | .idle => 0
  | .ready => 1
  | .running => 2
  | .provisional => 3
  | .frozen => 4
  | .done => 5

/-- A seated task of a FROZEN block remains. -/
def State.frozenSeated (s : State) (d g n : Nat) : Bool :=
  (s.dv d).tasks.any (fun p => p.2.graph == g && p.2.node == n && p.2.st == .seated &&
    ((s.gnode d g n).board[p.2.num % 65536]?.map (·.st)) == some .frozen)

/-- Offers of READY blocks are withdrawn. -/
def State.withdrawOffers (s : State) (d g n : Nat) : State :=
  ((s.dv d).tasks.filter (fun p => p.2.graph == g && p.2.node == n && p.2.st == .waiting)).foldl (fun (s : State) p =>
    let b := p.2.num % 65536
    let x := s.block d g n b
    let s1 := (s.delTask d p.1).offList d p.1
    s1.setBlock d g n b { x with st := if x.st = .ready then .idle else x.st, started := x.started - 1 }) s

/-- A READY block of the node whose task finds a free seat: it is seated before the node can freeze (R306, R316, R319). -/
def State.readySeat (s : State) (d g n : Nat) : Option Nat :=
  (((s.dv d).tasks.filter (fun p => p.2.graph == g && p.2.node == n && p.2.st == .waiting)).find?
    (fun p => (s.startPlan d p.1 p.2).isSome)).map (·.1)

/-- A node with a FROZEN block and nothing running becomes FROZEN, and writes its front. -/
def execNodeFreeze (d g n : Nat) (s : State) : Out :=
  let s := s.evalBlocks d g n
  let nd := s.gnode d g n
  if nd.kind ≠ 2 ∨ nd.frozen ∨ !nd.board.any (fun b => b.st == .frozen)
      ∨ nd.board.any (fun b => b.st == .running || b.st == .provisional) ∨ s.frozenSeated d g n then .next s
  else match s.readySeat d g n with
  | some t => .next ((s.later (.taskPlace d t)).later (.nodeFreeze d g n))
  | none =>
    let s1 := (s.withdrawOffers d g n).modNode d g n (fun x => { x with frozen := true })
    let nd1 := s1.gnode d g n
    let s2 := s1.vputs d (s1.graph d g).space nd.front
      (nd1.board.map (fun b => b.level.toNat * 2 ^ 32 + stCode b.st * 2 ^ 29))
    .next (s2.errPut d g n [5 * 2 ^ 56, nd.freezeCause % 65536 * 2 ^ 48, 0, nd.front])

end Sys2Proof.Machine
end

