-- ==== Sys2Proof/Machine/Host.lean ====
section
/-! DEFINITION. The host interface: BAR 0, BAR 2, triggers, doorbells, the power limit, and bring-up (R295, R324 to R328,
R332, R337, R338). -/

namespace Sys2Proof.Machine

/-- Sloelm's range of device memory starts here (R334). -/
def sloelmBase : Nat := 0x2F00000000

/-! ### BAR 0 (R325, R326, R330, R332, R338) -/

/-- DSTAT. -/
def Dev.dstat (v : Dev) : Nat := v.stage % 16 + (if v.stage = 15 then v.failcode % 256 * 2 ^ 8 else 0) + b2n v.romonly * 2 ^ 17

/-- A dword of a WTAB entry. -/
def Watch.dword (w : Watch) (i : Nat) : Nat :=
  if i = 0 then b2n w.en * 2 ^ 63 + w.space * 2 ^ 48 + w.pa / 8 * 8 else w.line.toNat / 64 * 64

/-- The dword at a BAR 0 offset that is a multiple of 8; offsets not listed read as zero. The pending bits of the four
vectors, whose setting the manual leaves to PCI Express, are those of `fresh`. -/
def Dev.bar0 (v : Dev) (fresh : Word) (off : Nat) : Nat :=
  if off = 0 then v.dstat
  else if off = 0x8 then v.logSeq.toNat
  else if off = 0x1080 then v.trig.length
  else if 0x2000 ≤ off ∧ off < 0x3000 then v.cmdw ((off - 0x2000) / 8)
  else if off = 0x3008 then b2n v.overrun * 4 + b2n v.done * 2 + b2n v.busy
  else if off = 0x4000 then v.plimit
  else if off = 0x4008 then v.power % 2 ^ 16 * 2 ^ 32 + v.clock
  else if off = 0x4010 then v.pevtn.toNat
  else if 0x5000 ≤ off ∧ off < 0x5800 then (tabGet 0 v.pevt ((off - 0x5000) / 8)).toNat
  else if 0x6000 ≤ off ∧ off < 0x6040 then (tabGet 0 v.msix ((off - 0x6000) / 8)).toNat
  else if off = 0x7000 then bitsN fresh 0 4
  else if 0x10000 ≤ off ∧ off < 0x20000 then (tabGet {} v.wtab ((off - 0x10000) / 16)).dword (off / 8 % 2)
  else 0

/-- The bytes of a BAR 0 read. -/
def Dev.bar0Bytes (v : Dev) (fresh : Word) (off n : Nat) : List Byte :=
  (rangeFrom off n).map (fun i => BitVec.ofNat 8 (v.bar0 fresh (i / 8 * 8) >>> (8 * (i % 8))))

/-- Bytes written into a table of dwords, from a byte offset on. -/
def putTab (m : SMap Word) : Nat → List Byte → SMap Word
  | _, [] => m
  | i, b :: r => putTab (tabPut m (i / 8) (putBits (tabGet 0 m (i / 8)) (8 * (i % 8)) 8 b.toNat)) (i + 1) r

/-- The dword that a write leaves where `old` stood: bytes at their place in it. -/
def mergeWord (old : Word) (off : Nat) (bs : List Byte) : Word := tabGet 0 (putTab [(0, old)] (off % 8) (bs.take (8 - off % 8))) 0

/-- A write of a register of BAR 0 that has no step of its own; other offsets ignore it. -/
def Dev.bar0Write (v : Dev) (off : Nat) (bs : List Byte) : Dev :=
  if 0x2000 ≤ off ∧ off < 0x3000 then { v with cmdbuf := putTab v.cmdbuf (off - 0x2000) (bs.take (0x3000 - off)) }
  else if 0x3008 ≤ off ∧ off < 0x3010 then
    let w := mergeWord 0 off bs
    { v with done := v.done && !bit w 1, overrun := v.overrun && !bit w 2 }
  else if 0x6000 ≤ off ∧ off < 0x6040 then { v with msix := putTab v.msix (off - 0x6000) (bs.take (0x6040 - off)) }
  else v

/-! ### Responses (R332, R333) -/

/-- The response of a command: STATUS and results in CMDBUF, DONE, and vector 0. -/
def Dev.respond (v : Dev) (status : Nat) (res : List Nat) : Dev :=
  let buf := tabPut v.cmdbuf 0 (BitVec.ofNat 64 (v.cmdw 0 / 2 ^ 32 * 2 ^ 32 + status))
  let buf := res.zipIdx.foldl (fun m p => tabPut m (p.2 + 1) (BitVec.ofNat 64 p.1)) buf
  ({ v with cmdbuf := buf, busy := false, done := true, pending := none } : Dev).signal 0

def State.respond (s : State) (d status : Nat) (res : List Nat) : State := s.modDev d (fun v => v.respond status res)

/-- Taking the doorbell sets BUSY; a command that is not listed is answered at once. -/
def State.doorbell (s : State) (d : Nat) : State :=
  let s1 := s.modDev d (fun v => { v with busy := true })
  match (s1.dv d).command with
  | some k => s1.laterAt d (commandStep k)
  | none => s1.respond d 1 []

/-! ### Posted writes of BAR 0 (R325, R328) -/

/-- The write at the head of a requester's queue. -/
def State.headPost (s : State) (d r : Nat) : Option Posted := ((s.dv d).queue r).head?

/-- A register write is taken: a doorbell that finds no command being served, or a register with no step of its own. -/
def execBar0RegisterWrite (d r : Nat) (s : State) : Out :=
  match s.headPost d r with
  | none => .next s
  | some w =>
    if w.bar2 ∨ isTrig w.off ∨ isPlimit w.off then .next s
    else if isCmdDb w.off then .next (if (s.dv d).busy then s else (s.takePost d r).doorbell d)
    else .next ((s.takePost d r).modDev d (fun v => v.bar0Write w.off w.bytes))

/-- A doorbell while a command is served is ignored, and sets OVERRUN. -/
def execCmddbOverrun (d r : Nat) (s : State) : Out :=
  match s.headPost d r with
  | none => .next s
  | some w =>
    if w.bar2 ∨ !isCmdDb w.off ∨ !(s.dv d).busy then .next s
    else .next ((s.takePost d r).modDev d (fun v => { v with overrun := true }))

/-- The power limit is taken between 600 and 1,800 W. -/
def execPlimitWrite (d r : Nat) (s : State) : Out :=
  match s.headPost d r with
  | none => .next s
  | some w =>
    if w.bar2 ∨ !isPlimit w.off then .next s
    else .next ((s.takePost d r).modDev d (fun v =>
      { v with plimit := min 1800 (max 600 (bitsN (mergeWord (BitVec.ofNat 64 v.plimit) w.off w.bytes) 0 16)) }))

/-- A trigger word: one whole dword; the manual states no word for a write of another size. -/
def trigWord (w : Posted) (s : State) : Word × State :=
  if w.bytes.length = 8 ∧ w.off % 8 = 0 then (BitVec.ofNat 64 (numOf w.bytes), s) else s.freeVal

/-- A trigger word enters the FIFO, or is discarded: before READY, when the FIFO is full, or when its graph takes none. -/
def execTriggerWrite (d r : Nat) (s : State) : Out :=
  match s.headPost d r with
  | none => .next s
  | some p =>
    if p.bar2 ∨ !isTrig p.off then .next s
    else
      let (w, s1) := trigWord p (s.takePost d r)
      let v := s1.dv d
      if v.stage ≠ 6 then .next (s1.setDev d (v.signal 3))
      else if 64 ≤ v.trig.length ∨ s1.badTrigger d w then .next (s1.dropTrigger d)
      else .next ((s1.setDev d { v with trig := v.trig ++ [w] }).laterAt d .launch)

/-! ### BAR 2 (R327, R328) -/

/-- Where an access through an aperture leads: a place, or an access that fails. An address that no page table translates, in
no region or in one that the tables do not cover, fails (R275, R327). -/
def State.aperturePlace (s : State) (d off : Nat) (u : Use) : Option (Nat × Nat) :=
  match tabFind (s.dv d).apertures (off / 2 ^ 21) with
  | none => none
  | some (space, base) =>
    let a := base + off % 2 ^ 21
    let xlat (va : Nat) : Option (Nat × Nat) := match s.placeAt d space va u with
      | .at (.dram _ pa) _ => some (space, pa)
      | _ => none
    if space = 0 then (if a < dramSize then some (space, a) else none)
    else match areaOf a with
      | .xlat => xlat a
      | .panel e va => if e = d then xlat va else none
      | _ => none

/-- The record of an access that fails, after that of a page-table entry read poisoned (R279, R327). -/
def State.hostRecord (s : State) (d off : Nat) : State :=
  let v := s.dv d
  let s := match tabFind v.apertures (off / 2 ^ 21) with
    | some (space, base) =>
      if space = 0 then s
      else (match areaOf (base + off % 2 ^ 21) with
        | .panel e va => if e = d then s.noteRoot d space va else s
        | _ => s.noteAt d space (base + off % 2 ^ 21))
    | none => s
  let (space, loc, va) := match tabFind v.apertures (off / 2 ^ 21) with
    | none => (0, none, 0)
    | some (0, base) => (0, some (BitVec.ofNat 64 (base + off % 2 ^ 21)), 0)
    | some (sp, base) => (sp, none, base + off % 2 ^ 21)
  (s.logErr d clsHost space loc (BitVec.ofNat 64 va) v.cycle (unitOf d)).2

/-- A posted write through an aperture is performed at its home; it is raw and not mirrored (R330). -/
def execHostBar2Write (d r : Nat) (s : State) : Out :=
  match s.headPost d r with
  | none => .next s
  | some w =>
    if !w.bar2 then .next s
    else
      let s1 := s.takePost d r
      match s1.aperturePlace d w.off .store with
      | none => .next (s1.hostRecord d w.off)
      | some (space, pa) =>
        .next (if space = 0 ∧ sloelmBase < pa + w.bytes.length then s1 else s1.writeBytes space (.dram d pa) w.bytes)

/-- A dword of the function's configuration space (R324): device identifier 0x4C33, class code 0x12 and subclass 0x00, and the
low halves of BAR 0 (64-bit, non-prefetchable, 16 MiB) and BAR 2 (64-bit, prefetchable, 4 GiB). What the manual leaves to PCI
Express and to the host, identifiers of the vendor and addresses of the BARs among it, is that of `fresh` (assumption log 65). -/
def pciConfigDword (fresh : BitVec 32) (off : Nat) : Nat :=
  if off = 0 then 0x4C33 * 2 ^ 16 + fresh.toNat % 2 ^ 16
  else if off = 8 then 0x1200 * 2 ^ 16 + fresh.toNat % 2 ^ 16
  else if off = 0x10 then fresh.toNat / 2 ^ 24 * 2 ^ 24 + 4
  else if off = 0x18 then 0xC
  else fresh.toNat

/-- The bytes of a configuration read. -/
def pciConfigBytes (d k off n : Nat) : List Byte :=
  (rangeFrom off n).map (fun i => BitVec.ofNat 8 (pciConfigDword (Config.pciConfig d (i / 4 * 4) k) (i / 4 * 4) >>> (8 * (i % 4))))

/-- A read is served once the requester's earlier posted writes are performed. Offsets from 2^32 on stand for BAR 0, and from
2^33 on for the configuration space. -/
def execHostBar2Read (d r off size : Nat) (s : State) : Out :=
  if (s.dv d).queue r ≠ [] then .next (s.later (.hostBar2Read d r off size))
  else
    let give (s : State) (bs : List Byte) : Out := .next (s.modDev d (fun v => { v with hostRead := tabPut v.hostRead r bs }))
    if 2 ^ 33 ≤ off then
      let (k, s1) := s.draw
      give s1 (pciConfigBytes d k (off - 2 ^ 33) size)
    else if 2 ^ 32 ≤ off then
      let (x, s1) := if overlap (off - 2 ^ 32) size 0x7000 8 then s.freeVal else (0, s)
      give s1 ((s1.dv d).bar0Bytes x (off - 2 ^ 32) size)
    else match s.aperturePlace d off .load with
      | none => give (s.hostRecord d off) ((rangeFrom 0 size).map (fun _ => 0xFF))
      | some (space, pa) => give s (s.readBytes space (.dram d pa) size)

/-! ### Bring-up (R357, R337) -/

/-- What an access ends with whose device is gone (R345). -/
def State.goneReply (s : State) (a : Access) : State × Reply :=
  match a.kind with
  | .dlv => (s.unreached a, if a.relaxed then { refused := true } else { trap := some ⟨0x0D, 0, BitVec.ofNat 64 a.va⟩ })
  | .send | .am | .kick => (s.unreached a, { trap := some ⟨0x17, 1, 0⟩ })
  | .tokq => (s, { trap := some ⟨0x0F, 0, BitVec.ofNat 64 a.va⟩ })
  | _ => s.homeFault a 9 7

/-- An access to a device that is gone ends: a notice or an answer is dropped, a hold's query answered "expired", and the store of an `stt`
sends a failed notice (R345, R351, R357). -/
def State.cutOne (s : State) (a : Access) : State :=
  match a.kind with
  | .notice _ => s.sink a
  | .query hold => (s.holdAnswered (2 * hold + a.aux.toNat % 2) false).sink a
  | .answer _ => s.sink a
  | _ =>
    let (s1, r) := s.goneReply a
    (if a.kind = .stt then s1.send (tokenPacket s1 (devOf a.core) a.space (.notice false) a.aux.toNat 0) else s1).answer a r

/-- What another device had sent to a device that is reset is answered as by a fenced device (R345). -/
def State.cutOff (s : State) (d : Nat) : State :=
  let s1 := { s with net := s.net.filter (fun a => devOf a.core != d) }
  let s2 := { s1 with fifo := s1.fifo.filter (fun i => s1.net.any (fun a => a.id == i)) }
  (s2.net.filter (fun a => a.home.dev == d && a.stage != .replied)).foldl (fun (s : State) a => s.cutOne a) s2

/-- Listed bytes, poison marks, keys and owners of a range of memory keys are gone: the range reads as zero. -/
def State.wipe (s : State) (lo hi : Nat) : State :=
  let out (k n : Nat) : Bool := decide (k * n < lo) || decide (hi ≤ k * n)
  { s with mem := s.mem.filter (fun p => out p.1 1), poison := s.poison.filter (fun p => out p.1 8),
           unitKey := s.unitKey.filter (fun p => out p.1 64) }

/-- Stage 3 clears the space-0 region; stage 4 zeroes the scratchpads and frees their granules. -/
def State.wipeDram (s : State) (d : Nat) : State := s.wipe (d * 2 ^ 48 + sloelmBase) (d * 2 ^ 48 + dramSize)
def State.wipePads (s : State) (d : Nat) : State :=
  let lo := d * 2 ^ 48 + 2 ^ 40
  let s1 := s.wipe lo (lo + 2 ^ 33)
  { s1 with owner := s1.owner.filter (fun p => decide (p.1 * 65536 < lo) || decide (lo + 2 ^ 33 ≤ p.1 * 65536)) }

/-- The stage at which this bring-up stops, 6 where it reaches READY; stage 1 never stops it. -/
def failingStage (n : Nat) : Nat :=
  let k := Config.failStage n
  if k < 6 ∧ k ≠ 1 then k else 6

/-- A device at a fundamental reset: stage 0, with the nonvolatile store, and with the log, its counters and the keys until
stage 4. `k` is the stage at which bring-up will stop. -/
def Dev.atReset (v : Dev) (k ms : Nat) : Dev :=
  let base : Dev :=
    { cycle := v.cycle, onPanel := v.onPanel, fenced := v.fenced, nextTask := v.nextTask, keys := v.keys, keyBase := v.keyBase,
      nextKey := v.nextKey, extStored := v.extStored, minVersion := v.minVersion, sigUsed := v.sigUsed }
  { base with stage := 0, boot := some k, heard := ms, sentOut := v.sentOut, hostRead := v.hostRead,
              log := v.log, logSeq := v.logSeq, counters := v.counters }

/-- The two conditions under which an extension image is accepted (R335). -/
def Dev.accepts (v : Dev) (img : List Byte) : Bool :=
  Config.imageVerifies img && decide (v.minVersion.toNat ≤ (Config.imageVersion img).toNat)

/-- The work of a stage of bring-up on the device's own registers: stage 1 makes the stored image active when its check passes,
stage 4 clears the log and its counters and draws the space-0 key, and stage 5 brings the ports back (R286, R335, R337, R357). -/
def Dev.stageWork (v : Dev) (j ms : Nat) : Dev :=
  match j with
  | 1 => (match v.extStored with
    | some img => if v.accepts img then { v with romonly := false, extActive := some img, minVersion := Config.imageVersion img } else v
    | none => v)
  | 4 => { v with log := [], logSeq := 0, counters := [], keys := [], keyBase := v.nextKey, nextKey := v.nextKey + 2048 }
  | 5 => { v with fenced := false, heard := ms }
  | _ => v

/-- The work of a stage on memory. -/
def State.stageMemory (s : State) (d j : Nat) : State := if j = 3 then s.wipeDram d else if j = 4 then s.wipePads d else s

/-- A fundamental reset: everything on the device but its nonvolatile store is lost, and what was on its way is cut off. -/
def State.beginReset (s : State) (d : Nat) : State :=
  let (n, s1) := s.draw
  let s2 := (s1.expireHolds d).cutOff d
  let s3 := { s2 with cores := s2.cores.filter (fun (p : Nat × Core) => devOf p.1 != d),
                      badRegs := s2.badRegs.filter (fun b => devOf b.1 != d) }
  s3.modDev d (fun v => v.atReset (failingStage n) s.panelMs)

/-- A fundamental reset, or the end of a stage of the bring-up that follows it: the stage fails, or its work is done and the
next one is recorded in DSTAT (R337, assumption log 36). -/
def execReset (s : State) : Out :=
  let d := s.dev
  let v := s.dv d
  match v.boot with
  | none => .next ((s.beginReset d).laterAt d .reset)
  | some k =>
    if v.stage = k then .next (s.setDev d { v with stage := 15, failcode := k, boot := none })
    else
      let s1 := (s.stageMemory d v.stage).modDev d (fun v => { v.stageWork v.stage s.panelMs with stage := v.stage + 1 })
      .next (if v.stage = 5 then s1.modDev d (fun v => { v with boot := none }) else s1.laterAt d .reset)

end Sys2Proof.Machine
end

