-- ==== Sys2Proof/Machine/Keccak.lean ====
section
/-! DEFINITION. SHAKE256 with 32 bytes of output, the digest that a report holds (R336). The manual names the function and
its parameters by RFC 8391; its steps are those of FIPS 202 (assumption log 66). -/

namespace Sys2Proof.Machine

/-- A lane of the permutation's state: lane (x, y) is number x + 5 y. -/
abbrev Lanes := List (BitVec 64)

/-- Lane (x, y), each taken mod 5. -/
def lane (a : Lanes) (x y : Nat) : BitVec 64 := nth 0 a (x % 5 + 5 * (y % 5))

/-- The 25 lanes that a function of (x, y) gives. -/
def lanesOf (f : Nat → Nat → BitVec 64) : Lanes := (rangeFrom 0 25).map (fun i => f (i % 5) (i / 5))

/-- Rotation of a lane to the left. -/
def rotLane (v : BitVec 64) (n : Nat) : BitVec 64 := BitVec.ofNat 64 (v.toNat <<< n ||| v.toNat >>> (64 - n))

/-- Step theta: each lane takes the parities of two columns. -/
def theta (a : Lanes) : Lanes :=
  let c := (rangeFrom 0 5).map (fun x => lane a x 0 ^^^ lane a x 1 ^^^ lane a x 2 ^^^ lane a x 3 ^^^ lane a x 4)
  let d := (rangeFrom 0 5).map (fun x => nth 0 c ((x + 4) % 5) ^^^ rotLane (nth 0 c ((x + 1) % 5)) 1)
  lanesOf (fun x y => lane a x y ^^^ nth 0 d x)

/-- The rotation of each lane in step rho, by lane number. -/
def rhoOffsets : List Nat :=
  [0, 1, 62, 28, 27, 36, 44, 6, 55, 20, 3, 10, 43, 25, 39, 41, 45, 15, 21, 8, 18, 2, 61, 56, 14]

/-- Steps rho and pi: lane (x, y) takes lane (x + 3 y, x), rotated. -/
def rhoPi (a : Lanes) : Lanes :=
  lanesOf (fun x y => let i := (x + 3 * y) % 5 + 5 * x
    rotLane (nth 0 a i) (nth 0 rhoOffsets i))

/-- Step chi. -/
def chi (a : Lanes) : Lanes := lanesOf (fun x y => lane a x y ^^^ (~~~ lane a (x + 1) y &&& lane a (x + 2) y))

/-- The constant of each round in step iota. -/
def roundConstants : List (BitVec 64) :=
  [0x0000000000000001, 0x0000000000008082, 0x800000000000808A, 0x8000000080008000, 0x000000000000808B, 0x0000000080000001,
   0x8000000080008081, 0x8000000000008009, 0x000000000000008A, 0x0000000000000088, 0x0000000080008009, 0x000000008000000A]
  ++ [0x000000008000808B, 0x800000000000008B, 0x8000000000008089, 0x8000000000008003, 0x8000000000008002, 0x8000000000000080,
   0x000000000000800A, 0x800000008000000A, 0x8000000080008081, 0x8000000000008080, 0x0000000080000001, 0x8000000080008008]

/-- One round of the permutation. -/
def keccakRound (a : Lanes) (c : BitVec 64) : Lanes :=
  match chi (rhoPi (theta a)) with
  | x :: r => (x ^^^ c) :: r
  | [] => []

/-- The permutation, 24 rounds. -/
def keccakF (a : Lanes) : Lanes := roundConstants.foldl keccakRound a

/-- Lanes from bytes, the lowest byte first; missing bytes are zero. -/
def lanesFrom (bs : List Byte) (n : Nat) : Lanes := (rangeFrom 0 n).map (fun i => BitVec.ofNat 64 (numOf ((bs.drop (8 * i)).take 8)))

/-- A block of 136 bytes is absorbed. -/
def absorb (a : Lanes) (block : List Byte) : Lanes :=
  keccakF ((a.zip (lanesFrom block 17 ++ List.replicate 8 0)).map (fun p => p.1 ^^^ p.2))

/-- The last block: the rest of the message with the suffix and the padding of SHAKE. -/
def lastBlock (rest : List Byte) : List Byte :=
  let z := rest ++ [0x1F] ++ List.replicate (135 - rest.length) 0
  z.zipIdx.map (fun p => if p.2 = 135 then p.1 ||| 0x80 else p.1)

/-- Every whole block of a message is absorbed, then the last. -/
def absorbAll : Nat → Lanes → List Byte → Lanes
  | 0, a, bs => absorb a (lastBlock bs)
  | n + 1, a, bs => absorbAll n (absorb a (bs.take 136)) (bs.drop 136)

/-- SHAKE256-256 of a string of bytes, as four dwords. -/
def shakeDigest (bs : List Byte) : List Nat :=
  ((absorbAll (bs.length / 136) (List.replicate 25 0) bs).take 4).map BitVec.toNat

end Sys2Proof.Machine
end

