-- ==== Sys2Proof/Machine/System.lean ====
section
/-! DEFINITION. `tlbi` and `sysc` (R284, R285), error-log records as software reads them (R287), and words that are
no instruction (R31). -/

namespace Sys2Proof.Machine

/-! ### tlbi (R284) -/

/-- A cached translation of a space that a range of pages covers; length 0 covers every page. -/
def Tlb.inRange (e : Tlb) (space a n : Nat) : Bool := decide (e.space = space) && (decide (n = 0) || overlap e.page e.size a n)

/-- Remove the translations of a range from every buffer and cache of a device. -/
def State.dropTlb (s : State) (d space a n : Nat) : State :=
  let keep (l : List Tlb) : List Tlb := l.filter (fun e => !e.inRange space a n)
  let s1 := { s with cores := s.cores.map (fun (p : Nat × Core) => if devOf p.1 = d then (p.1, { p.2 with tlb := keep p.2.tlb }) else p) }
  s1.modDev d (fun v => { v with cache := v.cache.map (fun (p : Nat × List Tlb) => (p.1, keep p.2)) })

def tlbiBody (x : Ctx) (v : Vals) (s : State) : Res :=
  if 2 ^ 56 < v.a.toNat + v.b.toNat then .trap 1 5 v.a
  else if !s.drained x.c x.n then .wait [.drain]
  else
    let s1 := s.modSlot x.c x.n (fun sl => { sl with tlbi := some (v.a.toNat, v.b.toNat) })
    .ok ((s1.leave x.c x.n [.tlbRemoval]).later (.tlbiRemovalDone x.c x.n))

def execTlbi (o : Opnd) (s : State) : Out :=
  runShared 0xB9 .lead { a := .sreg, b := .sregz, lit := .int } o (.tlbi o) tlbiBody s

/-- The removal is done and the `tlbi` complete. -/
def execTlbiRemovalDone (c n : Nat) (s : State) : Out :=
  let sl := s.slot c n
  match sl.tlbi with
  | none => .next s
  | some (a, len) => .next ((s.dropTlb (devOf c) sl.space a len).modSlot c n (fun sl => { sl with tlbi := none }))

/-! ### sysc (R285) -/

/-- A default access at the bank port of the granule that holds an address. -/
def issueGranule (x : Ctx) (kind : AKind) (a : Word) (dst : Option Nat) (s : State) : Res :=
  let r : Req := { kind := kind, n := 1, addr := a, dst := dst }
  match areaOf a.toNat with
  | .near off => issueAt x r (.pad x.c off) s
  | .pad cid off => issueAt x r (.pad (devOf x.c * 512 + cid) off) s
  | _ => .trap 9 2 a

def gqueryBody (x : Ctx) (v : Vals) (s : State) : Res := issueGranule x .gquery v.a (some x.o.d.toNat) s
def gfreeBody (x : Ctx) (v : Vals) (s : State) : Res := issueGranule x .gfree v.a none s

/-- Dword `i` of a record (R287). -/
def LogRec.dword (r : LogRec) (i : Nat) : Word :=
  match i with
  | 0 => BitVec.ofNat 64 (r.seq.toNat * 2 ^ 32 + r.cls * 2 ^ 28 + r.space)
  | 1 => r.location
  | 2 => r.vaddr
  | _ => BitVec.ofNat 64 (r.cycle * 2 ^ 32 + r.unit)

/-- Record `i` of the log; an index never written holds zeros. -/
def Dev.record (v : Dev) (i : Nat) : LogRec :=
  tabGet { seq := 0, cls := 0, space := 0, location := 0, vaddr := 0, cycle := 0, unit := 0 } v.log i

def elogBody (x : Ctx) (v : Vals) (s : State) : Res :=
  let r := (s.dv (devOf x.c)).record (bitsN v.a 0 8)
  if bitsN v.a 10 54 ≠ 0 then .trap 1 5 v.a
  else giveD x (if r.space = (s.slot x.c x.n).space then r.dword (bitsN v.a 8 2) else 0) s

def execSyscGquery (o : Opnd) (s : State) : Out := runShared 0xBA .value { d := .dst, a := .src, far := .addr } o (.syscGquery o) gqueryBody s
def execSyscGfree (o : Opnd) (s : State) : Out := runShared 0xBA (.effect false) { a := .src, far := .addr } o (.syscGfree o) gfreeBody s
def execSyscElog (o : Opnd) (s : State) : Out := runShared 0xBA .value { d := .dst, a := .src } o (.syscElog o) elogBody s

/-! ### Words that are no instruction (R31, R36) -/

/-- A turn that issues such a word takes ILLEGAL, or ILLEGAL_LENGTH, whatever the guard. -/
def execNotAnInstruction (w0 : BitVec 32) (s : State) : Out :=
  if !(s.slot s.cur.1 s.cur.2).live then .fault .noTask
  else if bitsN w0 0 2 = 2 then .next (s.takeTrap s.cur.1 s.cur.2 ⟨2, 0, w0.setWidth 64⟩)
  else .next (s.takeTrap s.cur.1 s.cur.2 ⟨1, 1, w0.setWidth 64⟩)

end Sys2Proof.Machine
end

