-- ==== Sys2Proof/Machine/Commands.lean ====
section
/-! DEFINITION. The firmware command set but for graphs and checkpoints (R278, R282, R286, R287, R327, R330 to R336). -/

namespace Sys2Proof.Machine

/-! ### Serving (R332 to R334) -/

/-- STATUS values (R333). -/
def stOk : Nat := 0
def stBadArgument : Nat := 2
def stInUse : Nat := 3
def stNoSpace : Nat := 4
def stVerifyFailed : Nat := 5
def stFault : Nat := 6
def stState : Nat := 7
def stExhausted : Nat := 8

/-- A command of CMDBUF is served by its own step, while it is the one that BUSY stands for; before READY only IDENTIFY
and LINK_STATUS are. `w` gives the argument dwords. -/
def serveCommand (code : Nat) (early : Bool) (k : Nat → (Nat → Nat) → State → State) (s : State) : Out :=
  let d := s.dev
  let v := s.dv d
  if !v.busy then .next s
  else match v.command with
    | none => .next (s.respond d 1 [])
    | some c =>
      if c ≠ code then .next (s.laterAt d (commandStep c))
      else if v.stage ≠ 6 ∧ !early then .next (s.respond d stState [])
      else if nbits (v.cmdw 0) 24 8 ≠ 0 then .next (s.respond d stBadArgument [])
      else .next (k d v.cmdw s)

/-- The bytes of argument memory, read by Sloelm: none where they are outside device memory or poisoned. -/
def State.argBytes (s : State) (d pa n : Nat) : Option (List Byte) :=
  if dramSize < pa + n ∨ (n ≠ 0 ∧ s.tagOf (keyOf (.dram d pa)) n ≠ 0) then none
  else some (s.readBytes 0 (.dram d pa) n)

/-- A dword of argument memory. -/
def State.argWord (s : State) (d pa : Nat) : Option Nat := (s.argBytes d pa 8).map numOf

/-- `n` dwords of argument memory. -/
def State.argWords (s : State) (d pa : Nat) : Nat → Option (List Nat)
  | 0 => some []
  | n + 1 => do
    let x ← s.argWord d pa
    let r ← s.argWords d (pa + 8) n
    some (x :: r)

/-! ### Identity and firmware (R334 to R336, R340) -/

/-- A device knows its place once stage 5 has trained its ports. -/
def identity (d : Nat) (v : Dev) : Nat :=
  if v.onPanel && v.stage == 6 then d % 64 + Config.panel.toNat * 2 ^ 6 + 2 ^ 12 else 0

/-- The extension version, or 0 when none is active. -/
def Dev.extVersion (v : Dev) : Nat := (v.extActive.map (fun img => (Config.imageVersion img).toNat)).getD 0

def identifyResult (d : Nat) (v : Dev) : List Nat :=
  [(Config.romVersion d).toNat + v.extVersion * 2 ^ 32, identity d v, (Config.serial d).toNat]
    ++ (rangeFrom 0 8).map (fun i => (Config.identityKey d i).toNat) ++ [v.sigUsed]

def execIdentify (s : State) : Out :=
  serveCommand 4 true (fun d _ s => s.respond d stOk (identifyResult d (s.dv d))) s

/-- The 17 dwords of a report (R336). -/
def report (d : Nat) (v : Dev) (nonce : List Nat) : List Nat :=
  let mix := [identity d v, (Config.serial d).toNat, v.dstat, v.plimit].flatMap (bytesOf 8)
  nonce ++ (rangeFrom 0 4).map (fun i => (Config.romDigest d i).toNat)
    ++ (match v.extActive with
      | some img => shakeDigest img
      | none => [0, 0, 0, 0])
    ++ shakeDigest mix ++ [v.sigUsed]

/-- Byte `k` of the signature: the index, lowest byte first (R3), then the one-time signature and its path. -/
def signatureByte (d idx : Nat) (rep : List Nat) (k : Nat) : Nat :=
  if k < 4 then idx / 256 ^ k % 256 else (Config.signature d idx (rep.map (BitVec.ofNat 64)) k).toNat

/-- The dwords of a signature of 2,820 bytes. -/
def signatureWords (d idx : Nat) (rep : List Nat) : List Nat :=
  (rangeFrom 0 353).map (fun i => (rangeFrom 0 8).foldl (fun x j => x + signatureByte d idx rep (8 * i + j) * 256 ^ j) 0)

/-- ATTEST: the state counter is advanced before the signature is released. -/
def execAttest (s : State) : Out :=
  serveCommand 8 false (fun d w s =>
    let v := s.dv d
    if 2 ^ 20 ≤ v.sigUsed then s.respond d stExhausted []
    else
      let rep := report d v [w 1, w 2, w 3, w 4]
      (s.setDev d { v with sigUsed := v.sigUsed + 1 }).respond d stOk (rep ++ signatureWords d v.sigUsed rep)) s

/-- LOAD_FIRMWARE: an image is stored when its signature verifies and its version is not below the minimum. -/
def execLoadFirmware (s : State) : Out :=
  serveCommand 12 false (fun d w s =>
    match s.argBytes d (w 1) (w 2) with
    | none => s.respond d stFault []
    | some img =>
      let v := s.dv d
      let ver := Config.imageVersion img
      if !v.accepts img then s.respond d stVerifyFailed []
      else (s.setDev d { v with extStored := some img, minVersion := ver }).respond d stOk [ver.toNat]) s

/-! ### MAP (R277, R278, R282, R334) -/

/-- The page size that a MAP names. -/
def mapSize (c : Nat) : Nat := if c = 0 then 65536 else if c = 1 then 2 ^ 21 else 2 ^ 30

/-- Levels on the way to a page of a size: low bit and width of the index, and the size of the table below. -/
def mapLevels (size : Nat) : List (Nat × Nat × Nat) :=
  let l := [(44, 12, 2 ^ 18), (30, 14, 2 ^ 13), (21, 9, 512)]
  if size = 2 ^ 30 then l.take 1 else if size = 2 ^ 21 then l.take 2 else l

/-- Low bit and width of the index of a leaf of a size. -/
def leafIndex (size : Nat) : Nat × Nat := if size = 2 ^ 30 then (30, 14) else if size = 2 ^ 21 then (21, 9) else (16, 5)

/-- A new table from the pool, empty; none where the pool is exhausted. -/
def State.newTable (s : State) (d size : Nat) : Option (Nat × State) :=
  let a := ceilTo size (s.dv d).pool
  if dramSize < a + size then none
  else some (a, (s.wipe (d * 2 ^ 48 + a) (d * 2 ^ 48 + a + size)).modDev d (fun v => { v with pool := a + size }))

/-- Write an entry of a table, in space 0. -/
def State.putEntry (s : State) (d pa w0 w1 : Nat) : State :=
  (((s.writeNum 0 (.dram d pa) 8 w0).writeNum 0 (.dram d (pa + 8)) 8 w1).mirror 0 (.dram d pa) 8).mirror 0 (.dram d (pa + 8)) 8

/-- Write one leaf entry below a table, building the tables on the way; an entry that unmaps builds none. A leaf of a
larger page on the way is replaced by an empty table. -/
def State.putLeaf (s : State) (d va size w0 w1 : Nat) : Nat → List (Nat × Nat × Nat) → Option State
  | tab, [] => some (s.putEntry d (tab + 16 * nbits va (leafIndex size).1 (leafIndex size).2) w0 w1)
  | tab, (lo, len, below) :: rest =>
    let at' := tab + 16 * nbits va lo len
    let (e, _, _) := s.pte d at'
    if nbits e 63 1 = 1 ∧ nbits e 62 1 = 0 then s.putLeaf d va size w0 w1 (nbits e 4 52 * 16) rest
    else if nbits e 63 1 = 0 ∧ nbits w0 63 1 = 0 then some s
    else match s.newTable d below with
      | none => none
      | some (a, s1) => (s1.putEntry d at' (2 ^ 63 + a) 0).putLeaf d va size w0 w1 a rest

/-- Write one leaf entry of a space, with a root where the space has none. -/
def State.mapEntry (s : State) (d space va size w0 w1 : Nat) : Option State :=
  match tabFind (s.dv d).roots space with
  | some r => s.putLeaf d va size w0 w1 r (mapLevels size)
  | none => if nbits w0 63 1 = 0 then some s
    else match s.newTable d 65536 with
      | none => none
      | some (r, s1) => (s1.modDev d (fun v => { v with roots := tabPut v.roots space r })).putLeaf d va size w0 w1 r (mapLevels size)

/-- Write leaf entries from an address on; the list holds two dwords for each. -/
def State.mapEntries (s : State) (d space size : Nat) : Nat → List Nat → Option State
  | va, w0 :: w1 :: r => match s.mapEntry d space va size w0 w1 with
    | none => none
    | some s1 => s1.mapEntries d space size (va + size) r
  | _, _ => some s

/-- An entry that MAP refuses: with V = 1, one that is no leaf, that orders 4 and 5 of R279 forbid, or that lies in Sloelm's
range. -/
def badEntry (size w0 w1 : Nat) : Bool :=
  nbits w0 63 1 == 1 &&
    (nbits w0 62 1 == 0 || (leafSub w0 w1 size).isSome
      || (nbits w0 60 2 == 0 && decide (sloelmBase < nbits w0 16 40 * 65536 + size))
      || (nbits w0 56 4 == 1 && decide (sloelmBase < nbits w1 12 44 * 4096 + 4096)))

def badEntries (size : Nat) : List Nat → Bool
  | w0 :: w1 :: r => badEntry size w0 w1 || badEntries size r
  | _ => false

/-- The new tables, or the STATUS of a MAP that fails. -/
def State.mapped (s : State) (d : Nat) (w : Nat → Nat) : State ⊕ Nat :=
  let space := nbits (w 1) 0 11
  let c := nbits (w 1) 18 2
  let n := nbits (w 1) 32 32
  let size := mapSize c
  if nbits (w 1) 11 5 ≠ 0 ∨ nbits (w 1) 20 12 ≠ 0 ∨ space = 0 ∨ c = 3 ∨ w 2 % size ≠ 0 ∨ w 2 < 2 ^ 44 ∨ 2 ^ 52 < w 2 + n * size then
    .inr stBadArgument
  else if dramSize < w 3 + 16 * n then .inr stFault
  else match s.argWords d (w 3) (2 * n) with
    | none => .inr stFault
    | some es =>
      if badEntries size es then .inr stBadArgument
      else match s.mapEntries d space size (w 2) es with
        | none => .inr stNoSpace
        | some s1 => .inl s1

/-- An address that another device translates. -/
def Loc.isFar : Loc → Bool
  | .far _ _ => true
  | _ => false

/-- The translated address of an access; one through the panel window to the own device is performed as that address
(R276). -/
def xlatOf (va : Nat) : Nat :=
  match areaOf va with
  | .panel _ va' => va'
  | _ => va

/-- The device whose tables translate an address for a core. -/
def xlatDev (c va : Nat) : Nat :=
  match areaOf va with
  | .panel d _ => d
  | _ => devOf c

/-- `k` bytes at an address, as core `c` names them, meet a range of device `d`'s translated addresses. -/
def inXlat (d lo n c va k : Nat) : Bool := decide (xlatDev c va = d) && overlap (xlatOf va) (max k 1) lo n

/-- An access that was translated through a page of a range is not complete: it is in flight (one of another device from the
time its home has performed it), its instruction has still to read the scale frame of an element that has returned, or a
job has still to write one (R150, R151, R282). -/
def State.rangeInUse (s : State) (d space lo n : Nat) : Bool :=
  s.net.any (fun a => a.space == space && (!a.loc.isFar || a.stage == .replied) &&
    (inXlat d lo n a.core a.va a.n || a.elems.any (fun e => inXlat d lo n a.core e.va e.n))) ||
  s.cores.any (fun p =>
    p.2.vmems.any (fun m => m.space == space && m.scale != [] && m.got.any (fun e => inXlat d lo n p.1 e.va e.n)) ||
    p.2.seq.any (fun j => j.space == space && j.work.any (fun w => match w.sort with
      | .scale _ => inXlat d lo n p.1 w.dst 1
      | _ => false)))

/-- MAP in the immediate mode: the entries are written and no buffer or cache holds an old one, once no access through an
old one is in flight; until then the command is served again at a later round (assumption log 37). -/
def execMap (s : State) : Out :=
  serveCommand 16 false (fun d w s =>
    match s.mapped d w with
    | .inr st => s.respond d st []
    | .inl s1 =>
      let space := nbits (w 1) 0 11
      let n := nbits (w 1) 32 32 * mapSize (nbits (w 1) 18 2)
      if s.rangeInUse d space (w 2) n then s
      else if n = 0 then s1.respond d stOk []
      else (s1.dropTlb d space (w 2) n).respond d stOk []) s

/-- MAP in the deferred mode invalidates nothing. -/
def execMapDeferred (s : State) : Out :=
  serveCommand 17 false (fun d w s =>
    match s.mapped d w with
    | .inr st => s.respond d st []
    | .inl s1 => s1.respond d stOk []) s

/-- MAP with the aperture flag binds an aperture to a 2 MiB-aligned address of a space; an address with bits [63:56] set is out
of range (R93, R275, R333). -/
def execMapAperture (s : State) : Out :=
  serveCommand 18 false (fun d w s =>
    if nbits (w 1) 11 5 ≠ 0 ∨ nbits (w 1) 20 12 ≠ 0 ∨ w 2 % 2 ^ 21 ≠ 0 ∨ 2 ^ 56 ≤ w 2 ∨ 2048 ≤ w 3 then s.respond d stBadArgument []
    else (s.modDev d (fun v => { v with apertures := tabPut v.apertures (w 3) (nbits (w 1) 0 11, w 2) })).respond d stOk []) s

/-! ### Keys (R286) -/

/-- The identity of a pair of AES-256 keys: pairs that differ have identities that differ, above those drawn at boot. -/
def pairIdentity (ws : List Nat) : Nat := ws.foldl (fun x w => x * 2 ^ 64 + w % 2 ^ 64) 1 * 2 ^ 64

def execKeySet (s : State) : Out :=
  serveCommand 20 false (fun d w s =>
    let ks := (rangeFrom 2 8).map w
    let space := nbits (w 1) 0 11
    if w 1 / 2 ^ 11 ≠ 0 ∨ space = 0 ∨ ks.take 4 = ks.drop 4 then s.respond d stBadArgument []
    else (s.modDev d (fun v => { v with keys := tabPut v.keys space (pairIdentity ks) })).respond d stOk []) s

/-! ### The error log, watch words, links (R287, R289, R330, R334) -/

def execErrorLogRead (s : State) : Out :=
  serveCommand 40 false (fun d w s =>
    let v := s.dv d
    let n := nbits (w 1) 8 7
    if w 1 / 2 ^ 16 ≠ 0 ∨ 120 < n then s.respond d stBadArgument []
    else
      let count (k : Nat) : Nat := (tabGet 0 v.counters k).toNat
      let cs := (rangeFrom 0 8).map (fun i => count (2 * i) + count (2 * i + 1) * 2 ^ 32)
      let rs := (rangeFrom 0 n).flatMap (fun i =>
        (rangeFrom 0 4).map (fun j => ((v.record ((nbits (w 1) 0 8 + i) % 256)).dword j).toNat))
      (s.setDev d { v with counters := if nbits (w 1) 15 1 = 1 then [] else v.counters }).respond d stOk (cs ++ rs)) s

/-- The dword of device memory that a watch names, translated once: space 0 names physical addresses. -/
def State.watchPlace (s : State) (d space va : Nat) : Option Nat :=
  if space = 0 then (if va + 8 ≤ dramSize then some va else none)
  else match areaOf va, s.walk d space va with
    | .xlat, .leaf e => if e.tgt = 0 then some (e.frame + va % e.size) else none
    | _, _ => none

def execWatchConfig (s : State) : Out :=
  serveCommand 44 false (fun d w s =>
    let i := nbits (w 1) 0 12
    let space := nbits (w 1) 16 11
    let put (x : Watch) : State := (s.modDev d (fun v => { v with wtab := tabPut v.wtab i x })).respond d stOk []
    if nbits (w 1) 13 3 ≠ 0 ∨ w 1 / 2 ^ 27 ≠ 0 ∨ w 2 % 8 ≠ 0 ∨ w 3 % 64 ≠ 0 then s.respond d stBadArgument []
    else if nbits (w 1) 12 1 = 0 then put { tabGet {} (s.dv d).wtab i with en := false }
    else match s.watchPlace d space (w 2) with
      | none => (if space = 0 ∨ areaOf (w 2) ≠ .xlat then s else s.noteRoot d space (w 2)).respond d stBadArgument []
      | some pa => put { en := true, space := space, pa := pa, line := BitVec.ofNat 64 (w 3) }) s

/-- One dword of LINK_STATUS. -/
def Link.status (x : Link) (g : Nat) : Nat :=
  let y := x.group g
  y.cal % 32 + b2n y.out.isSome * 2 ^ 5 + y.out.getD 0 % 32 * 2 ^ 6 + b2n x.retired * 2 ^ 11 + x.resends.toNat * 2 ^ 32

def execLinkStatus (s : State) : Out :=
  serveCommand 48 true (fun d w s =>
    if !(isDieLink (w 1) || isPort (w 1)) then s.respond d stBadArgument []
    else s.respond d stOk ((rangeFrom 0 (groupCount (w 1))).map ((s.dv d).link (w 1)).status)) s

end Sys2Proof.Machine
end

