-- ==== Sys2Proof/Machine/Resident.lean ====
section
/-! DEFINITION. GRAPH_LOAD, GRAPH_UNLOAD, NODE_RESUME and RESET_SCOPE (R216, R228, R290 to R293, R299, R305, R317, R334,
R363). -/

namespace Sys2Proof.Machine

/-! ### Checking an image (R291 to R293) -/

/-- The dword and bit that a refusal names. -/
structure Where where
  dword : Nat
  bit : Nat
  deriving DecidableEq, Repr

/-- The lowest bit set among the low `n` bits. -/
def lowBit (x n : Nat) : Nat := (firstFrom (fun i => decide (nbits x i 1 = 1)) 0 n).getD 0

/-- Bits lo+len-1 to lo of a dword that are not zero. -/
def mustZero (ws : List Nat) (i lo len : Nat) : Option Where :=
  let x := nbits (nth 0 ws i) lo len
  if x = 0 then none else some ⟨i, lo + lowBit x len⟩

/-- A field that fails a check. -/
def failIf (b : Bool) (i bit : Nat) : Option Where := if b then some ⟨i, bit⟩ else none

/-- The first failure in ascending dword, then ascending bit. -/
def firstFail (l : List (Option Where)) : Option Where :=
  (l.filterMap id).foldl (fun acc w => match acc with
    | none => some w
    | some v => if w.dword < v.dword ∨ (w.dword = v.dword ∧ w.bit < v.bit) then some w else some v) none

/-- The header (R291). -/
def headerFail (len : Nat) (h : List Nat) : Option Where :=
  let w (i : Nat) : Nat := nth 0 h i
  let n := nbits (w 0) 32 13
  firstFail [failIf (nbits (w 0) 0 11 == 0) 0 0, mustZero h 0 11 21, failIf (n == 0 || decide (4096 < n) || decide (len < 64 + 320 * n)) 0 32,
    mustZero h 0 45 19, mustZero h 1 0 6, mustZero h 2 0 12, mustZero h 3 0 12,
    failIf (w 3 == 0 && nbits (w 4) 0 32 != 0) 3 12, failIf (w 3 != 0 && nbits (w 4) 0 32 == 0) 3 (lowBit (w 3) 64), failIf (decide (262144 < nbits (w 4) 0 32)) 4 0, mustZero h 4 32 32,
    mustZero h 5 0 64, mustZero h 6 0 64, mustZero h 7 0 64]

/-- A node record by itself (R216, R228, R292, R293). -/
def recordFail (nd : GNode) : Option Where :=
  let ws := nd.raw.map BitVec.toNat
  let level := nd.kind == 2
  let ifLevel (o : Option Where) : Option Where := if level then o else none
  let ifNot (o : Option Where) : Option Where := if level then none else o
  firstFail ([mustZero ws 0 0 17, failIf (nd.openN && nd.kind != 0) 0 17, failIf (decide (32 < nd.vcount) || nd.vcount % 4 != 0) 0 18,
    failIf (decide (nd.scount < 8) || decide (128 < nd.scount) || nd.scount % 8 != 0) 0 24,
    failIf (nd.hint == 1 && decide (23 < nd.hreg)) 0 41, ifNot (failIf nd.runahead 0 49),
    failIf (nd.gang && (nd.kind != 0 || nd.count % 4 != 0 || nd.radius == 0)) 0 50,
    failIf (nd.paired && (nd.vcount != 0 || nd.role != 0 || nd.gang)) 0 52,
    failIf (nd.hint == 3 || (nd.hint == 2 && !level)) 0 53, failIf (decide (4 < nd.radius)) 0 55, failIf (nd.role == 3) 0 60,
    failIf (nd.kind == 3) 0 62, mustZero ws 1 0 2, mustZero ws 1 56 8,
    failIf (decide ((if level then 65536 else 2 ^ 24) < nd.count) || (level && nd.count == 0)) 2 0, mustZero ws 2 32 32,
    failIf (nd.kind == 1 && nd.beat == 0) 4 32, if nd.kind = 1 then none else mustZero ws 4 32 32,
    ifLevel (failIf (nd.rule == 2 && decide (nd.kbound < nd.stepmax)) 5 0), ifLevel (mustZero ws 5 32 30), ifLevel (failIf (nd.rule == 3) 5 62),
    ifLevel (failIf (nd.stepmax == 0 || decide (2 ^ 30 ≤ nd.stepmax)) 6 0), ifLevel (failIf (nd.bufsize == 0 || nd.bufsize % 64 != 0) 6 32),
    ifLevel (mustZero ws 7 0 6)]
    ++ (rangeFrom 5 5).map (fun i => ifNot (mustZero ws i 0 64)) ++ (rangeFrom 10 6).map (fun i => mustZero ws i 0 64))

/-- What a load meets: STATUS and dword 1 of the response. -/
abbrev LoadFail := Nat × List Nat

/-- A failure that names a node. -/
def nodeFail (status n : Nat) (w : Where) : LoadFail := (status, [n + w.dword * 2 ^ 12 + w.bit * 2 ^ 20])

/-- A failure in the header. -/
def headFail (status : Nat) (w : Where) : LoadFail := (status, [2 ^ 26 + w.dword * 2 ^ 12 + w.bit * 2 ^ 20])

/-- The first dword of `n` that cannot be read. -/
def State.unread (s : State) (d pa n : Nat) : Option Nat := firstFrom (fun i => (s.argWord d (pa + 8 * i)).isNone) 0 n

/-- `n` dwords of an image. -/
def State.imageWords (s : State) (d pa n : Nat) : List Nat := ((s.argWords d pa n).getD [])

/-- The record of node `i` of an image. -/
def State.imageNode (s : State) (d image i : Nat) : GNode :=
  { noNode with raw := (s.imageWords d (image + 64 + 128 * i) 16).map (BitVec.ofNat 64) }

/-- The first failure of a node's record and of its card, `before` being the nodes ahead of it (R216, R228, R292, R293). -/
def State.nodeOwn (s : State) (d space : Nat) (nd : GNode) (before : List GNode) : Option Where :=
  let foot := s.readFoot d space (nd.f 3 0 64)
  let clash := !nd.openN && before.any (fun m => m.openN && footMeet (m.reads, m.writes) (foot.get ([], [])))
  firstFail [recordFail nd, failIf (!foot.isOk) 3 0, failIf clash 0 17]

/-- The part of a node's failures that stands ahead of its board's. -/
def aheadOfBoard (own : Option Where) : Option Where := own.filter (fun w => decide (w.dword < 8))

/-- Node `i` of an image, read and checked with its card, its board and its launch record. Of several failures the one in the
lowest dword, and there the lowest bit, is named. -/
def State.loadNode (s : State) (d space image nn i : Nat) (before : List GNode) : GNode ⊕ LoadFail :=
  let base := image + 64 + 128 * nn + 192 * i
  match s.unread d (image + 64 + 128 * i) 16 with
  | some k => .inr (nodeFail stFault i ⟨k, 0⟩)
  | none =>
    let nd := s.imageNode d image i
    let foot := s.readFoot d space (nd.f 3 0 64)
    let fp := foot.get ([], [])
    let own := s.nodeOwn d space nd before
    match aheadOfBoard own with
    | some w => .inr (nodeFail (if w.dword = 3 ∧ foot = .fault then stFault else stBadArgument) i w)
    | none => match s.readBoard d space nd, own with
      | .fault, _ => .inr (nodeFail stFault i ⟨8, 0⟩)
      | .bad, _ => .inr (nodeFail stBadArgument i ⟨8, 0⟩)
      | .ok _, some w => .inr (nodeFail stBadArgument i w)
      | .ok board, none => match s.unread d base 24 with
        | some _ => .inr (nodeFail stFault i ⟨0, 0⟩)
        | none => .inl { nd with regs := (s.imageWords d base 24).map (BitVec.ofNat 64), reads := fp.1, writes := fp.2, board := board }

/-- The nodes of an image from node `i` on. -/
def State.loadNodes (s : State) (d space image nn : Nat) : Nat → Nat → List GNode → List GNode ⊕ LoadFail
  | 0, _, acc => .inl acc
  | f + 1, i, acc => match s.loadNode d space image nn i acc with
    | .inr e => .inr e
    | .inl nd => s.loadNodes d space image nn f (i + 1) (acc ++ [nd])

/-- What reading the cards and boards of an image's nodes leaves, from node `i` on and up to the one that is refused: granules
claimed for the graph's space and the records of walks that failed (R279, R283, assumption log 12). `s0` is the state the load
reads, `s` what is left so far. -/
def State.noteNodes (s0 : State) (d space image nn : Nat) : Nat → Nat → List GNode → State → State
  | 0, _, _, s => s
  | f + 1, i, acc, s =>
    if (s0.unread d (image + 64 + 128 * i) 16).isSome then s
    else
      let nd := s0.imageNode d image i
      let s1 := s.noteNode d space nd (aheadOfBoard (s0.nodeOwn d space nd acc)).isNone
      match s0.loadNode d space image nn i acc with
      | .inr _ => s1
      | .inl nd => s0.noteNodes d space image nn f (i + 1) (acc ++ [nd]) s1

/-- Bytes of headframe memory that a list of nodes takes (R290; assumption log 38). -/
def headframeSize (nodes : List GNode) : Nat := 320 * nodes.length + 32 * nodes.foldl (fun n x => n + x.board.length) 0

/-- Bytes of headframe memory in use. -/
def Dev.headframeUsed (v : Dev) : Nat := v.graphs.foldl (fun n p => n + headframeSize p.2.nodes) 0

/-- The graph of an image, or why it is refused. -/
def State.loadGraph (s : State) (d image len : Nat) : Graph ⊕ LoadFail :=
  match s.unread d image 8 with
  | some k => .inr (headFail stFault ⟨k, 0⟩)
  | none =>
    let h := s.imageWords d image 8
    let w (i : Nat) : Nat := nth 0 h i
    match headerFail len h with
    | some x => .inr (headFail stBadArgument x)
    | none =>
      let space := nbits (w 0) 0 11
      let nn := nbits (w 0) 32 13
      match s.loadNodes d space image nn nn 0 [] with
      | .inr e => .inr e
      | .inl nodes =>
        if 2 ^ 26 < (s.dv d).headframeUsed + headframeSize nodes then .inr (stNoSpace, [])
        else .inl { space := space, compl := w 1, errq := w 2, save := w 3, saven := nbits (w 4) 0 32, nodes := nodes }

/-- What the reads of a load in the graph's space leave (R279, R283). -/
def State.noteLoad (s : State) (d image len : Nat) : State :=
  let h := s.imageWords d image 8
  if (s.unread d image 8).isSome ∨ (headerFail len h).isSome then s
  else
    let nn := nbits (nth 0 h 0) 32 13
    s.noteNodes d (nbits (nth 0 h 0) 0 11) image nn nn 0 [] s

def execGraphLoad (s : State) : Out :=
  serveCommand 24 false (fun d w s =>
    if 64 ≤ w 1 then s.respond d stBadArgument []
    else if (tabFind (s.dv d).graphs (w 1)).isSome then s.respond d stInUse []
    else
    let s1 := s.noteLoad d (w 2) (w 3)
    match s.loadGraph d (w 2) (w 3) with
      | .inr (st, res) => s1.respond d st res
      | .inl g => (s1.modDev d (fun v => { v with graphs := tabPut v.graphs (w 1) g })).respond d stOk [0]) s

/-- GRAPH_UNLOAD removes a graph that no launch of runs. -/
def execGraphUnload (s : State) : Out :=
  serveCommand 28 false (fun d w s =>
    match tabFind (s.dv d).graphs (w 1) with
    | none => s.respond d stBadArgument []
    | some g => if g.launches ≠ [] then s.respond d stInUse []
      else (s.modDev d (fun v => { v with graphs := tabDel v.graphs (w 1) })).respond d stOk []) s

/-! ### NODE_RESUME (R116, R304, R317, R334) -/

/-- The tasks of a node, with their record numbers. -/
def State.nodeTasks (s : State) (d g n : Nat) : List (Nat × TaskRec) :=
  (s.dv d).tasks.filter (fun p => p.2.graph == g && p.2.node == n)

/-- A parked task is restored; its watchdog counts afresh (R304). -/
def State.unpark (s : State) (d t : Nat) (r : TaskRec) : State :=
  let v := s.dv d
  (s.setDev d { v with tasks := tabPut v.tasks t { r with st := .spilled, since := v.cycle, ran := 0 },
                       arrivals := v.arrivals ++ [t] }).later (.restore d t)

/-- The blocks of a LEVEL node that NODE_RESUME finds FROZEN with no task seated or being spilled. -/
def State.frozenBlocks (s : State) (d g n : Nat) : List Nat :=
  (rangeFrom 0 (s.gnode d g n).board.length).filter (fun b =>
    (s.block d g n b).st == .frozen && !(s.nodeTasks d g n).any (fun p => p.2.num % 65536 == b && p.2.st == .seated))

/-- A node that is resumed is FROZEN no longer, and scheduling continues. -/
def State.thaw (s : State) (d g n : Nat) : State := ((s.modNode d g n (fun x => { x with frozen := false })).evalNode d g n).offerAll d

/-- A node is named that is resident, and no reserved bit is set. -/
def State.resumeNode (s : State) (d w1 : Nat) : Bool :=
  match tabFind (s.dv d).graphs (nbits w1 0 6) with
  | some g => decide (nbits w1 6 12 < g.nodes.length) && w1 / 2 ^ 19 == 0
  | none => false

/-- CONTINUE: each parked task is restored; the block of one that was FROZEN becomes RUNNING. -/
def State.continueTask (s : State) (d t : Nat) (r : TaskRec) : State :=
  let b := r.num % 65536
  let x := s.block d r.graph r.node b
  let s1 := if (s.gnode d r.graph r.node).kind = 2 ∧ x.st = .frozen then s.setBlock d r.graph r.node b { x with st := .running } else s
  s1.unpark d t r

def execNodeResumeContinue (s : State) : Out :=
  serveCommand 32 false (fun d w s =>
    let g := nbits (w 1) 0 6
    let n := nbits (w 1) 6 12
    if !s.resumeNode d (w 1) then s.respond d stBadArgument []
    else
      let ps := (s.nodeTasks d g n).filter (fun p => p.2.st == .parked)
      if ps = [] then s.respond d stState []
      else
        let s1 := ps.foldl (fun (s : State) p => s.continueTask d p.1 p.2) s
        (if (s.gnode d g n).kind = 2 then s1.thaw d g n else s1).respond d stOk [ps.length]) s

/-- RERUN of a parked or lost task: it starts again from its launch record; a parked one counts as lost (R299). -/
def State.rerunTask (s : State) (d t : Nat) (r : TaskRec) : State :=
  let s1 := if r.st = .lost then s else s.countLost d r.graph r.launch
  let sl := s1.slot r.core r.slot
  let kept := r.home && (s1.gnode d r.graph r.node).gang && r.st == .lost
  let s2 := if kept ∧ sl.run = .ended ∧ sl.task = t then s1.setSlot r.core r.slot { sl with again := true } else s1
  (s2.removeTask d t r).newTask d
    { graph := r.graph, node := r.node, num := r.num, launch := r.launch, regs := r.regs, spawnDie := r.spawnDie,
      core := r.core, slot := r.slot, home := kept, ended := r.ended }

/-- RERUN of a FROZEN block: a parked task is discarded, and the step starts again from the committed level. -/
def State.rerunBlock (s : State) (d g n b : Nat) : State :=
  let s1 := ((s.nodeTasks d g n).filter (fun p => p.2.num % 65536 == b && p.2.st == .parked)).foldl (fun (s : State) p =>
    (s.countLost d g p.2.launch).removeTask d p.1 p.2) s
  s1.setBlock d g n b { s1.block d g n b with st := .idle, committed := false, spread := false }

def execNodeResumeRerun (s : State) : Out :=
  serveCommand 33 false (fun d w s =>
    let g := nbits (w 1) 0 6
    let n := nbits (w 1) 6 12
    let respond (s : State) (k : Nat) : State := if k = 0 then s.respond d stState [] else s.respond d stOk [k]
    if !s.resumeNode d (w 1) then s.respond d stBadArgument []
    else if (s.gnode d g n).kind = 2 then
      let bs := s.frozenBlocks d g n
      respond (if bs.isEmpty then s else (bs.foldl (fun (s : State) b => s.rerunBlock d g n b) s).thaw d g n) bs.length
    else
      let ps := (s.nodeTasks d g n).filter (fun p => p.2.st == .parked || p.2.st == .lost)
      respond (ps.foldl (fun (s : State) p => s.rerunTask d p.1 p.2) s) ps.length) s

/-! ### RESET_SCOPE (R240, R299, R306, R334, R363) -/

/-- The tasks that a scope names. -/
def State.scopeTasks (s : State) (d w1 w2 : Nat) : List (Nat × TaskRec) :=
  (s.dv d).tasks.filter (fun p =>
    nbits w1 0 2 == 2 || (p.2.graph == nbits w1 2 6 &&
      (nbits w1 0 2 == 1 || (p.2.node == nbits w1 8 12 && p.2.num % 2 ^ 32 == w2))))

/-- The launches that a graph or device scope ends: they get STATUS 1, and no node of them starts anything more. -/
def State.endLaunches (s : State) (d w1 : Nat) : State :=
  s.modDev d (fun v => { v with graphs := v.graphs.map (fun (p : Nat × Graph) =>
    if nbits w1 0 2 = 2 ∨ p.1 = nbits w1 2 6 then
      (p.1, { p.2 with launches := p.2.launches.map (fun l => { l with status := 1, nodes := l.nodes.map (fun _ => .complete) }) })
    else p) })

/-- The launches that end with the command. -/
def State.scopeLaunches (s : State) (d w1 : Nat) : List (Nat × Nat) :=
  if nbits w1 0 2 = 0 then []
  else ((s.dv d).graphs.filter (fun p => nbits w1 0 2 == 2 || p.1 == nbits w1 2 6)).flatMap (fun p => p.2.launches.map (fun l => (p.1, l.no)))

/-- A running task with no save area is discarded at once. -/
def State.dropSeated (s : State) (d t : Nat) (r : TaskRec) : State :=
  (s.killFree r.core (s.leadOf r.core r.slot) false).discardTask d t { r with st := .waiting }

/-- One task of the scope: spilled first where it runs and has a save area. -/
def State.resetTask (s : State) (d t : Nat) : State :=
  match s.taskRec d t with
  | none => s
  | some r =>
    let s1 := s.modLaunch d r.graph r.launch (fun l => { l with status := 1 })
    if r.st ≠ .seated then s1.discardTask d t r
    else if (s1.slot r.core (s1.leadOf r.core r.slot)).savearea = 0 then s1.dropSeated d t r
    else s1.preempt r.core r.slot .discard

/-- Tasks of the scope that were seated when it began and are so no longer: lost by a kill, or parked. -/
def State.unseated (s : State) (d : Nat) (ts : List Nat) : List Nat :=
  ts.filter (fun t => (s.taskRec d t).any (fun r => r.st != .seated))

/-- A command that has begun is answered once its tasks and launches are gone; `ok` is what it does then. A task that
has left its slot otherwise is discarded where it is. -/
def State.finishPending (s : State) (d : Nat) (p : Nat × List Nat × List (Nat × Nat)) (ok : State → State) : State :=
  if p.2.1.any (fun t => (s.taskRec d t).isSome) then (s.unseated d p.2.1).foldl (fun (s : State) t => s.resetTask d t) s
  else if p.2.2.any (fun l => ((s.graph d l.1).launch l.2).isSome) then
    p.2.2.foldl (fun (s : State) l => s.later (.launchComplete d l.1 l.2)) s
  else ok s

def execResetScope (s : State) : Out :=
  serveCommand 36 false (fun d w s =>
    match (s.dv d).pending with
    | some p => s.finishPending d p (fun s => s.respond d stOk [p.1])
    | none =>
      if nbits (w 1) 0 2 = 3 ∨ w 1 / 2 ^ 20 ≠ 0 ∨ (nbits (w 1) 0 2 = 0 ∧ 2 ^ 32 ≤ w 2) then s.respond d stBadArgument []
      else
        let ts := (s.scopeTasks d (w 1) (w 2)).map (·.1)
        let ls := s.scopeLaunches d (w 1)
        let s1 := if nbits (w 1) 0 2 = 0 then s else s.endLaunches d (w 1)
        let s2 := (ts.foldl (fun (s : State) t => s.resetTask d t) s1).modDev d (fun v => { v with pending := some (ts.length, ts, ls) })
        s2.laterAt d .resetScope) s

end Sys2Proof.Machine
end

