-- ==== Sys2Proof/Machine/Checkpoint.lean ====
section
/-! DEFINITION. CHECKPOINT: QUIESCE, RELEASE and ADOPT, and the descriptor (R118, R305, R334, R358, R359). -/

namespace Sys2Proof.Machine

/-! ### The descriptor (R359) -/

/-- Dwords from bytes, lowest first. -/
def packBytes : Nat → List Nat → List Nat
  | 0, _ => []
  | n + 1, bs => (bs.take 8).foldr (fun b x => b % 256 + 256 * x) 0 :: packBytes n (bs.drop 8)

/-- The code of a node's state. -/
def nodeCode : NodeSt → Nat
  | .waiting => 0
  | .eligible => 1
  | .complete => 2

/-- Dwords of the node states: one byte each, padded to a multiple of 32. -/
def statesLen (nnodes : Nat) : Nat := ceilTo 32 nnodes / 8

/-- A board entry as memory holds it (R305); a RUNNING block is recorded IDLE. -/
def Block.image (b : Block) : List Nat :=
  let st := if b.st = .running then 0 else stCode b.st
  let nbr (i : Nat) : Nat := nth 0 b.nbrs i
  let four (i : Nat) : Nat := nbr i + nbr (i + 1) * 2 ^ 16 + nbr (i + 2) * 2 ^ 32 + nbr (i + 3) * 2 ^ 48
  [b.level.toNat * 2 ^ 32 + b.step.toNat, b.prev.toNat * 2 ^ 32 + st * 2 ^ 29 + b2n b.buf * 2 ^ 28 + b.nbrs.length * 2 ^ 24, four 0, four 4]

/-- The tasks that a descriptor lists: those spilled, and those of nodes that are not LEVEL that have not started, whose
save-area address is 0 (assumption log 39). -/
def State.listed (s : State) (d g : Nat) : List (Nat × TaskRec) :=
  (s.dv d).tasks.filter (fun p => p.2.graph == g &&
    (p.2.st == .quiesced || p.2.st == .spilled || (p.2.st == .waiting && (s.gnode d g p.2.node).kind != 2)))

/-- One task of a descriptor, whose core reads as `id`. -/
def TaskRec.entry (r : TaskRec) (id : Nat) : List Nat :=
  if r.st = .waiting then [r.word, 0, 0, 0] else [r.word, r.savearea.toNat, id + b2n r.matrix * 2 ^ 21, 0]

/-- The launch that a descriptor names, and its node states: the one in progress, else the last one, complete. -/
def Graph.atLaunch (gr : Graph) : Nat × List NodeSt :=
  match gr.launches with
  | l :: _ => (l.no, l.nodes)
  | [] => ((gr.next + 2 ^ 32 - 1) % 2 ^ 32, gr.nodes.map (fun _ => .complete))

/-- The dwords of a graph's descriptor. -/
def State.descriptor (s : State) (d g : Nat) : List Nat :=
  let gr := s.graph d g
  let ts := s.listed d g
  [ts.length + g * 2 ^ 32, gr.atLaunch.1, 0, 0, 0, 0, 0, 0] ++ packBytes (statesLen gr.nodes.length) (gr.atLaunch.2.map nodeCode)
    ++ ts.flatMap (fun p => p.2.entry (s.coreId p.2.core)) ++ (gr.nodes.filter (fun nd => nd.kind == 2)).flatMap (fun nd => nd.board.flatMap Block.image)

/-- Write dwords at a physical address, in space 0; Sloelm's own range is left alone. -/
def State.physPuts (s : State) (d : Nat) : Nat → List Nat → State
  | _, [] => s
  | pa, x :: r => (if sloelmBase < pa + 8 then s else (s.writeNum 0 (.dram d pa) 8 x).mirror 0 (.dram d pa) 8).physPuts d (pa + 8) r

/-- A graph and a descriptor address are named, with no reserved bit set. -/
def State.checkpointArgs (s : State) (d : Nat) (w : Nat → Nat) (op : Nat) : Bool :=
  (tabFind (s.dv d).graphs (nbits (w 1) 0 6)).isSome && w 1 / 2 ^ 8 == 0 && nbits (w 1) 6 2 == op && decide (w 2 < sloelmBase)

/-! ### QUIESCE (R358) -/

/-- A seated task of the graph has no save area. -/
def State.seatedBare (s : State) (d g : Nat) : Bool :=
  (s.dv d).tasks.any (fun p => p.2.graph == g && p.2.st == .seated && (s.slot p.2.core (s.leadOf p.2.core p.2.slot)).savearea == 0)

/-- Every seated task is spilled; the steps of LEVEL nodes end by themselves. -/
def State.quiesceTasks (s : State) (d g : Nat) : State :=
  (s.dv d).tasks.foldl (fun (s : State) p =>
    if p.2.graph = g ∧ p.2.st = .seated ∧ (s.gnode d g p.2.node).kind ≠ 2 then s.preempt p.2.core p.2.slot .checkpoint else s) s

/-- No task is seated or moving, and every job of the graph has ended with its writes within DEV acknowledged. -/
def State.quiescent (s : State) (d g : Nat) : Bool :=
  !(s.dv d).tasks.any (fun p => p.2.graph == g && (p.2.st == .seated || p.2.st == .transit)) &&
  !s.cores.any (fun p => devOf p.1 == d && p.2.seq.any (fun j => bitsN j.taskw 44 6 == g)) &&
  !s.net.any (fun a => a.slot == 64 && devOf a.core == d && bitsN a.taskw 44 6 == g && inScope a.core 5 a.home)

/-- The tasks saved stay until RELEASE. -/
def State.holdTasks (s : State) (d g : Nat) : State :=
  (s.dv d).tasks.foldl (fun (s : State) p =>
    if p.2.graph = g ∧ p.2.st = .spilled then (s.setTask d p.1 { p.2 with st := .quiesced }).offList d p.1 else s) s

/-- Once the graph is still, its descriptor is written. -/
def State.quiesceEnd (s : State) (d g pa : Nat) : State :=
  if !s.quiescent d g then s
  else
    let s1 := s.holdTasks d g
    let ws := s1.descriptor d g
    (s1.physPuts d pa ws).respond d stOk [8 * ws.length]

def execCheckpointQuiesce (s : State) : Out :=
  serveCommand 52 false (fun d w s =>
    let g := nbits (w 1) 0 6
    let gr := s.graph d g
    if (s.dv d).pending.isSome then (s.quiesceTasks d g).quiesceEnd d g (w 2)
    else if !s.checkpointArgs d w 0 then s.respond d stBadArgument []
    else if gr.quiesced ∨ 1 < gr.launches.length ∨ s.seatedBare d g then s.respond d stState []
    else ((((s.modGraph d g (fun x => { x with quiesced := true })).modDev d (fun v => { v with pending := some (0, [], []) })).quiesceTasks
      d g).laterAt d .checkpointQuiesce)) s

/-! ### RELEASE (R358) -/

/-- Every saved task is restored when a seat is free, and scheduling resumes. -/
def State.releaseTasks (s : State) (d g : Nat) : State :=
  (s.dv d).tasks.foldl (fun (s : State) p =>
    if p.2.graph = g ∧ p.2.st = .quiesced then
      let v := s.dv d
      s.setDev d { v with tasks := tabPut v.tasks p.1 { p.2 with st := .spilled, since := v.cycle }, arrivals := v.arrivals ++ [p.1] }
    else s) s

/-- The LEVEL nodes of a graph start blocks again. -/
def State.evalLevels (s : State) (d g : Nat) : State :=
  (rangeFrom 0 (s.graph d g).nodes.length).foldl (fun (s : State) n => s.evalNode d g n) s

def execCheckpointRelease (s : State) : Out :=
  serveCommand 53 false (fun d w s =>
    let g := nbits (w 1) 0 6
    if !s.checkpointArgs d w 1 then s.respond d stBadArgument []
    else if !(s.graph d g).quiesced then s.respond d stState []
    else
      let n := 8 * (s.descriptor d g).length
      ((((s.modGraph d g (fun x => { x with quiesced := false })).releaseTasks d g).evalLevels d g).offerAll d).respond d stOk [n]) s

/-! ### ADOPT (R358) -/

/-- A node's state by its code. -/
def nodeOf : Nat → Option NodeSt
  | 0 => some .waiting
  | 1 => some .eligible
  | 2 => some .complete
  | _ => none

/-- A block of a descriptor: FROZEN and DONE blocks stay so, every other is IDLE. -/
def adoptBlock (count stepmax b : Nat) (ws : List Nat) : Option Block :=
  let st := nbits (nth 0 ws 1) 29 3
  let w1 := nth 0 ws 1 - st * 2 ^ 29 + (if st = 5 then 5 else 0) * 2 ^ 29
  if 5 < st then none
  else (blockOf count stepmax b (setNth ws 1 w1)).map (fun x => if st = 4 then { x with st := .frozen } else x)

/-- The entries of one board, from entry `b` on. -/
def State.adoptBlocks (s : State) (d count stepmax : Nat) : Nat → Nat → Nat → Chk (List Block)
  | _, _, 0 => .ok []
  | pa, b, n + 1 => match s.argWords d pa 4 with
    | none => .fault
    | some ws => match adoptBlock count stepmax b ws, s.adoptBlocks d count stepmax (pa + 32) (b + 1) n with
      | _, .fault => .fault
      | some x, .ok l => .ok (x :: l)
      | _, _ => .bad

/-- The boards of a descriptor, node by node. -/
def State.adoptBoards (s : State) (d : Nat) : Nat → List GNode → Chk (List (List Block))
  | _, [] => .ok []
  | pa, nd :: r =>
    let n := if nd.kind = 2 then nd.count else 0
    match s.adoptBlocks d nd.count nd.stepmax pa 0 n, s.adoptBoards d (pa + 32 * n) r with
    | .fault, _ => .fault
    | _, .fault => .fault
    | .ok b, .ok l => if spreadOk b then .ok (b :: l) else .bad
    | _, _ => .bad

/-- What a descriptor holds: launch number, node states, tasks as four dwords each, boards, length. -/
structure Descr where
  lno : Nat
  nodes : List NodeSt
  tasks : List (List Nat)
  boards : List (List Block)
  size : Nat
  deriving DecidableEq, Repr

/-- Four dwords at a time. -/
def fours : Nat → List Nat → List (List Nat)
  | 0, _ => []
  | n + 1, l => l.take 4 :: fours n (l.drop 4)

/-- An entry of a task names a node of the graph, and no reserved bit is set. -/
def entryOk (g nnodes : Nat) (e : List Nat) : Bool :=
  let w (i : Nat) : Nat := nth 0 e i
  nbits (w 0) 44 6 == g && nbits (w 0) 50 14 == 0 && decide (nbits (w 0) 32 12 < nnodes) && w 2 / 2 ^ 22 == 0 && w 3 == 0

/-- Read and check a descriptor. -/
def State.readDescr (s : State) (d g pa : Nat) (gr : Graph) : Chk Descr :=
  let nn := gr.nodes.length
  let k := statesLen nn
  match s.argWords d pa (8 + k) with
  | none => .fault
  | some h =>
    let nt := nbits (nth 0 h 0) 0 32
    let bytes := (rangeFrom 0 nn).map (fun i => nbits (nth 0 h (8 + i / 8)) (8 * (i % 8)) 8)
    let states := bytes.filterMap nodeOf
    if nth 0 h 0 / 2 ^ 32 ≠ g ∨ nth 0 h 1 / 2 ^ 32 ≠ 0 ∨ ((h.take 8).drop 2).any (· != 0) ∨ states.length ≠ nn ∨ 262144 < nt then .bad
    else match s.argWords d (pa + 64 + 8 * k) (4 * nt) with
      | none => .fault
      | some ts =>
        let es := fours nt ts
        match s.adoptBoards d (pa + 64 + 8 * k + 32 * nt) gr.nodes with
        | .fault => .fault
        | .bad => .bad
        | .ok bs =>
          if es.all (entryOk g nn) then
            .ok { lno := nth 0 h 1, nodes := states, tasks := es, boards := bs,
                  size := 64 + 8 * k + 32 * nt + 32 * bs.foldl (fun n b => n + b.length) 0 }
          else .bad

/-- Registers of an adopted save area that were bound to claims become full and poisoned, with a tag of class CASRIS. -/
def State.poisonClaimed (s : State) (d space area : Nat) : State :=
  (rangeFrom 0 (nbits (s.vnum d space (area + 0x58) 8) 0 8)).foldl (fun (s : State) i =>
    let at' := area + 0x900 + 2 * i
    if nbits (s.vnum d space at' 2) 13 1 = 1 then
      let (tag, s1) := s.logErr d clsCasris space none (BitVec.ofNat 64 (area + 0x500 + 8 * i)) (s.dv d).cycle (unitOf d)
      s1.vputN d space at' 2 (areaMeta true true false tag)
    else s) s

/-- The pool area that lies at an address: its index + 1, or 0. -/
def Graph.areaOf (gr : Graph) (a : Nat) : Nat :=
  if gr.save ≤ a ∧ (a - gr.save) % 20480 = 0 ∧ (a - gr.save) / 20480 < gr.saven then (a - gr.save) / 20480 + 1 else 0

/-- One task is adopted: its restore is queued under its hint, or it starts where it had not. -/
def State.adoptTask (s : State) (d g lno : Nat) (e : List Nat) : State :=
  let w (i : Nat) : Nat := nth 0 e i
  let n := nbits (w 0) 32 12
  let gr := s.graph d g
  let r : TaskRec := { graph := g, node := n, num := nbits (w 0) 0 32, launch := lno, regs := s.launchRegs d g lno n }
  if w 1 = 0 then s.newTask d r
  else
    let area := gr.areaOf (w 1)
    let s1 := (s.poisonClaimed d gr.space (w 1)).modGraph d g (fun x => { x with areas := if area = 0 then x.areas else x.areas ++ [area - 1] })
    s1.newTask d { r with st := .spilled, core := d * 512 + w 2 % 512, area := area, savearea := saveReg (w 1),
                          matrix := nbits (w 2) 21 1 == 1 }

/-- Tasks spawned into a node before the checkpoint, as far as the tasks listed show (assumption log 39). -/
def spawnedIn (nd : GNode) (n : Nat) (ts : List (List Nat)) : Nat :=
  (ts.filter (fun e => nbits (nth 0 e 0) 32 12 == n)).foldl (fun k e => max k (nbits (nth 0 e 0) 0 32 + 1 - nd.count)) 0

/-- The launch of a descriptor goes on here. -/
def State.adopt (s : State) (d g : Nat) (x : Descr) : State :=
  let gr := s.graph d g
  let started (p : NodeSt × GNode) : Nat := if p.1 = .waiting ∨ p.2.kind = 2 then 0 else p.2.count
  let regs := gr.nodes.map (·.regs)
  let l : Launch :=
    { no := x.lno, regs := regs, nodes := x.nodes, made := (x.nodes.zip gr.nodes).map started,
      spawned := gr.nodes.zipIdx.map (fun p => spawnedIn p.1 p.2 x.tasks), foot := gr.nodes.map (fun nd => (nd.reads, nd.writes)),
      boards := x.boards, parts := (gr.nodes.zip regs).map (fun p => s.partOf d gr p.1 p.2) }
  let allDone := x.tasks.isEmpty && x.nodes.all (fun n => n == .complete)
  let nodes := gr.nodes.zipIdx.map (fun p =>
    if p.1.kind = 2 then { p.1 with board := nth [] x.boards p.2, part := nth 0 l.parts p.2, frozen := false, freezeCause := 0 } else p.1)
  let s1 := s.modGraph d g (fun y =>
    { y with next := (x.lno + 1) % 2 ^ 32, nodes := nodes, launches := if allDone then y.launches else y.launches ++ [l] })
  let s2 := x.tasks.foldl (fun (s : State) e => s.adoptTask d g x.lno e) s1
  let s3 := (s2.evalLevels d g).refresh d g
  ((rangeFrom 0 gr.nodes.length).foldl (fun (s : State) n => s.later (.nodeComplete d g x.lno n)) s3).later (.launchComplete d g x.lno)

def execCheckpointAdopt (s : State) : Out :=
  serveCommand 54 false (fun d w s =>
    let g := nbits (w 1) 0 6
    let gr := s.graph d g
    if !s.checkpointArgs d w 2 then s.respond d stBadArgument []
    else if gr.launches ≠ [] ∨ gr.quiesced then s.respond d stState []
    else match s.readDescr d g (w 2) gr with
      | .fault => s.respond d stFault []
      | .bad => s.respond d stBadArgument []
      | .ok x => ((s.adopt d g x).offerAll d).respond d stOk [x.size]) s

end Sys2Proof.Machine
end

