-- ==== Sys2Proof/Machine/Floating.lean ====
section
/-! DEFINITION. The scalar floating-point instructions (R74 to R81). -/

namespace Sys2Proof.Machine

/-- The format in fn[1:0] (R54). -/
def Ctx.fmt (x : Ctx) : Fmt := fmtOf (fld x.o.fn.toNat 0 2)

/-- An operand's pattern: the low bits of its register (R74). -/
def Fmt.low (f : Fmt) (v : Word) : Nat := v.toNat % 2 ^ f.width

/-- The rounding mode of fn[4:2] (R19, R54). -/
def fMode (x : Ctx) (s : State) : RMode := (s.slot x.c x.n).mode (fld x.o.fn.toNat 2 3)

/-- A pattern with its flags: FP_TRAP, or the flags are raised and the pattern written zero-extended
(R20, R74). -/
def fResult (x : Ctx) (r : Nat × Flags) (s : State) : Res := withFlags x r.2 s (writeD x (BitVec.ofNat 64 r.1))

/-- A predicate with its flags. -/
def fPredicate (x : Ctx) (r : Bool × Flags) (s : State) : Res := withFlags x r.2 s (writeP x r.1)

def faddBody (x : Ctx) (v : Vals) (s : State) : Res := fResult x (fAdd x.fmt (fMode x s) (x.fmt.low v.a) (x.fmt.low v.b)) s
def fsubBody (x : Ctx) (v : Vals) (s : State) : Res := fResult x (fSub x.fmt (fMode x s) (x.fmt.low v.a) (x.fmt.low v.b)) s
def fmulBody (x : Ctx) (v : Vals) (s : State) : Res := fResult x (fMul x.fmt (fMode x s) (x.fmt.low v.a) (x.fmt.low v.b)) s
def fmaBody (x : Ctx) (v : Vals) (s : State) : Res :=
  let fn := x.o.fn.toNat
  fResult x (fFma x.fmt (fMode x s) (bitN fn 5) (bitN fn 6) (x.fmt.low v.a) (x.fmt.low v.b) (x.fmt.low v.c)) s
def fminBody (x : Ctx) (v : Vals) (s : State) : Res := fResult x (fMinMax x.fmt false (x.fmt.low v.a) (x.fmt.low v.b)) s
def fmaxBody (x : Ctx) (v : Vals) (s : State) : Res := fResult x (fMinMax x.fmt true (x.fmt.low v.a) (x.fmt.low v.b)) s
def fcmpBody (x : Ctx) (v : Vals) (s : State) : Res :=
  fPredicate x (fCmp x.fmt (fld x.o.fn.toNat 7 4) (x.fmt.low v.a) (x.fmt.low v.b)) s
def fcvtBody (x : Ctx) (v : Vals) (s : State) : Res :=
  let r := fCvt x.fmt (fMode x s) (fld x.o.fn.toNat 7 4) v.a
  withFlags x r.2 s (writeD x r.1)
def frcpBody (x : Ctx) (v : Vals) (s : State) : Res := fResult x (fRcp x.fmt (x.fmt.low v.a)) s
def frsqBody (x : Ctx) (v : Vals) (s : State) : Res := fResult x (fRsq x.fmt (x.fmt.low v.a)) s
def frcprBody (x : Ctx) (v : Vals) (s : State) : Res :=
  fResult x (fNewton x.fmt (fMode x s) false (x.fmt.low v.a) (x.fmt.low v.b)) s
def frsqrBody (x : Ctx) (v : Vals) (s : State) : Res :=
  fResult x (fNewton x.fmt (fMode x s) true (x.fmt.low v.a) (x.fmt.low v.b)) s
def fsfnBody (x : Ctx) (v : Vals) (s : State) : Res :=
  fResult x (fSfn x.fmt (fMode x s) (fld x.o.fn.toNat 7 4) (x.fmt.low v.a)) s
def fclassBody (x : Ctx) (v : Vals) (s : State) : Res := writeD x (BitVec.ofNat 64 (fClass x.fmt (x.fmt.low v.a))) s
def fsgnBody (x : Ctx) (v : Vals) (s : State) : Res :=
  writeD x (BitVec.ofNat 64 (fSgn x.fmt (fld x.o.fn.toNat 7 4) (x.fmt.low v.a) (x.fmt.low v.b))) s

def dscF2 : Desc := { d := .dst, a := .src, b := .src, lit := .flt }
def dscF3 : Desc := { d := .dst, a := .src, b := .src, c := .src, lit := .flt }
def dscF1 : Desc := { d := .dst, a := .src }
def dscFCmp : Desc := { d := .pdst, a := .src, b := .src, lit := .flt }

def execFadd (o : Opnd) (s : State) : Out := runLong 0x20 dscF2 o faddBody s
def execFsub (o : Opnd) (s : State) : Out := runLong 0x21 dscF2 o fsubBody s
def execFmul (o : Opnd) (s : State) : Out := runLong 0x22 dscF2 o fmulBody s
def execFma (o : Opnd) (s : State) : Out := runLong 0x23 dscF3 o fmaBody s
def execFmin (o : Opnd) (s : State) : Out := runLong 0x24 dscF2 o fminBody s
def execFmax (o : Opnd) (s : State) : Out := runLong 0x25 dscF2 o fmaxBody s
def execFcmp (o : Opnd) (s : State) : Out := runLong 0x26 dscFCmp o fcmpBody s
def execFcvt (o : Opnd) (s : State) : Out := runLong 0x27 dscF1 o fcvtBody s
def execFrcp (o : Opnd) (s : State) : Out := runLong 0x28 dscF1 o frcpBody s
def execFrsq (o : Opnd) (s : State) : Out := runLong 0x29 dscF1 o frsqBody s
def execFrcpr (o : Opnd) (s : State) : Out := runLong 0x2A dscF2 o frcprBody s
def execFrsqr (o : Opnd) (s : State) : Out := runLong 0x2B dscF2 o frsqrBody s
def execFsfn (o : Opnd) (s : State) : Out := runLong 0x2C dscF1 o fsfnBody s
def execFclass (o : Opnd) (s : State) : Out := runLong 0x2D dscF1 o fclassBody s
def execFsgn (o : Opnd) (s : State) : Out := runLong 0x2E dscF2 o fsgnBody s

end Sys2Proof.Machine
end

