-- ==== Sys2Proof/Machine/Integer.lean ====
section
/-! DEFINITION. The integer instructions (R70 to R73) and their compact words (R44, R45). -/

namespace Sys2Proof.Machine

/-! ### Results on W bits -/

/-- Signed or unsigned less-than (R70). -/
def lessW {w : Nat} (u : Bool) (a b : BitVec w) : Bool := if u then a.ult b else a.slt b

/-- Bits [2W-1:W] of the product (R71). -/
def mulhW {w : Nat} (u : Bool) (a b : BitVec w) : BitVec w :=
  if u then (a.setWidth (2 * w) * b.setWidth (2 * w)).extractLsb' w w
  else (a.signExtend (2 * w) * b.signExtend (2 * w)).extractLsb' w w

/-- The quotient truncated toward zero, and the remainder with the dividend's sign (R71, R73). -/
def divW {w : Nat} (u : Bool) (a b : BitVec w) : BitVec w := if u then a.udiv b else a.sdiv b
def remW {w : Nat} (u : Bool) (a b : BitVec w) : BitVec w := if u then a.umod b else a.srem b

/-- Bits of a number by position, bit `i` counted when `p` holds of it. -/
def countBits (p : Nat → Bool) : Nat → Nat
  | 0 => 0
  | n + 1 => b2n (p n) + countBits p n

/-- Zero bits before the first 1, the bits taken in the order `at` gives them (R71). -/
def zeroRun (at' : Nat → Bool) : Nat → Nat → Nat
  | _, 0 => 0
  | i, n + 1 => if at' i then 0 else 1 + zeroRun at' (i + 1) n

def clzW {w : Nat} (a : BitVec w) : BitVec w := BitVec.ofNat w (zeroRun (fun i => a.getLsbD (w - 1 - i)) 0 w)
def ctzW {w : Nat} (a : BitVec w) : BitVec w := BitVec.ofNat w (zeroRun (fun i => a.getLsbD i) 0 w)
def popcW {w : Nat} (a : BitVec w) : BitVec w := BitVec.ofNat w (countBits (fun i => a.getLsbD i) w)

/-- A field of `len` bits from bit `pos`; bits above the word read as 0 (R71). -/
def bfxW {w : Nat} (u : Bool) (len : Nat) (a b : BitVec w) : BitVec w :=
  let x := (a >>> (b.toNat % w)).toNat
  if u then BitVec.ofNat w (x % 2 ^ len) else BitVec.ofInt w (sgnN len x)

/-- A with a field of `len` bits at `pos` replaced by the low bits of C; field bits above the word are dropped
(R71). -/
def bfiW {w : Nat} (len : Nat) (a b c : BitVec w) : BitVec w :=
  let pos := b.toNat % w
  let ones := BitVec.ofNat w (2 ^ len - 1)
  (a &&& ~~~(ones <<< pos)) ||| ((c &&& ones) <<< pos)

/-- The sum clamped to the signed or unsigned range (R71). -/
def addsW {w : Nat} (u : Bool) (a b : BitVec w) : BitVec w :=
  if u then BitVec.ofNat w (min (a.toNat + b.toNat) (2 ^ w - 1))
  else BitVec.ofInt w (max (-(2 ^ (w - 1) : Int)) (min (a.toInt + b.toInt) (2 ^ (w - 1) - 1)))

/-- The condition codes of `cmp` (R72). -/
def condW {w : Nat} (u : Bool) (cond : Nat) (a b : BitVec w) : Bool :=
  match cond with
  | 0 => a == b
  | 1 => a != b
  | 2 => lessW u a b
  | 3 => !lessW u a b
  | 4 => !lessW u b a
  | 5 => lessW u b a
  | 6 => (a &&& b) != 0
  | _ => (a &&& b) == 0

/-! ### Bodies -/

/-- The variants of an instruction: w in fn[0], unsigned in fn[1] (R54). -/
def Ctx.w32 (x : Ctx) : Bool := bitN x.o.fn.toNat 0
def Ctx.uns (x : Ctx) : Bool := bitN x.o.fn.toNat 1

/-- A result on W bits of A, B and C, sign-extended and written (R70). -/
def onW (f : (w : Nat) → Bool → BitVec w → BitVec w → BitVec w → BitVec w) (x : Ctx) (v : Vals) (s : State) : Res :=
  writeD x (if x.w32 then (f 32 x.uns (v.a.setWidth 32) (v.b.setWidth 32) (v.c.setWidth 32)).signExtend 64
            else f 64 x.uns v.a v.b v.c) s

/-- B is zero on W bits (R73). -/
def zeroB (x : Ctx) (v : Vals) : Bool := if x.w32 then v.b.setWidth 32 == 0 else v.b == 0

def addBody := onW fun _ _ a b _ => a + b
def subBody := onW fun _ _ a b _ => a - b
def mulBody := onW fun _ _ a b _ => a * b
def mulhBody := onW fun _ u a b _ => mulhW u a b
def andBody := onW fun _ _ a b _ => a &&& b
def orBody := onW fun _ _ a b _ => a ||| b
def xorBody := onW fun _ _ a b _ => a ^^^ b
def andnBody := onW fun _ _ a b _ => a &&& ~~~b
def shlBody := onW fun w _ a b _ => a <<< (b.toNat % w)
def shrBody := onW fun w _ a b _ => a >>> (b.toNat % w)
def sraBody := onW fun w _ a b _ => a.sshiftRight (b.toNat % w)
def rotBody := onW fun w _ a b _ => a.rotateRight (b.toNat % w)
def minBody := onW fun _ u a b _ => if lessW u b a then b else a
def maxBody := onW fun _ u a b _ => if lessW u a b then b else a
def clzBody := onW fun _ _ a _ _ => clzW a
def ctzBody := onW fun _ _ a _ _ => ctzW a
def popcBody := onW fun _ _ a _ _ => popcW a
def movBody := onW fun _ _ _ b _ => b
def addsBody := onW fun _ u a b _ => addsW u a b
def maddBody := onW fun _ _ a b c => a * b + c

/-- Quotient or remainder; a zero divisor takes DIVIDE_ZERO (R73). -/
def divBody (x : Ctx) (v : Vals) (s : State) : Res :=
  if zeroB x v then .trap 6 0 0 else onW (fun _ u a b _ => divW u a b) x v s
def remBody (x : Ctx) (v : Vals) (s : State) : Res :=
  if zeroB x v then .trap 6 0 0 else onW (fun _ u a b _ => remW u a b) x v s

def bfxBody (x : Ctx) (v : Vals) (s : State) : Res :=
  onW (fun _ u a b _ => bfxW u (fld x.o.fn.toNat 6 8) a b) x v s
def bfiBody (x : Ctx) (v : Vals) (s : State) : Res :=
  onW (fun _ _ a b c => bfiW (fld x.o.fn.toNat 6 8) a b c) x v s

/-- A or B by a predicate, negated under fn[5] (R71). -/
def selBody (x : Ctx) (v : Vals) (s : State) : Res :=
  let fn := x.o.fn.toNat
  writeD x (if (s.slot x.c x.n).pred (fld fn 2 3) != bitN fn 5 then v.a else v.b) s

/-- A predicate from a comparison on W bits (R72). -/
def cmpBody (x : Ctx) (v : Vals) (s : State) : Res :=
  let cond := fld x.o.fn.toNat 2 4
  writeP x (if x.w32 then condW x.uns cond (v.a.setWidth 32) (v.b.setWidth 32) else condW x.uns cond v.a v.b) s

/-- A + (B << s) (R71). -/
def leaBody (x : Ctx) (v : Vals) (s : State) : Res := writeD x (v.a + (v.b <<< fld x.o.fn.toNat 6 8)) s

/-- The low 8, 16 or 32 bits extended (R71). -/
def extBody (x : Ctx) (v : Vals) (s : State) : Res :=
  let n := 8 * 2 ^ fld x.o.fn.toNat 2 2
  writeD x (if x.uns then BitVec.ofNat 64 (v.a.toNat % 2 ^ n) else signExt n v.a.toNat) s

/-- A plus the sign-extended 5-bit immediate in field b (R45). -/
def addiBody (x : Ctx) (v : Vals) (s : State) : Res := writeD x (v.a + signExt 5 x.o.b.toNat) s

/-! ### Operand fields -/

def dsc2 : Desc := { d := .dst, a := .src, b := .src, lit := .int }
def dsc3 : Desc := { d := .dst, a := .src, b := .src, c := .src, lit := .int }
def dsc1 : Desc := { d := .dst, a := .src }
def dscCmp : Desc := { d := .pdst, a := .src, b := .src, lit := .int }
def dscMov : Desc := { d := .dst, b := .src, lit := .int }

/-- `mov zero, port` discards the port's head with no poison check (R127). -/
def movDiscards (o : Opnd) : Bool := decide (o.d = 145) && o.lit.isNone && popping o.b.toNat

/-! ### Compact words (R44, R45) -/

def execAddCompact (k : Compact) (s : State) : Out := runCompact 0x00 dsc2 k addBody s
def execSubCompact (k : Compact) (s : State) : Out := runCompact 0x01 dsc2 k subBody s
def execMulCompact (k : Compact) (s : State) : Out := runCompact 0x02 dsc2 k mulBody s
def execMulhCompact (k : Compact) (s : State) : Out := runCompact 0x03 dsc2 k mulhBody s
def execDivCompact (k : Compact) (s : State) : Out := runCompact 0x04 dsc2 k divBody s
def execRemCompact (k : Compact) (s : State) : Out := runCompact 0x05 dsc2 k remBody s
def execAndCompact (k : Compact) (s : State) : Out := runCompact 0x06 dsc2 k andBody s
def execOrCompact (k : Compact) (s : State) : Out := runCompact 0x07 dsc2 k orBody s
def execXorCompact (k : Compact) (s : State) : Out := runCompact 0x08 dsc2 k xorBody s
def execAndnCompact (k : Compact) (s : State) : Out := runCompact 0x09 dsc2 k andnBody s
def execShlCompact (k : Compact) (s : State) : Out := runCompact 0x0A dsc2 k shlBody s
def execShrCompact (k : Compact) (s : State) : Out := runCompact 0x0B dsc2 k shrBody s
def execSraCompact (k : Compact) (s : State) : Out := runCompact 0x0C dsc2 k sraBody s
def execRotCompact (k : Compact) (s : State) : Out := runCompact 0x0D dsc2 k rotBody s
def execMinCompact (k : Compact) (s : State) : Out := runCompact 0x0E dsc2 k minBody s
def execMaxCompact (k : Compact) (s : State) : Out := runCompact 0x0F dsc2 k maxBody s
def execClzCompact (k : Compact) (s : State) : Out := runCompact 0x10 dsc1 k clzBody s
def execCtzCompact (k : Compact) (s : State) : Out := runCompact 0x11 dsc1 k ctzBody s
def execPopcCompact (k : Compact) (s : State) : Out := runCompact 0x12 dsc1 k popcBody s
def execSelCompact (k : Compact) (s : State) : Out := runCompact 0x15 dsc2 k selBody s
def execCmpCompact (k : Compact) (s : State) : Out := runCompact 0x16 dscCmp k cmpBody s
def execMovCompact (k : Compact) (s : State) : Out := runCompact 0x17 dscMov k movBody s
def execAddi (k : Compact) (s : State) : Out := runCompact 0x18 dsc1 k addiBody s

/-! ### 64-bit and 96-bit words (R71) -/

def execAdd (o : Opnd) (s : State) : Out := runLong 0x00 dsc2 o addBody s
def execSub (o : Opnd) (s : State) : Out := runLong 0x01 dsc2 o subBody s
def execMul (o : Opnd) (s : State) : Out := runLong 0x02 dsc2 o mulBody s
def execMulh (o : Opnd) (s : State) : Out := runLong 0x03 dsc2 o mulhBody s
def execDiv (o : Opnd) (s : State) : Out := runLong 0x04 dsc2 o divBody s
def execRem (o : Opnd) (s : State) : Out := runLong 0x05 dsc2 o remBody s
def execAnd (o : Opnd) (s : State) : Out := runLong 0x06 dsc2 o andBody s
def execOr (o : Opnd) (s : State) : Out := runLong 0x07 dsc2 o orBody s
def execXor (o : Opnd) (s : State) : Out := runLong 0x08 dsc2 o xorBody s
def execAndn (o : Opnd) (s : State) : Out := runLong 0x09 dsc2 o andnBody s
def execShl (o : Opnd) (s : State) : Out := runLong 0x0A dsc2 o shlBody s
def execShr (o : Opnd) (s : State) : Out := runLong 0x0B dsc2 o shrBody s
def execSra (o : Opnd) (s : State) : Out := runLong 0x0C dsc2 o sraBody s
def execRot (o : Opnd) (s : State) : Out := runLong 0x0D dsc2 o rotBody s
def execMin (o : Opnd) (s : State) : Out := runLong 0x0E dsc2 o minBody s
def execMax (o : Opnd) (s : State) : Out := runLong 0x0F dsc2 o maxBody s
def execClz (o : Opnd) (s : State) : Out := runLong 0x10 dsc1 o clzBody s
def execCtz (o : Opnd) (s : State) : Out := runLong 0x11 dsc1 o ctzBody s
def execPopc (o : Opnd) (s : State) : Out := runLong 0x12 dsc1 o popcBody s
def execBfx (o : Opnd) (s : State) : Out := runLong 0x13 dsc2 o bfxBody s
def execBfi (o : Opnd) (s : State) : Out := runLong 0x14 dsc3 o bfiBody s
def execSel (o : Opnd) (s : State) : Out := runLong 0x15 dsc2 o selBody s
def execCmp (o : Opnd) (s : State) : Out := runLong 0x16 dscCmp o cmpBody s
def execMov (o : Opnd) (s : State) : Out :=
  issueWith (movDiscards o) .inner dscMov o (encWord0 0x17 o) (lenOf o) (.roundStart 0) movBody s
def execLea (o : Opnd) (s : State) : Out := runLong 0x18 dsc2 o leaBody s
def execExt (o : Opnd) (s : State) : Out := runLong 0x19 dsc1 o extBody s
def execAdds (o : Opnd) (s : State) : Out := runLong 0x1A dsc2 o addsBody s
def execMadd (o : Opnd) (s : State) : Out := runLong 0x1B dsc3 o maddBody s

end Sys2Proof.Machine
end

