-- ==== Sys2Proof/Machine/VectorMem.lean ====
section
/-! DEFINITION. The vector memory instructions (R183 to R186). -/

namespace Sys2Proof.Machine

/-- A field that names zero. -/
def namesZero (f : BitVec 8) : Bool := decide (f = 145)

/-- The page formats that `.fmt` reads into an element type: a float page has no integers (R152). -/
def fmtOk (x : Ctx) (f : Nat) : Bool := decide (f = 7) || isFloat x.vt

/-- A load from its plan: the destination is empty-pending until completion (R167). -/
def loadPlan (x : Ctx) (cols : Nat) (p : Plan × Nat) : Res :=
  match p.1 with
  | .stop r => r
  | .go es sc s t =>
    let e := (s.slot x.c x.n).vent (x.o.d.toNat % 32)
    let m : VMem := { id := 0, slot := x.n, sort := 0, dst := e, etype := x.vt, fmt := p.2, rm := x.vmode s,
                      en := if p.2 = 0 then 0 else (s.slot x.c x.n).trapEn, cols := cols, scale := sc, trap := t,
                      was := ((s.core x.c).vreg e).full }
    issueElems x .vread m es (s.modCore x.c (fun k => k.setVreg e { k.vreg e with full := false, pend := true }))

/-- A store from its plan, element k holding `val k`. -/
def storePlan (x : Ctx) (val : Nat → Nat) : Plan → Res
  | .stop r => r
  | .go es _ s t => issueElems x .vwrite { id := 0, slot := x.n, sort := 3, dst := 0, trap := t } (es.map (fun e => { e with dat := val e.k })) s

/-- The stride of `vld` and `vst` (R184), in the units of the row. -/
def strideOf (f : BitVec 8) (c : Word) (packed : Nat) : Int := if namesZero f then packed else c.toInt

def vldBody (x : Ctx) (v : Vals) (s : State) : Res :=
  let e := esize x.vt
  let base := (v.a + v.b).toNat
  withShape x e s fun rows cols => whenAlone x s <|
    if bitN x.fn 6 then
      let st := strideOf x.o.c v.c cols
      loadPlan x cols (fmtPlan x s .load (fmtOk x) base rows cols (fun i => i * st))
    else
      let st := strideOf x.o.c v.c (cols * e)
      loadPlan x cols (s.plan x.c (s.slot x.c x.n).space .load none (rawElems rows cols base e (fun i j => i * st + j * e)), 0)

def vstBody (x : Ctx) (v : Vals) (s : State) : Res :=
  let e := esize x.vt
  let base := (v.a + v.b).toNat
  withShape x e s fun rows cols => whenAlone x s <|
    let st := strideOf x.o.d v.d (cols * e)
    storePlan x (fun k => elemAt e v.vc (offOf e (k / cols) (k % cols)))
      (s.plan x.c (s.slot x.c x.n).space .store none (rawElems rows cols base e (fun i j => i * st + j * e)))

/-- The index of element k, and the offset of row i (R184). -/
def idxOf (vb : VData) (k : Nat) : Int := sgnN 32 (bitsN vb (32 * k) 32)
def rowOff (vb : VData) (i : Nat) : Int := sgnN 64 (bitsN vb (64 * i) 64)

/-- Byte offsets of a gather or scatter. -/
def scatOff (x : Ctx) (vb : VData) (cols i j : Nat) : Int :=
  let e := esize x.vt
  if bitN x.fn 6 then rowOff vb i + j * e else idxOf vb (i * cols + j) * e

/-- An indexed instruction has at most 128 elements, but for its `.row` form (R184). -/
def withIndex (x : Ctx) (s : State) (k : Nat → Nat → Res) : Res :=
  withShape x (esize x.vt) s fun rows cols =>
    if !bitN x.fn 6 && decide (128 < rows * cols) then .trap 1 5 (s.slot x.c x.n).vshape else whenAlone x s (k rows cols)

def vgatherBody (x : Ctx) (v : Vals) (s : State) : Res :=
  withIndex x s fun rows cols =>
    if bitN x.fn 7 then
      loadPlan x cols (fmtPlan x s .load (fmtOk x) v.a.toNat rows cols (rowOff v.vb))
    else loadPlan x cols (s.plan x.c (s.slot x.c x.n).space .load none
      (rawElems rows cols v.a.toNat (esize x.vt) (scatOff x v.vb cols)), 0)

def vscatterBody (x : Ctx) (v : Vals) (s : State) : Res :=
  let e := esize x.vt
  withIndex x s fun rows cols =>
    storePlan x (fun k => elemAt e v.vc (offOf e (k / cols) (k % cols)))
      (s.plan x.c (s.slot x.c x.n).space .store none (rawElems rows cols v.a.toNat e (scatOff x v.vb cols)))

def execVld (o : Opnd) (s : State) : Out :=
  runLong 0x80 { d := .vdst, a := .src, b := .src, c := .src, lit := .int, far := .sum } o vldBody s
def execVst (o : Opnd) (s : State) : Out :=
  runLong 0x81 { d := .dsrc, a := .src, b := .src, c := .vsrc, lit := .int, far := .sum } o vstBody s
def execVgather (o : Opnd) (s : State) : Out :=
  runLong 0x82 { d := .vdst, a := .src, b := .vsrc, lit := .vidx, far := .index } o vgatherBody s
def execVscatter (o : Opnd) (s : State) : Out :=
  runLong 0x83 { a := .src, b := .vsrc, c := .vsrc, lit := .vidx, far := .index } o vscatterBody s

end Sys2Proof.Machine
end

