-- ==== Sys2Proof/Machine/Matrix.lean ====
section
/-! DEFINITION. Tiles, accumulators and the matrix unit (R156 to R161, R190 to R206). -/

namespace Sys2Proof.Machine

/-! ### Configurations and ILLEGAL_TILE (R156, R190, R199) -/

/-- ROWS, COLS and KIND of a tile configuration. -/
def cfgRows (w : Word) : Nat := bitsN w 0 7
def cfgCols (w : Word) : Nat := bitsN w 8 7
def cfgI8 (w : Word) : Bool := bit w 16

/-- The state word of an accumulator (R156). -/
def Acc.word (a : Acc) : Nat := b2n a.full * 2 ^ 15 + b2n a.ovf * 2 ^ 14 + b2n a.unset * 2 ^ 13 + wrapN 10 a.anchor

/-- %tval of ILLEGAL_TILE: specifier, its field, and the tile's configuration or the accumulator's state word. -/
def tileTrap (k : Core) (sub n field extra : Nat) : Res :=
  .trap 0x0C sub (BitVec.ofNat 64 (n + field * 256 + bitsN (k.tcfgAt n) 0 17 * 65536 + extra))
def accTrap (k : Core) (sub n field extra : Nat) : Res :=
  .trap 0x0C sub (BitVec.ofNat 64 (n + field * 256 + (k.acc n).word * 65536 + extra))

/-- ROWS or COLS is outside 1 to 64. -/
def badExtent (w : Word) : Bool := decide (cfgRows w = 0) || decide (64 < cfgRows w) || decide (cfgCols w = 0) || decide (64 < cfgCols w)

/-- Read and written full at the end of a unit instruction, unless the waiting one still writes it (R193, R195). -/
def Core.fullTile (k : Core) (n : Nat) : Core := if k.unitWrites true n then k else k.setTile n { k.tile n with full := true, pend := false }
def Core.fullAcc (k : Core) (n : Nat) : Core := if k.unitWrites false n then k else k.setAcc n { k.acc n with full := true, pend := false }

/-! ### Loading and storing tiles (R196, R200, R201) -/

/-- Elements of `n` raw bytes counted from the base. -/
def countElems (rows cols base n : Nat) (row : Nat → Int) : List PElem :=
  (rangeFrom 0 (rows * cols)).map fun k => plainElem base n k (row (k / cols) + k % cols)

/-- A tile load waits for its register, and for the unit instructions that have yet to read it. -/
def tloadWaits (k : Core) (tile : Bool) (n : Nat) : List Wait :=
  (if tile then (if (k.tile n).pend then [.tileFull n] else []) else (if (k.acc n).pend then [.accFull n] else [])) ++
  (if k.unitReads tile n then [.unitReads tile n] else [])

/-- The elements of a raw load, which lie in pages of one format whatever it is (R200). -/
def onePlan (x : Ctx) (s : State) (base : Nat) (ps : List PElem) : Plan :=
  let space := (s.slot x.c x.n).space
  let want := match s.basePage x.c space base .load with
    | .page f => some f
    | _ => none
  match s.plan x.c space .load want ps with
  | .go es _ s1 t => .go es [] s1 t
  | p => p

/-- The elements of a tile in memory: of a fixed size, or of the size that an X19 tile's page gives. -/
def tilePlan (x : Ctx) (s : State) (u : Use) (i8 raw : Bool) (rows cols base : Nat) (row : Nat → Int) : Plan × Nat :=
  let space := (s.slot x.c x.n).space
  if raw then
    let ps := countElems rows cols base (if i8 then 1 else 4) row
    (if u = .load then onePlan x s base ps else s.plan x.c space u none ps, 0)
  else if i8 then (s.plan x.c space u (some 7) (countElems rows cols base 1 row), 7)
  else fmtPlan x s u (fun f => decide (f ≤ 6) && (decide (u = .load) || decide (f ≠ 1))) base rows cols row

def tldBody (x : Ctx) (v : Vals) (s : State) : Res :=
  let k := s.core x.c
  let n := x.o.d.toNat
  let w := k.tcfgAt n
  let base := (v.a + v.b).toNat
  let st := strideOf x.o.c v.c (cfgCols w)
  let raw := bitN x.fn 0
  match tloadWaits k true n with
  | ws@(_ :: _) => .wait ws
  | [] =>
    if badExtent w then tileTrap k 1 n 0 0
    else whenAlone x s <| match tilePlan x s .load (cfgI8 w) raw (cfgRows w) (cfgCols w) base (fun i => i * st) with
      | (.stop r, _) => r
      | (.go es sc s1 t, f) =>
        let m : VMem := { id := 0, slot := x.n, sort := 1, dst := n, fmt := f, cols := cfgCols w, i8 := cfgI8 w, raw := raw, scale := sc,
                          trap := t }
        issueElems x .vread m es (s1.modCore x.c (fun k => k.setTile n { k.tile n with full := false, pend := true }))

def tldAccBody (x : Ctx) (v : Vals) (s : State) : Res :=
  let k := s.core x.c
  let n := x.o.d.toNat
  let st := strideOf x.o.c v.c 64
  match tloadWaits k false n with
  | ws@(_ :: _) => .wait ws
  | [] =>
    if (k.acc n).unset then accTrap k 8 n 0 0
    else whenAlone x s <| match onePlan x s (v.a + v.b).toNat (countElems 64 64 (v.a + v.b).toNat 16 (fun i => i * st)) with
      | .stop r => r
      | .go es _ s1 t => issueElems x .vread { id := 0, slot := x.n, sort := 2, dst := n, cols := 64, trap := t } es
          (s1.modCore x.c (fun k => k.setAcc n { k.acc n with full := false, pend := true }))

/-- A cell encoded into a page format (R201). -/
def encodeCell (f : Nat) (mode : RMode) (cell : Nat) : Nat :=
  let v := fdecode x19 (cell % 2 ^ 19)
  if f = 2 then (cvtE4M3 mode v).1 else if f = 3 then (cvtE5M2 mode v).1 else if f = 4 then (cvtVal bf16 mode v).1
  else if f = 5 then (cvtVal fp16 mode v).1 else (cvtVal fp32 mode v).1

def tstBody (x : Ctx) (v : Vals) (s : State) : Res :=
  let k := s.core x.c
  let n := x.o.c.toNat
  let w := k.tcfgAt n
  let st := strideOf x.o.d v.d (cfgCols w)
  let raw := bitN x.fn 0
  let mode := (s.slot x.c x.n).mode (fld x.fn 2 3)
  let cell (i : Nat) : Nat := (tabGet 0 (k.tile n).cells (cellAt (cfgCols w) i)).toNat
  if badExtent w then tileTrap k 1 n 3 0
  else whenAlone x s <|
    let (p, f) := tilePlan x s .store (cfgI8 w) raw (cfgRows w) (cfgCols w) (v.a + v.b).toNat (fun i => i * st)
    storePlan x (fun i => if cfgI8 w then cell i % 256 else if raw then cell i % 2 ^ 19 else encodeCell f mode (cell i)) p

def tstAccBody (x : Ctx) (v : Vals) (s : State) : Res :=
  let a := (s.core x.c).acc x.o.c.toNat
  let st := strideOf x.o.d v.d 64
  whenAlone x s <| storePlan x (fun i => wrapN 128 (tabGet 0 a.cells i).toInt)
    (s.plan x.c (s.slot x.c x.n).space .store none (countElems 64 64 (v.a + v.b).toNat 16 (fun i => i * st)))

/-! ### The unit's places (R194) -/

/-- An instruction enters the waiting place; its destinations become empty-pending. -/
def launchM (x : Ctx) (o : MOp) (canRaise : Bool) (s : State) : Res :=
  let sl := s.slot x.c x.n
  if (s.core x.c).mwait.isSome then .wait []
  else
    let en := if canRaise then sl.trapEn else 0
    let o' := { o with pc := x.pc, popped := x.popped, en := en, vshape := sl.vshape }
    let s1 := { s with nextId := s.nextId + 1 }.modCore x.c (fun k =>
      let k := o.wT.foldl (fun (k : Core) n => k.setTile n { k.tile n with full := false, pend := true }) k
      let k := o.wA.foldl (fun (k : Core) n => k.setAcc n { k.acc n with full := false, pend := true }) k
      let k := o.vdst.toList.foldl (fun (k : Core) e => k.setVreg e { k.vreg e with full := false, pend := true }) k
      { k with mwait := some o' })
    let s2 := s1.later (.matrixStart x.c)
    .ok (if en ≠ 0 then s2.leave x.c x.n [.unitIdle] else s2)

/-- The place is occupied: the instruction does not issue (R28). -/
def ifPlace (x : Ctx) (s : State) (r : Res) : Res := if (s.core x.c).mwait.isSome then .wait [] else r

def tzeroBody (x : Ctx) (_ : Vals) (s : State) : Res :=
  let n := x.o.d.toNat
  let o : MOp := { id := s.nextId, slot := x.n, ins := .tzero x.o }
  launchM x (if bitN x.fn 0 then { o with wA := [n] } else { o with wT := [n] }) false s

def tanchBody (x : Ctx) (v : Vals) (s : State) : Res :=
  let n := x.o.d.toNat
  ifPlace x s <|
    if v.b.toInt < -512 ∨ 511 < v.b.toInt then .trap 1 5 v.b
    else launchM x { id := s.nextId, slot := x.n, ins := .tanch x.o, vals := [v.b], rA := [n], wA := [n] } false s
def tanchClrBody (x : Ctx) (_ : Vals) (s : State) : Res :=
  let n := x.o.d.toNat
  launchM x { id := s.nextId, slot := x.n, ins := .tanchClr x.o, rA := [n], wA := [n] } false s
def tanchRdBody (x : Ctx) (_ : Vals) (s : State) : Res :=
  ifPlace x s <|
    let (dst, s1) := reserve x x.o.d.toNat s.nextId s
    launchM x { id := s.nextId, slot := x.n, ins := .tanchRd x.o, sdst := dst, rA := [x.o.a.toNat] } false s1

/-- Rows, columns and shared dimension of a `tmma` (R204). -/
def mmaDims (bn : Bool) (wa wb : Word) : Nat × Nat × Nat := (cfgRows wa, if bn then cfgCols wb else cfgRows wb, cfgCols wa)

def tmmaBody (x : Ctx) (_ : Vals) (s : State) : Res :=
  let k := s.core x.c
  let (ta, tb, d) := (x.o.a.toNat, x.o.b.toNat, x.o.d.toNat)
  let (wa, wb) := (k.tcfgAt ta, k.tcfgAt tb)
  let (bn, auto) := (bitN x.fn 0, bitN x.fn 1)
  let a := k.acc d
  ifPlace x s <|
    if badExtent wa then tileTrap k 1 ta 1 0
    else if badExtent wb then tileTrap k 1 tb 2 0
    else if cfgCols wa ≠ (if bn then cfgRows wb else cfgCols wb) then tileTrap k 2 tb 2 0
    else if cfgI8 wa ≠ cfgI8 wb then tileTrap k 3 tb 2 0
    else if cfgI8 wa ∧ (auto ∨ (!a.unset ∧ a.anchor ≠ 0)) then accTrap k 4 d 0 0
    else if !cfgI8 wa ∧ !auto ∧ a.unset then accTrap k 5 d 0 0
    else launchM x { id := s.nextId, slot := x.n, ins := .tmma x.o, vals := [wa, wb], rT := [ta, tb], rA := [d], wA := [d] } false s

/-- Element bytes of the types of `tcvt` and `tvec`, and their formats (R197). -/
def mType (t : Nat) : Nat := if t = 0 then 1 else if t = 1 then 4 else 2
def mFmt (t : Nat) : Fmt := if t = 1 then fp32 else if t = 2 then fp16 else bf16

/-- The origin in B: row, column, or ILLEGAL; then the shape, then the region (R198, R205). -/
def withOrigin (x : Ctx) (b : Word) (e : Nat) (s : State) (bad : Nat → Res) (k : Res) : Res :=
  if b &&& ~~~0x3F3F ≠ 0 then .trap 1 5 b
  else withShape x e s fun rows cols =>
    if 64 < bitsN b 0 6 + rows ∨ 64 < bitsN b 8 6 + cols then bad (bitsN b 0 6 * 2 ^ 40 + bitsN b 8 6 * 2 ^ 48) else k

def vdstOf (x : Ctx) (s : State) : Nat := (s.slot x.c x.n).vent (x.o.d.toNat % 32)

def tcvtBody (x : Ctx) (v : Vals) (s : State) : Res :=
  let k := s.core x.c
  let a := x.o.a.toNat
  ifPlace x s <| withOrigin x v.b (mType (fld x.fn 0 2)) s (accTrap k 6 a 1) <|
    launchM x { id := s.nextId, slot := x.n, ins := .tcvt x.o, vals := [v.b], rmode := (s.slot x.c x.n).mode (fld x.fn 2 3),
                vdst := some (vdstOf x s), rA := [a] } true s

def tcvtTileBody (x : Ctx) (_ : Vals) (s : State) : Res :=
  let k := s.core x.c
  let d := x.o.d.toNat
  ifPlace x s <|
    if cfgI8 (k.tcfgAt d) then tileTrap k 7 d 0 0
    else launchM x { id := s.nextId, slot := x.n, ins := .tcvtTile x.o, rmode := (s.slot x.c x.n).mode (fld x.fn 2 3),
                     rA := [x.o.a.toNat], wT := [d] } false s

/-- The kind of the tile suits the type (R199). -/
def kindOk (x : Ctx) (w : Word) : Bool := cfgI8 w == decide (fld x.fn 0 2 = 0)

def tvecBody (x : Ctx) (v : Vals) (s : State) : Res :=
  let k := s.core x.c
  let a := x.o.a.toNat
  ifPlace x s <| withOrigin x v.b (mType (fld x.fn 0 2)) s (tileTrap k 6 a 1) <|
    if !kindOk x (k.tcfgAt a) then tileTrap k 7 a 1 0
    else launchM x { id := s.nextId, slot := x.n, ins := .tvec x.o, vals := [v.b], rmode := (s.slot x.c x.n).mode (fld x.fn 2 3),
                     vdst := some (vdstOf x s), rT := [a] } (decide (2 ≤ fld x.fn 0 2)) s
def tvecInBody (x : Ctx) (v : Vals) (s : State) : Res :=
  let k := s.core x.c
  let d := x.o.d.toNat
  ifPlace x s <| withOrigin x v.b (mType (fld x.fn 0 2)) s (tileTrap k 6 d 0) <|
    if !kindOk x (k.tcfgAt d) then tileTrap k 7 d 0 0
    else launchM x { id := s.nextId, slot := x.n, ins := .tvecIn x.o, vals := [v.b], vsrc := v.va, rT := [d], wT := [d] } false s

/-! ### Start (R194, R202 to R204) -/

/-- The element of a tile. -/
def Core.cell (k : Core) (t i j : Nat) : Nat := (tabGet 0 (k.tile t).cells (i * 64 + j)).toNat

/-- X(max) over a region of a tile (R159). -/
def Core.maxExp (k : Core) (t rows cols : Nat) : Option Int :=
  foldTile rows cols (fun (m : Option Int) i j =>
    match x19Exp (k.cell t i j), m with
    | some e, some f => some (max e f)
    | some e, none => some e
    | none, m => m) none

/-- The auto anchor (R159). -/
def Core.autoAnchor (k : Core) (ta tb : Nat) (wa wb : Word) : Option Int :=
  match k.maxExp ta (cfgRows wa) (cfgCols wa), k.maxExp tb (cfgRows wb) (cfgCols wb) with
  | some x, some y => some (x + y - 60)
  | _, _ => none

/-- Realign every cell of an accumulator (R160, R203). -/
def Acc.anchorAt (a : Acc) (v : Int) : Acc :=
  if a.unset then { a with anchor := v, unset := false }
  else
    let (cells, ovf) := a.cells.foldl (fun (p : SMap (BitVec 80) × Bool) q =>
      let (m, o) := realign q.2.toInt a.anchor v
      (p.1 ++ [(q.1, BitVec.ofInt 80 m)], p.2 || o)) ([], a.ovf)
    { a with cells := cells, ovf := ovf, anchor := v }

/-- What a unit instruction changes at its start. -/
def Core.startM (k : Core) (o : MOp) : Core :=
  match o.ins with
  | .tzero p => if bit p.fn 0 then k.setAcc p.d.toNat { k.acc p.d.toNat with unset := true } else k
  | .tanch p => k.setAcc p.d.toNat ((k.acc p.d.toNat).anchorAt (nth 0 o.vals 0).toInt)
  | .tanchClr p => k.setAcc p.d.toNat { k.acc p.d.toNat with ovf := false }
  | .tmma p =>
    let a := k.acc p.d.toNat
    let wa := nth 0 o.vals 0
    if !a.unset then k
    else if cfgI8 wa then k.setAcc p.d.toNat { a with anchor := 0, unset := false }
    else if bit p.fn 1 then
      match k.autoAnchor p.a.toNat p.b.toNat wa (nth 0 o.vals 1) with
      | some e => k.setAcc p.d.toNat { a with anchor := e, unset := false }
      | none => k
    else k
  | _ => k

/-- The unit reads its tiles and accumulators at the start: an uncorrectable error found there writes a record, the
instruction completes, and its slot is killed (R222). -/
def State.checkM (s : State) (c : Nat) : State :=
  match (s.core c).munit, (s.core c).mwait with
  | none, some o =>
    if o.rT.any (fun n => s.badRegs.contains (c, 2, n)) || o.rA.any (fun n => s.badRegs.contains (c, 3, n)) then
      (if o.dead then (s.badRecord c o.slot).2 else s.badKill c o.slot o.id o.pc)
    else s
  | _, _ => s

/-- The waiting instruction moves to the running place. -/
def execMatrixStart (c : Nat) (s : State) : Out :=
  let s : State := s.checkM c
  let k := s.core c
  match k.munit, k.mwait with
  | none, some o =>
    let k1 := { k with munit := some o, mwait := none }.startM o
    let word := match o.ins with
      | .tanchRd p => [BitVec.ofNat 64 (k.acc p.a.toNat).word]
      | _ => o.vals
    .next ((s.setCore c { k1 with munit := some { o with vals := word } }).later (.matrixComplete c))
  | _, _ => .next s

/-! ### Results (R202 to R206) -/

/-- One product-sum of a cell: the placed products and whether OVF is set (R204). -/
def mmaCell (unset : Bool) (e : Int) (xs : List (FVal × FVal)) : Int × Bool :=
  xs.foldl (fun (p : Int × Bool) q =>
    let (v, o) := placeVal q.1 q.2 e
    if unset then
      let lost := match q.1, q.2 with
        | .fin _ m _, .fin _ n _ => decide (m * n ≠ 0)
        | _, _ => o
      (p.1, p.2 || lost)
    else (p.1 + v, p.2 || o)) (0, false)

/-- The accumulator after a `tmma`. -/
def Core.mma (k : Core) (p : Opnd) (wa wb : Word) : Acc :=
  let bn := bit p.fn 0
  let i8 := cfgI8 wa
  let a := k.acc p.d.toNat
  let (m, n, kk) := mmaDims bn wa wb
  foldTile m n (fun (a : Acc) i j =>
    let xs := (rangeFrom 0 kk).map (fun q => (cellVal i8 (k.cell p.a.toNat i q),
      cellVal i8 (if bn then k.cell p.b.toNat q j else k.cell p.b.toNat j q)))
    let (v, o) := mmaCell a.unset a.anchor xs
    { a with ovf := a.ovf || o,
             cells := if a.unset then a.cells else
               tabPut a.cells (i * 64 + j) (tabGet 0 a.cells (i * 64 + j) + BitVec.ofInt 80 v) }) a

/-- A NaN of X19 is quiet (R144). -/
def quietX19 (cell : Nat) : FVal :=
  match fdecode x19 (cell % 2 ^ 19) with
  | .nan _ => .nan false
  | v => v

/-- The vector result of `tcvt` or `tvec` and its flags. -/
def Core.cellsToVec (k : Core) (o : MOp) (old : VData) : VData × Flags :=
  let b := nth 0 o.vals 0
  let (row, col) := (bitsN b 0 6, bitsN b 8 6)
  let (rows, cols) := (bitsN o.vshape 0 4, bitsN o.vshape 8 7)
  match o.ins with
  | .tcvt p =>
    let t := fld p.fn.toNat 0 2
    let a := k.acc p.a.toNat
    mapTile rows cols (mType t) old fun i j =>
      if a.unset then (0, flNone) else a80ToF (mFmt t) o.rmode (tabGet 0 a.cells ((row + i) * 64 + col + j)) a.anchor
  | .tvec p =>
    let t := fld p.fn.toNat 0 2
    mapTile rows cols (mType t) old fun i j =>
      let x := k.cell p.a.toNat (row + i) (col + j)
      if t = 0 then (x % 256, flNone) else cvtVal (mFmt t) o.rmode (quietX19 x)
  | _ => (old, flNone)

/-- All cells of an accumulator as X19 (R205). -/
def accToTile (a : Acc) (mode : RMode) : SMap (BitVec 20) :=
  if a.unset then []
  else a.cells.map (fun q => (q.1, BitVec.ofNat 20 (a80ToF x19 mode q.2 a.anchor).1))

/-- Cells of a tile from a vector (R206). -/
def Core.vecToCells (k : Core) (o : MOp) (p : Opnd) : SMap (BitVec 20) :=
  let b := nth 0 o.vals 0
  let t := fld p.fn.toNat 0 2
  let e := mType t
  foldTile (bitsN o.vshape 0 4) (bitsN o.vshape 8 7) (fun (cs : SMap (BitVec 20)) i j =>
    let x := elemAt e o.vsrc (offOf e i j)
    tabPut cs ((bitsN b 0 6 + i) * 64 + bitsN b 8 6 + j) (BitVec.ofNat 20 (if t = 0 then x else toX19 (fdecode (mFmt t) x))))
    (k.tile p.d.toNat).cells

/-- What a unit instruction writes into the files of its core. -/
def Core.finishM (k : Core) (o : MOp) : Core :=
  match o.ins with
  | .tzero p => if bit p.fn 0 then k.setAcc p.d.toNat { k.acc p.d.toNat with cells := [], ovf := false }
      else k.setTile p.d.toNat { k.tile p.d.toNat with cells := [] }
  | .tmma p => k.setAcc p.d.toNat (k.mma p (nth 0 o.vals 0) (nth 0 o.vals 1))
  | .tcvtTile p => k.setTile p.d.toNat { k.tile p.d.toNat with cells := accToTile (k.acc p.a.toNat) o.rmode }
  | .tvecIn p => k.setTile p.d.toNat { k.tile p.d.toNat with cells := k.vecToCells o p }
  | _ => k

/-- Registers that the instruction writes whole (R222). -/
def State.mendM (s : State) (c : Nat) (o : MOp) : State :=
  match o.ins with
  | .tzero p => if bit p.fn 0 then s.mend c 3 p.d.toNat else s.mend c 2 p.d.toNat
  | .tcvtTile p => s.mend c 2 p.d.toNat
  | _ => s

/-- The instruction writes the whole of its vector register (R222). -/
def MOp.whole (o : MOp) : Bool :=
  let t := match o.ins with
    | .tcvt p | .tvec p => fld p.fn.toNat 0 2
    | _ => 0
  wholeTile (bitsN o.vshape 0 4) (bitsN o.vshape 8 7) (mType t)

/-- A result for the slot's window: after a kill only what a port was promised is delivered (R192, R222); FP_TRAP
leaves the register as it was (R168). -/
def State.windowM (s : State) (c : Nat) (o : MOp) (r : VData × Flags) : State :=
  if o.dead then s.deliver c o.slot o.sdst (nth 0 o.vals 0) false 0 o.pc
  else match o.vdst with
    | none => s.deliver c o.slot o.sdst (nth 0 o.vals 0) false 0 o.pc
    | some e =>
      if trapsOn r.2 o.en then
        (s.modCore c (fun k => k.setVreg e { k.vreg e with full := true, pend := false })).lateTrap c o.slot o.pc
          o.popped ⟨7, 0, r.2.setWidth 64⟩
      else ((if o.whole then s.mend c 1 e else s).modCore c (fun k => k.setVreg e { val := r.1 })).raise c o.slot r.2

/-- The running instruction writes its result; the waiting one may start. -/
def execMatrixComplete (c : Nat) (s : State) : Out :=
  let k := s.core c
  match k.munit with
  | none => .next s
  | some o =>
    let r := match o.vdst with
      | some e => k.cellsToVec o (k.vreg e).val
      | none => (0, flNone)
    let k1 := { k.finishM o with munit := none }
    let k2 := o.wA.foldl Core.fullAcc (o.wT.foldl Core.fullTile k1)
    let s1 := ((s.mendM c o).setCore c k2).windowM c o r
    .next (if k2.mwait.isSome then s1.later (.matrixStart c) else s1)

/-! ### The instructions -/

def execTld (o : Opnd) (s : State) : Out :=
  runLong 0xA0 { a := .src, b := .src, c := .src, lit := .int, role := .matrix } o tldBody s
def execTldAcc (o : Opnd) (s : State) : Out :=
  runLong 0xA0 { a := .src, b := .src, c := .src, lit := .int, role := .matrix } o tldAccBody s
def execTst (o : Opnd) (s : State) : Out :=
  runLong 0xA1 { d := .dsrc, a := .src, b := .src, c := .tmem, lit := .int, role := .matrix } o tstBody s
def execTstAcc (o : Opnd) (s : State) : Out :=
  runLong 0xA1 { d := .dsrc, a := .src, b := .src, c := .amem, lit := .int, role := .matrix } o tstAccBody s
def execTzero (o : Opnd) (s : State) : Out :=
  runLong 0xA2 (if bit o.fn 0 then { d := .adst, role := .matrix } else { d := .tdst, role := .matrix }) o tzeroBody s
def execTanch (o : Opnd) (s : State) : Out := runLong 0xA3 { d := .arw, b := .src, lit := .int, role := .matrix } o tanchBody s
def execTanchRd (o : Opnd) (s : State) : Out := runLong 0xA3 { d := .dst, a := .asrc, role := .matrix } o tanchRdBody s
def execTanchClr (o : Opnd) (s : State) : Out := runLong 0xA3 { d := .arw, role := .matrix } o tanchClrBody s
def execTmma (o : Opnd) (s : State) : Out := runLong 0xA4 { d := .arw, a := .tsrc, b := .tsrc, role := .matrix } o tmmaBody s
def execTcvt (o : Opnd) (s : State) : Out :=
  runLong 0xA5 { d := .vdst, a := .asrc, b := .src, lit := .int, role := .matrix } o tcvtBody s
def execTcvtTile (o : Opnd) (s : State) : Out := runLong 0xA5 { d := .tdst, a := .asrc, role := .matrix } o tcvtTileBody s
def execTvec (o : Opnd) (s : State) : Out :=
  runLong 0xA6 { d := .vdst, a := .tsrc, b := .src, lit := .int, role := .matrix } o tvecBody s
def execTvecIn (o : Opnd) (s : State) : Out :=
  runLong 0xA6 { d := .trw, a := .vsrc, b := .src, lit := .int, role := .matrix } o tvecInBody s

end Sys2Proof.Machine
end

