-- ==== Sys2Proof/Machine/Sluice.lean ====
section
/-! DEFINITION. The sluice network and the gang barrier (R228 to R244), and resends (R248). -/

namespace Sys2Proof.Machine

/-! ### Chain tables (R232, R233) -/

/-- The entry of a core that holds a chain, OPEN or DONE. -/
def Core.findChain (k : Core) (chain : Nat) : Option Nat :=
  firstFrom (fun i => decide ((k.chain i).st ≠ .free) && decide ((k.chain i).chain = chain)) 0 16

/-- The entry that holds a chain for a task. -/
def Core.ownChain (k : Core) (chain task : Nat) : Option Nat :=
  firstFrom (fun i => decide ((k.chain i).st ≠ .free) && decide ((k.chain i).chain = chain) && decide ((k.chain i).task = task)) 0 16

/-- The handle of an entry (R233). -/
def handleOf (c i : Nat) (x : Chain) : Word :=
  BitVec.ofNat 64 (devOf c * 2 ^ 58 + cidOf c * 2 ^ 49 + i * 2 ^ 45 + x.serial.toNat * 2 ^ 16 + x.chain)

/-- The CHAIN_DONE word (R136, R238). -/
def doneWord (ovf : Bool) (acc chain : Nat) : Word := BitVec.ofNat 64 (4 * 2 ^ 48 + b2n ovf * 2 ^ 18 + acc * 2 ^ 16 + chain)

/-- Joins that wait in a core's pending-join table, in arrival order. -/
def State.parked (s : State) (c : Nat) : List Access :=
  s.fifo.filterMap (fun i => s.net.find? (fun a => a.id == i && a.home == .chains c && a.stage == .parked))

/-- The wait of an operation served at the own table (R101 step 6, R244). -/
def chainWaits (x : Ctx) (s : State) : List Wait :=
  s.issueWaits x.c x.n (.chains x.c) (.pad 0 0) true { kind := .sljoin, n := 0, addr := 0 }

/-! ### slres, slwait, slclose (R235, R239, R240) -/

def slresBody (x : Ctx) (v : Vals) (s : State) : Res :=
  let k := s.core x.c
  let sl := k.slot x.n
  let d := x.o.d.toNat
  let waits := (if (k.acc d).full then [] else [Wait.accFull d]) ++ (if k.unitReads false d then [.unitReads false d] else [])
    ++ (if sl.sysUse < 8 then [] else [.book x.n]) ++ chainWaits x s
  if 0xFFFF < v.a.toNat then .trap 1 5 v.a
  else if v.b = 0 ∨ 0xFFFF < v.b.toNat then .trap 1 5 v.b
  else match waits with
    | w :: ws => .wait (w :: ws)
    | [] =>
      if (k.acc d).unset then accTrap k 9 d 0 0
      else if (k.findChain v.a.toNat).isSome then .trap 1 5 v.a
      else match firstFrom (fun i => decide ((k.chain i).st = .free)) 0 16 with
        | none => .trap 0x17 4 0
        | some i =>
          let e : Chain := { st := .opened, chain := v.a.toNat, acc := d, slot := x.n, task := sl.task, num := bitsN sl.taskw 0 50,
                             expected := v.b.toNat, serial := (k.chain i).serial + 1 }
          let s1 := s.modCore x.c (fun k => (k.setChain i e).setAcc d { k.acc d with full := false, pend := true })
          let s2 := s1.modSlot x.c x.n (fun sl => { sl with booked := sl.booked + 1 })
          let go := (s2.parked x.c).filter (fun a => decide (a.aux.toNat = v.a.toNat))
          .ok (go.foldl (fun s a => s.answer a { val := handleOf x.c i e }) s2)

/-- A chain's own message leaves a queue: of equal words the newest, for an older one is an earlier chain's (R239). -/
def takeMsg (w : Word) : List Msg → List Msg
  | [] => []
  | m :: r =>
    if m.sys && decide (m.word = w) && !r.any (fun x => x.sys && decide (x.word = w)) then r else m :: takeMsg w r

def slwaitBody (x : Ctx) (v : Vals) (s : State) : Res :=
  let k := s.core x.c
  if 0xFFFF < v.a.toNat then .trap 1 5 v.a
  else match k.ownChain v.a.toNat (k.slot x.n).task with
    | none => .trap 0x10 0 (BitVec.ofNat 64 (bitsN v.a 0 16))
    | some i =>
      if (k.chain i).st = .opened then .wait [.chain i]
      else match chainWaits x s with
        | w :: ws => .wait (w :: ws)
        | [] => giveD x (k.chain i).word (if (k.chain i).taken then s
          else (s.modCore x.c (fun k => k.setChain i { k.chain i with taken := true })).modSlot x.c x.n
            (fun sl => { sl with msgs := takeMsg (k.chain i).word sl.msgs }))

def slcloseBody (x : Ctx) (v : Vals) (s : State) : Res :=
  let k := s.core x.c
  if 0xFFFF < v.a.toNat then .trap 1 5 v.a
  else match chainWaits x s with
    | w :: ws => .wait (w :: ws)
    | [] => match k.ownChain v.a.toNat (k.slot x.n).task with
      | none => .ok s
      | some i =>
        let s1 := s.modCore x.c (fun k => k.closeChain i)
        .ok (if (k.chain i).st = .opened then s1.unbook x.c x.n else s1)

/-! ### sljoin, slsend (R236, R237) -/

/-- A destination core of the own device. -/
def ownDevice (x : Ctx) (w : Word) : Bool := decide (bitsN w 58 6 = devOf x.c)

/-- A default access to a chain table. -/
def issueChain (x : Ctx) (r : Req) (hc : Nat) (s : State) : Res :=
  match s.issueWaits x.c x.n (.chains hc) (.pad 0 0) false r with
  | w :: ws => .wait (w :: ws)
  | [] => if 256 ≤ s.replyUse x.c then .wait [.replyRoom] else issueRemote x r (.chains hc) (.pad 0 0) s

def sljoinBody (x : Ctx) (v : Vals) (s : State) : Res :=
  if bitsN v.a 0 49 ≠ 0 ∨ !ownDevice x v.a then .trap 1 5 v.a
  else if 0xFFFF < v.b.toNat then .trap 1 5 v.b
  else issueChain x { kind := .sljoin, n := 0, addr := v.a, aux := v.b, dst := some x.o.d.toNat } (coreOf v.a) s

/-- The non-zero cells of `n` rows of an accumulator, by cell. -/
def rowCells (a : Acc) (row n : Nat) : List Elem :=
  (a.cells.filter (fun q => decide (row * 64 ≤ q.1) && decide (q.1 < (row + n) * 64))).map
    (fun q => { k := q.1, va := 0, loc := .pad 0 0, n := 10, dat := q.2.toNat })

/-- Anchor, UNSET and OVF of the sender's accumulator. -/
def accFlags (a : Acc) : Word := BitVec.ofNat 64 a.word

def slsendBody (x : Ctx) (v : Vals) (s : State) : Res :=
  let k := s.core x.c
  let c := x.o.c.toNat
  let n := fld x.fn 0 6 + 1
  if !ownDevice x v.a then .trap 1 5 v.a
  else if bitsN v.b 6 58 ≠ 0 then .trap 1 5 v.b
  else if 64 < v.b.toNat + n then accTrap k 6 c 3 (v.b.toNat * 2 ^ 40)
  else
    let r : Req := { kind := .slsend, n := 0, addr := v.a, aux := accFlags (k.acc c) }
    let hc := coreOf v.a
    match s.issueWaits x.c x.n (.chains hc) (.pad 0 0) false r with
    | w :: ws => .wait (w :: ws)
    | [] =>
      let q := tabGet 0 k.seqNos x.n
      let a := { accessOf x s r (.chains hc) (.pad 0 0) with n := q, elems := rowCells (k.acc c) v.b.toNat n }
      let s1 := (s.send a).modCore x.c (fun k => { k with seqNos := tabPut k.seqNos x.n ((q + 1) % 65536) })
      .ok (s1.leave x.c x.n [.access a.id])

def execSlres (o : Opnd) (s : State) : Out := 
  runShared 0xB0 (.effect false) { d := .apin, a := .src, b := .src, lit := .int } o (.slres o) slresBody s
def execSljoin (o : Opnd) (s : State) : Out := 
  runShared 0xB1 .value { d := .dreg, a := .src, b := .src, lit := .int, far := .always } o (.sljoin o) sljoinBody s
def execSlsend (o : Opnd) (s : State) : Out := 
  runShared 0xB2 (.effect false) { a := .src, b := .src, c := .amem, far := .always } o (.slsend o) slsendBody s
def execSlwait (o : Opnd) (s : State) : Out := runShared 0xB3 .value { d := .dregz, a := .src } o (.slwait o) slwaitBody s
def execSlclose (o : Opnd) (s : State) : Out := runShared 0xB4 (.effect false) { a := .src } o (.slclose o) slcloseBody s

/-! ### Serving joins and contributions (R236, R238) -/

/-- A chain table serves the join at the head of its FIFO: answered, refused, or parked until an `slres`. A join served after
the close of its chain, where no entry holds the chain, is parked as R236's table has it, where R240 says that it is refused:
which of the two holds is the model's choice (assumption log 72). -/
def execSluiceJoinServe (id : Nat) (s : State) : Out :=
  match s.atHead id with
  | none => .next s
  | some a =>
    match a.kind, a.home with
    | .sljoin, .chains c =>
      let k := s.core c
      let chain := a.aux.toNat
      (match k.findChain chain with
      | some i => if (k.chain i).st = .opened then .next (s.answer a { val := handleOf c i (k.chain i) })
          else .next (s.answer a { trap := some ⟨0x10, 0, a.aux⟩ })
      | none =>
        if a.dead then .next ((s.sink a).killGoOn a.core a.slot)
        else if 64 ≤ (s.parked c).length then
          .next (({ s with fifo := s.fifo.filter (fun i => i != id) }.setAcc { a with stage := .refused }).nextAt a.home)
        else .next ((s.setAcc { a with stage := .parked }).nextAt a.home))
    | _, _ => .next s

/-- One row cell added exactly at the chain's anchor (R158, R160). -/
def addCell (f anchor : Int) (p : SMap (BitVec 80) × Bool) (e : Elem) : SMap (BitVec 80) × Bool :=
  let (v, o) := realign (sgnN 80 e.dat) f anchor
  (tabPut p.1 e.k (tabGet 0 p.1 e.k + BitVec.ofInt 80 v), p.2 || o)

/-- The identity of a contribution (R237). -/
def identOf (a : Access) : Nat × Nat × Nat × Nat := (a.core, a.slot, bitsN a.taskw 0 32, a.n)

/-- A contribution applied to an OPEN entry (R238). -/
def State.contribute (s : State) (c i : Nat) (a : Access) : State :=
  let k := s.core c
  let e := k.chain i
  let acc := k.acc e.acc
  let f := sgnN 10 (bitsN a.aux 0 10)
  let unset := bit a.aux 13
  let (cells, ovf) := if unset then (acc.cells, acc.ovf) else a.elems.foldl (addCell f acc.anchor) (acc.cells, acc.ovf)
  let ovf := ovf || bit a.aux 14
  let last := decide (e.received + 1 = e.expected)
  let w := doneWord ovf e.acc e.chain
  let e' := { e with received := e.received + 1, idents := e.idents ++ [identOf a],
                     st := if last then .done else .opened, word := if last then w else e.word }
  let acc' := if last then { acc with cells := cells, ovf := ovf, full := true, pend := false } else { acc with cells := cells, ovf := ovf }
  let s1 := s.setCore c ((k.setChain i e').setAcc e.acc acc')
  if last then s1.sysFor c e.slot (BitVec.ofNat 64 e.num) w else s1

/-- A chain table serves the contribution at the head of its FIFO in one step. -/
def execSluiceContribution (id : Nat) (s : State) : Out :=
  match s.atHead id with
  | none => .next s
  | some a =>
    match a.kind, a.home with
    | .slsend, .chains c =>
      let h := BitVec.ofNat 64 a.va
      let i := bitsN h 45 4
      let e := (s.core c).chain i
      if e.st ≠ .opened ∨ e.chain ≠ bitsN h 0 16 ∨ e.serial.toNat ≠ bitsN h 16 16 then
        .next (s.answer a { trap := some ⟨0x10, 0, BitVec.ofNat 64 (bitsN h 0 16)⟩ })
      else if e.idents.contains (identOf a) then .next (s.answer a {})
      else .next ((s.contribute c i a).answer a {})
    | _, _ => .next s

/-- The sending interface resends a refused request after its hint (R236, R248). -/
def execRequestResend (id : Nat) (s : State) : Out :=
  match s.acc id with
  | some a => if a.stage = .refused then .next ((s.setOut { a with stage := .sent }).later (.arrive id)) else .next s
  | none => .next s

/-! ### gsync (R231) -/

/-- The scope GANG. -/
def scopeGang : Nat := 2

/-- `gsync`: its waits, then the arrival; the last live member to arrive releases all. -/
def gsyncBody (x : Ctx) (_ : Vals) (s : State) : Res :=
  let own := (s.own x.c x.n).filter (fun a => inScope x.c scopeGang a.home)
  match goneWait (own.map (·.id), s.jobsIn x.c x.n scopeGang) ++ s.unitsBusy x.c x.n with
  | w :: ws => .wait (w :: ws)
  | [] =>
    let s1 := s.modSlot x.c x.n (fun sl => { sl with arrived := true, pc := x.pc })
    let live := (gangCores x.c).filter (fun c => (s1.slot c x.n).live && (s1.slot c x.n).gang)
    if live.all (fun c => (s1.slot c x.n).arrived) then .ok ((s1.barrier x.c x.n).modSlot x.c x.n (fun sl => { sl with run := .ready }))
    else .ok (s1.leave x.c x.n [.barrier])

def execGsync (o : Opnd) (s : State) : Out := runLong 0xB8 { role := .gang } o gsyncBody s

end Sys2Proof.Machine
end

