-- ==== Sys2Proof/Machine/Paired.lean ====
section
/-! DEFINITION. The store comparator of a pair: effects compared and performed once (R216 to R219). -/

namespace Sys2Proof.Machine

/-- What an effect runs once its match is found: the fields, first word and length of its instruction, and the
instruction's own effect. -/
structure EffOp where
  o : Opnd
  w0 : BitVec 32
  len : Nat
  body : Ctx → Vals → State → Res

/-- A 64-bit or 96-bit instruction. -/
def longEff (op : Nat) (o : Opnd) (body : Ctx → Vals → State → Res) : EffOp := ⟨o, encWord0 op o, lenOf o, body⟩

/-- The instructions whose effects pass the comparator. -/
def effOp : Instr → Option EffOp
  | .st o => some (longEff 0x41 o stBody)
  | .stDCompact k => some ⟨expand k, encCompact 0x1A k, 4, stDCompactBody⟩
  | .amo o => some (longEff 0x42 o amoBody)
  | .cas o => some (longEff 0x43 o casBody)
  | .amon o => some (longEff 0x44 o amonBody)
  | .dlv o => some (longEff 0x51 o dlvBody)
  | .stt o => some (longEff 0x53 o sttBody)
  | .stw o => some (longEff 0x54 o stwBody)
  | .send o => some (longEff 0x61 o sendBody)
  | .sendAm o => some (longEff 0x61 o sendAmBody)
  | .kick o => some (longEff 0x63 o kickBody)
  | .semWait o => some (longEff 0x62 o semWaitBody)
  | .semTry o => some (longEff 0x62 o semTryBody)
  | .semPost o => some (longEff 0x62 o semPostBody)
  | .spawn o => some (longEff 0x59 o spawnBody)
  | .lvcommit o => some (longEff 0x5B o lvcommitBody)
  | .exit o => some (longEff 0x35 o exitBody)
  | .runqFlush o => some (longEff 0x3C o runqFlushBody)
  | .semcfgWrite o => some (longEff 0x3C o semcfgWriteBody)
  | .traceWrite o => some (longEff 0x3C o traceWriteBody)
  | .qflagsClear o => some (longEff 0x3C o qflagsClearBody)
  | .syscGfree o => some (longEff 0xBA o gfreeBody)
  | .slres o => some (longEff 0xB0 o slresBody)
  | .slsend o => some (longEff 0xB2 o slsendBody)
  | .slclose o => some (longEff 0xB4 o slcloseBody)
  | _ => none

/-- Two effects are the same: kind, address, size and values; for trap entry the cause and the address. -/
def Effect.same (e f : Effect) : Bool :=
  decide (e.kind = f.kind) && decide (e.addr = f.addr) && decide (e.size = f.size) && decide (e.val = f.val)
    && decide (e.vals.drop 2 = f.vals.drop 2)

/-- The oldest effect of both slots leaves the queues. -/
def State.popEffects (s : State) (c p : Nat) : State :=
  s.modCore c (fun k => let x := k.pair p; k.setPair p { x with cmp := x.cmp.tail, trail := x.trail.tail })

/-- A slot of a pair goes on at the next round. -/
def State.goOn (s : State) (c n : Nat) : State :=
  s.modSlot c n (fun sl => if sl.run = .out [.cmpMatch] then { sl with run := .out [.over] } else sl)

/-- Both slots take a trap that both reached: into the handler, once to the headframe, or killed (R218, R219). Either way
both have their trap registers written (R111). -/
def State.pairTrap (s : State) (c n : Nat) (t : Trap) : State :=
  let enters := !(s.slot c n).hmode && decide ((s.slot c n).tvec ≠ 0)
  let s1 := s.trapEntry c n t
  let sl := s1.slot c n
  if !sl.live || !sl.paired || sl.kill.isSome then s1
  else if enters then ((s1.trapEntry c (n + 1) t).goOn c n).goOn c (n + 1)
  else (s1.modSlot c (n + 1) (fun x => { x.trapped t with nested := x.hmode })).leave c (n + 1) [.spilled]

/-- A push by both slots can be made: its port has room, and for a mailbox the slot has no access outstanding
(R50, R134, R208). -/
def State.pairRoom (s : State) (c n : Nat) (e : Effect) : Bool :=
  let p := e.addr.toNat
  if p = 146 then (s.core c).runqOpen (prioOf e.val) else (s.core c).hasRoom n p && (!isMbox p || s.drained c n)

/-- A push by both slots is made once; without room it waits, in turn where its port is a mailbox. -/
def State.pairPush (s : State) (c n : Nat) (e : Effect) : State :=
  let ent : PEntry := { val := e.val, poison := e.poison, tag := e.tag, writer := n }
  s.modCore c (fun k => k.push (if e.addr.toNat = 146 then runqKey (prioOf e.val) else e.addr.toNat) ent)

/-- The trailing slot goes on where an effect returned nothing through the load-value queue. It stays where the reply of an
access, relaxed or not, has its value still to come, and where the leading slot waits at a semaphore (assumption log 30). -/
def State.trailOn (s : State) (c n : Nat) : State :=
  match (s.slot c n).run, (s.slot c (n + 1)).pairWait with
  | .out (.sem _ :: _), _ => s
  | _, some (_, _, 0) => s.modSlot c (n + 1) (fun sl => { sl with pairWait := none, run := .out [.over] })
  | _, _ => s

/-- The leading slot performs the effect of an instruction that both reached; one that must wait stays in the queues, with
the walk due that it waits for. A leading slot that went on past it may wait for the match of a later one (R218). -/
def State.pairEffect (s : State) (c n : Nat) (e : Effect) : State :=
  match effOp e.ins with
  | none => s.popEffects c (n / 2)
  | some q =>
    let v (i : Nat) : Word := nth 0 e.vals i
    let x : Ctx := ⟨c, n, e.pc, q.len, q.o, q.w0, e.popped⟩
    let s0 := s.popEffects c (n / 2)
    match q.body x { a := v 0, b := v 1, c := v 2, d := v 3 } (if e.ahead then s0 else s0.advance c n q.len) with
    | .ok s1 => ((if e.ahead then s1 else s1.goOn c n).trailOn c n)
    | .trap cause sub val =>
      let t : Trap := ⟨cause, sub, val⟩
      let s1 := (s0.lvqPut c n { val := 0, trap := some t }).modCore c (fun k => e.popped.foldr (fun p k => k.unpop n p) k)
      (s1.modSlot c n (fun sl => { sl with pc := e.pc })).bodyTrap c n t
    | .wait ws => s.dueWalks c ws

/-- A mismatch: a SILENT_MISMATCH record, and both slots killed (R219). -/
def State.pairMismatch (s : State) (c n : Nat) (e : Effect) : State :=
  s.kill c n { kind := 3, cause := bitsN (s.slot c n).tcause 0 16, tepc := e.pc.toNat, tval := e.val.toNat }

/-- The trailing slot's oldest effect is compared with the comparator's oldest entry; nothing of a pair that is being
killed is released (R219). -/
def execPairedEffectCompare (c p : Nat) (s : State) : Out :=
  let x := (s.core c).pair p
  let n := 2 * p
  if !(s.slot c n).paired || (s.slot c n).kill.isSome then .next s
  else match x.cmp, x.trail with
    | e :: _, f :: _ =>
      if !e.same f then .next (s.pairMismatch c n e)
      else
        let s1 := s.popEffects c p
        let more (s : State) : State :=
          let y := (s.core c).pair p
          if y.cmp ≠ [] ∧ y.trail ≠ [] ∧ y.cmp.length < x.cmp.length then s.later (.pairedEffectCompare c p) else s
        match e.trap with
        | some t => .next (s1.pairTrap c n t)
        | none =>
          if e.kind = 98 then
            (if s.pairRoom c n e then .next (more (s1.pairPush c n e))
             else .next (s.modCore c (fun k => k.queueMbox n (mboxesOf [.room e.addr.toNat]))))
          else .next (more (s.pairEffect c n e))
    | _, _ => .next s

end Sys2Proof.Machine
end

