-- ==== Sys2Proof/Machine/Dispatch.lean ====
section
/-! DEFINITION. What every instruction and every event does: one arm per constructor of Instr. -/

namespace Sys2Proof.Machine

/-- The meaning of every constructor. -/
def exec (i : Instr) (s : State) : Host.Outcome State Fault Refusal :=
  match i with
  | .addCompact k => Sys2Proof.Machine.execAddCompact k s
  | .subCompact k => Sys2Proof.Machine.execSubCompact k s
  | .mulCompact k => Sys2Proof.Machine.execMulCompact k s
  | .mulhCompact k => Sys2Proof.Machine.execMulhCompact k s
  | .divCompact k => Sys2Proof.Machine.execDivCompact k s
  | .remCompact k => Sys2Proof.Machine.execRemCompact k s
  | .andCompact k => Sys2Proof.Machine.execAndCompact k s
  | .orCompact k => Sys2Proof.Machine.execOrCompact k s
  | .xorCompact k => Sys2Proof.Machine.execXorCompact k s
  | .andnCompact k => Sys2Proof.Machine.execAndnCompact k s
  | .shlCompact k => Sys2Proof.Machine.execShlCompact k s
  | .shrCompact k => Sys2Proof.Machine.execShrCompact k s
  | .sraCompact k => Sys2Proof.Machine.execSraCompact k s
  | .rotCompact k => Sys2Proof.Machine.execRotCompact k s
  | .minCompact k => Sys2Proof.Machine.execMinCompact k s
  | .maxCompact k => Sys2Proof.Machine.execMaxCompact k s
  | .clzCompact k => Sys2Proof.Machine.execClzCompact k s
  | .ctzCompact k => Sys2Proof.Machine.execCtzCompact k s
  | .popcCompact k => Sys2Proof.Machine.execPopcCompact k s
  | .selCompact k => Sys2Proof.Machine.execSelCompact k s
  | .cmpCompact k => Sys2Proof.Machine.execCmpCompact k s
  | .movCompact k => Sys2Proof.Machine.execMovCompact k s
  | .addi k => Sys2Proof.Machine.execAddi k s
  | .ldDCompact k => Sys2Proof.Machine.execLdDCompact k s
  | .stDCompact k => Sys2Proof.Machine.execStDCompact k s
  | .brCompact k => Sys2Proof.Machine.execBrCompact k s
  | .add o => Sys2Proof.Machine.execAdd o s
  | .sub o => Sys2Proof.Machine.execSub o s
  | .mul o => Sys2Proof.Machine.execMul o s
  | .mulh o => Sys2Proof.Machine.execMulh o s
  | .div o => Sys2Proof.Machine.execDiv o s
  | .rem o => Sys2Proof.Machine.execRem o s
  | .and o => Sys2Proof.Machine.execAnd o s
  | .or o => Sys2Proof.Machine.execOr o s
  | .xor o => Sys2Proof.Machine.execXor o s
  | .andn o => Sys2Proof.Machine.execAndn o s
  | .shl o => Sys2Proof.Machine.execShl o s
  | .shr o => Sys2Proof.Machine.execShr o s
  | .sra o => Sys2Proof.Machine.execSra o s
  | .rot o => Sys2Proof.Machine.execRot o s
  | .min o => Sys2Proof.Machine.execMin o s
  | .max o => Sys2Proof.Machine.execMax o s
  | .clz o => Sys2Proof.Machine.execClz o s
  | .ctz o => Sys2Proof.Machine.execCtz o s
  | .popc o => Sys2Proof.Machine.execPopc o s
  | .bfx o => Sys2Proof.Machine.execBfx o s
  | .bfi o => Sys2Proof.Machine.execBfi o s
  | .sel o => Sys2Proof.Machine.execSel o s
  | .cmp o => Sys2Proof.Machine.execCmp o s
  | .mov o => Sys2Proof.Machine.execMov o s
  | .lea o => Sys2Proof.Machine.execLea o s
  | .ext o => Sys2Proof.Machine.execExt o s
  | .adds o => Sys2Proof.Machine.execAdds o s
  | .madd o => Sys2Proof.Machine.execMadd o s
  | .fadd o => Sys2Proof.Machine.execFadd o s
  | .fsub o => Sys2Proof.Machine.execFsub o s
  | .fmul o => Sys2Proof.Machine.execFmul o s
  | .fma o => Sys2Proof.Machine.execFma o s
  | .fmin o => Sys2Proof.Machine.execFmin o s
  | .fmax o => Sys2Proof.Machine.execFmax o s
  | .fcmp o => Sys2Proof.Machine.execFcmp o s
  | .fcvt o => Sys2Proof.Machine.execFcvt o s
  | .frcp o => Sys2Proof.Machine.execFrcp o s
  | .frsq o => Sys2Proof.Machine.execFrsq o s
  | .frcpr o => Sys2Proof.Machine.execFrcpr o s
  | .frsqr o => Sys2Proof.Machine.execFrsqr o s
  | .fsfn o => Sys2Proof.Machine.execFsfn o s
  | .fclass o => Sys2Proof.Machine.execFclass o s
  | .fsgn o => Sys2Proof.Machine.execFsgn o s
  | .br o => Sys2Proof.Machine.execBr o s
  | .jmp o => Sys2Proof.Machine.execJmp o s
  | .call o => Sys2Proof.Machine.execCall o s
  | .callr o => Sys2Proof.Machine.execCallr o s
  | .loop o => Sys2Proof.Machine.execLoop o s
  | .exit o => Sys2Proof.Machine.execExit o s
  | .trap o => Sys2Proof.Machine.execTrap o s
  | .nop o => Sys2Proof.Machine.execNop o s
  | .plog o => Sys2Proof.Machine.execPlog o s
  | .pmovReadWord o => Sys2Proof.Machine.execPmovReadWord o s
  | .pmovWriteWord o => Sys2Proof.Machine.execPmovWriteWord o s
  | .pmovReadPred o => Sys2Proof.Machine.execPmovReadPred o s
  | .pmovWritePred o => Sys2Proof.Machine.execPmovWritePred o s
  | .empty o => Sys2Proof.Machine.execEmpty o s
  | .fetest o => Sys2Proof.Machine.execFetest o s
  | .ctlRead o => Sys2Proof.Machine.execCtlRead o s
  | .ctlWrite o => Sys2Proof.Machine.execCtlWrite o s
  | .timerArm o => Sys2Proof.Machine.execTimerArm o s
  | .modeWrite o => Sys2Proof.Machine.execModeWrite o s
  | .vshapeWrite o => Sys2Proof.Machine.execVshapeWrite o s
  | .tcfgWrite o => Sys2Proof.Machine.execTcfgWrite o s
  | .runqFlush o => Sys2Proof.Machine.execRunqFlush o s
  | .semcfgWrite o => Sys2Proof.Machine.execSemcfgWrite o s
  | .traceWrite o => Sys2Proof.Machine.execTraceWrite o s
  | .qflagsClear o => Sys2Proof.Machine.execQflagsClear o s
  | .qflagsRaise dev idx => Sys2Proof.Machine.execQflagsRaise dev idx s
  | .eret o => Sys2Proof.Machine.execEret o s
  | .fence o => Sys2Proof.Machine.execFence o s
  | .beat o => Sys2Proof.Machine.execBeat o s
  | .ld o => Sys2Proof.Machine.execLd o s
  | .st o => Sys2Proof.Machine.execSt o s
  | .amo o => Sys2Proof.Machine.execAmo o s
  | .cas o => Sys2Proof.Machine.execCas o s
  | .amon o => Sys2Proof.Machine.execAmon o s
  | .claim o => Sys2Proof.Machine.execClaim o s
  | .dlv o => Sys2Proof.Machine.execDlv o s
  | .cdrop o => Sys2Proof.Machine.execCdrop o s
  | .stt o => Sys2Proof.Machine.execStt o s
  | .stw o => Sys2Proof.Machine.execStw o s
  | .tokq o => Sys2Proof.Machine.execTokq o s
  | .go o => Sys2Proof.Machine.execGo o s
  | .spawn o => Sys2Proof.Machine.execSpawn o s
  | .lvget o => Sys2Proof.Machine.execLvget o s
  | .lvcommit o => Sys2Proof.Machine.execLvcommit o s
  | .wmsg o => Sys2Proof.Machine.execWmsg o s
  | .wmsgCount o => Sys2Proof.Machine.execWmsgCount o s
  | .send o => Sys2Proof.Machine.execSend o s
  | .sendAm o => Sys2Proof.Machine.execSendAm o s
  | .semWait o => Sys2Proof.Machine.execSemWait o s
  | .semPost o => Sys2Proof.Machine.execSemPost o s
  | .semTry o => Sys2Proof.Machine.execSemTry o s
  | .kick o => Sys2Proof.Machine.execKick o s
  | .hcopy o => Sys2Proof.Machine.execHcopy o s
  | .hpull o => Sys2Proof.Machine.execHpull o s
  | .hsub o => Sys2Proof.Machine.execHsub o s
  | .hsubLeave o => Sys2Proof.Machine.execHsubLeave o s
  | .hstream o => Sys2Proof.Machine.execHstream o s
  | .vadd o => Sys2Proof.Machine.execVadd o s
  | .vsub o => Sys2Proof.Machine.execVsub o s
  | .vmul o => Sys2Proof.Machine.execVmul o s
  | .vfma o => Sys2Proof.Machine.execVfma o s
  | .vmin o => Sys2Proof.Machine.execVmin o s
  | .vmax o => Sys2Proof.Machine.execVmax o s
  | .vand o => Sys2Proof.Machine.execVand o s
  | .vor o => Sys2Proof.Machine.execVor o s
  | .vxor o => Sys2Proof.Machine.execVxor o s
  | .vshl o => Sys2Proof.Machine.execVshl o s
  | .vshr o => Sys2Proof.Machine.execVshr o s
  | .vcmp o => Sys2Proof.Machine.execVcmp o s
  | .vsel o => Sys2Proof.Machine.execVsel o s
  | .vcvt o => Sys2Proof.Machine.execVcvt o s
  | .vsfn o => Sys2Proof.Machine.execVsfn o s
  | .vbcast o => Sys2Proof.Machine.execVbcast o s
  | .vbcastRow o => Sys2Proof.Machine.execVbcastRow o s
  | .vld o => Sys2Proof.Machine.execVld o s
  | .vst o => Sys2Proof.Machine.execVst o s
  | .vgather o => Sys2Proof.Machine.execVgather o s
  | .vscatter o => Sys2Proof.Machine.execVscatter o s
  | .vred o => Sys2Proof.Machine.execVred o s
  | .vscan o => Sys2Proof.Machine.execVscan o s
  | .vperm o => Sys2Proof.Machine.execVperm o s
  | .vtrn o => Sys2Proof.Machine.execVtrn o s
  | .vdist o => Sys2Proof.Machine.execVdist o s
  | .vtopk o => Sys2Proof.Machine.execVtopk o s
  | .vquant o => Sys2Proof.Machine.execVquant o s
  | .vext o => Sys2Proof.Machine.execVext o s
  | .vins o => Sys2Proof.Machine.execVins o s
  | .vmov o => Sys2Proof.Machine.execVmov o s
  | .tld o => Sys2Proof.Machine.execTld o s
  | .tldAcc o => Sys2Proof.Machine.execTldAcc o s
  | .tst o => Sys2Proof.Machine.execTst o s
  | .tstAcc o => Sys2Proof.Machine.execTstAcc o s
  | .tzero o => Sys2Proof.Machine.execTzero o s
  | .tanch o => Sys2Proof.Machine.execTanch o s
  | .tanchRd o => Sys2Proof.Machine.execTanchRd o s
  | .tanchClr o => Sys2Proof.Machine.execTanchClr o s
  | .tmma o => Sys2Proof.Machine.execTmma o s
  | .tcvt o => Sys2Proof.Machine.execTcvt o s
  | .tcvtTile o => Sys2Proof.Machine.execTcvtTile o s
  | .tvec o => Sys2Proof.Machine.execTvec o s
  | .tvecIn o => Sys2Proof.Machine.execTvecIn o s
  | .slres o => Sys2Proof.Machine.execSlres o s
  | .sljoin o => Sys2Proof.Machine.execSljoin o s
  | .slsend o => Sys2Proof.Machine.execSlsend o s
  | .slwait o => Sys2Proof.Machine.execSlwait o s
  | .slclose o => Sys2Proof.Machine.execSlclose o s
  | .gsync o => Sys2Proof.Machine.execGsync o s
  | .tlbi o => Sys2Proof.Machine.execTlbi o s
  | .syscGquery o => Sys2Proof.Machine.execSyscGquery o s
  | .syscGfree o => Sys2Proof.Machine.execSyscGfree o s
  | .syscElog o => Sys2Proof.Machine.execSyscElog o s
  | .roundStart core => Sys2Proof.Machine.execRoundStart core s
  | .timerExpiry core slot => Sys2Proof.Machine.execTimerExpiry core slot s
  | .spill core slot => Sys2Proof.Machine.execSpill core slot s
  | .restore dev task => Sys2Proof.Machine.execRestore dev task s
  | .arrive id => Sys2Proof.Machine.execArrive id s
  | .serve id => Sys2Proof.Machine.execServe id s
  | .complete id => Sys2Proof.Machine.execComplete id s
  | .claimDelivery id => Sys2Proof.Machine.execClaimDelivery id s
  | .claimExpiry core entry => Sys2Proof.Machine.execClaimExpiry core entry s
  | .messageAccept id => Sys2Proof.Machine.execMessageAccept id s
  | .kickAccept id => Sys2Proof.Machine.execKickAccept id s
  | .activeMessageRun core => Sys2Proof.Machine.execActiveMessageRun core s
  | .handlerAbort core => Sys2Proof.Machine.execHandlerAbort core s
  | .runqDeferredPlace core => Sys2Proof.Machine.execRunqDeferredPlace core s
  | .vectorComplete core id => Sys2Proof.Machine.execVectorComplete core id s
  | .matrixStart core => Sys2Proof.Machine.execMatrixStart core s
  | .matrixComplete core => Sys2Proof.Machine.execMatrixComplete core s
  | .pairedEffectCompare core pair => Sys2Proof.Machine.execPairedEffectCompare core pair s
  | .jobGo core job => Sys2Proof.Machine.execJobGo core job s
  | .jobComplete core job => Sys2Proof.Machine.execJobComplete core job s
  | .requestResend id => Sys2Proof.Machine.execRequestResend id s
  | .escapeReroute id => Sys2Proof.Machine.execEscapeReroute id s
  | .streamDeliver core sm => Sys2Proof.Machine.execStreamDeliver core sm s
  | .sluiceJoinServe id => Sys2Proof.Machine.execSluiceJoinServe id s
  | .sluiceContribution id => Sys2Proof.Machine.execSluiceContribution id s
  | .mcastRootForward id => Sys2Proof.Machine.execMcastRootForward id s
  | .mcastDeliver core tag => Sys2Proof.Machine.execMcastDeliver core tag s
  | .walkComplete core space va => Sys2Proof.Machine.execWalkComplete core space va s
  | .triggerWrite dev req => Sys2Proof.Machine.execTriggerWrite dev req s
  | .taskPlace dev task => Sys2Proof.Machine.execTaskPlace dev task s
  | .taskPreemptPriority dev task => Sys2Proof.Machine.execTaskPreemptPriority dev task s
  | .taskMigrateSeat dev task => Sys2Proof.Machine.execTaskMigrateSeat dev task s
  | .nodeComplete dev graph launch node => Sys2Proof.Machine.execNodeComplete dev graph launch node s
  | .launchComplete dev graph launch => Sys2Proof.Machine.execLaunchComplete dev graph launch s
  | .watchdogFire core slot => Sys2Proof.Machine.execWatchdogFire core slot s
  | .nodeFreeze dev graph node => Sys2Proof.Machine.execNodeFreeze dev graph node s
  | .tokenNotice id => Sys2Proof.Machine.execTokenNotice id s
  | .tokenDeadline dev idx => Sys2Proof.Machine.execTokenDeadline dev idx s
  | .tokenEntryFree dev idx => Sys2Proof.Machine.execTokenEntryFree dev idx s
  | .holdEnter id => Sys2Proof.Machine.execHoldEnter id s
  | .holdQueryAnswer id => Sys2Proof.Machine.execHoldQueryAnswer id s
  | .holdRelease id => Sys2Proof.Machine.execHoldRelease id s
  | .escapeChannelMove id => Sys2Proof.Machine.execEscapeChannelMove id s
  | .flitResend dev link => Sys2Proof.Machine.execFlitResend dev link s
  | .linkRetire dev link => Sys2Proof.Machine.execLinkRetire dev link s
  | .portRetire dev port => Sys2Proof.Machine.execPortRetire dev port s
  | .laneCalibrationRotate dev link group => Sys2Proof.Machine.execLaneCalibrationRotate dev link group s
  | .laneFailure dev link group lane => Sys2Proof.Machine.execLaneFailure dev link group lane s
  | .sramScrub core off => Sys2Proof.Machine.execSramScrub core off s
  | .sramUncorrectable core off => Sys2Proof.Machine.execSramUncorrectable core off s
  | .gddr7MultibitError dev pa => Sys2Proof.Machine.execGddr7MultibitError dev pa s
  | .regfileUncorrectable core file idx => Sys2Proof.Machine.execRegfileUncorrectable core file idx s
  | .hostLoadTimeout id => Sys2Proof.Machine.execHostLoadTimeout id s
  | .hostBar2Write dev req => Sys2Proof.Machine.execHostBar2Write dev req s
  | .hostBar2Read dev req off size => Sys2Proof.Machine.execHostBar2Read dev req off size s
  | .bar0RegisterWrite dev req => Sys2Proof.Machine.execBar0RegisterWrite dev req s
  | .cmddbOverrun dev req => Sys2Proof.Machine.execCmddbOverrun dev req s
  | .plimitWrite dev req => Sys2Proof.Machine.execPlimitWrite dev req s
  | .notAnInstruction w0 => Sys2Proof.Machine.execNotAnInstruction w0 s
  | .fetchFault core slot => Sys2Proof.Machine.execFetchFault core slot s
  | .jobAccess core job elem => Sys2Proof.Machine.execJobAccess core job elem s
  | .tlbiRemovalDone core slot => Sys2Proof.Machine.execTlbiRemovalDone core slot s
  | .heartbeatReceive dev plane => Sys2Proof.Machine.execHeartbeatReceive dev plane s
  | .launch => Sys2Proof.Machine.execLaunch s
  | .heartbeatSend => Sys2Proof.Machine.execHeartbeatSend s
  | .deviceFence => Sys2Proof.Machine.execDeviceFence s
  | .egressPost => Sys2Proof.Machine.execEgressPost s
  | .powerTick => Sys2Proof.Machine.execPowerTick s
  | .reset => Sys2Proof.Machine.execReset s
  | .identify => Sys2Proof.Machine.execIdentify s
  | .attest => Sys2Proof.Machine.execAttest s
  | .loadFirmware => Sys2Proof.Machine.execLoadFirmware s
  | .map => Sys2Proof.Machine.execMap s
  | .mapDeferred => Sys2Proof.Machine.execMapDeferred s
  | .mapAperture => Sys2Proof.Machine.execMapAperture s
  | .keySet => Sys2Proof.Machine.execKeySet s
  | .graphLoad => Sys2Proof.Machine.execGraphLoad s
  | .graphUnload => Sys2Proof.Machine.execGraphUnload s
  | .nodeResumeContinue => Sys2Proof.Machine.execNodeResumeContinue s
  | .nodeResumeRerun => Sys2Proof.Machine.execNodeResumeRerun s
  | .resetScope => Sys2Proof.Machine.execResetScope s
  | .errorLogRead => Sys2Proof.Machine.execErrorLogRead s
  | .watchConfig => Sys2Proof.Machine.execWatchConfig s
  | .linkStatus => Sys2Proof.Machine.execLinkStatus s
  | .checkpointQuiesce => Sys2Proof.Machine.execCheckpointQuiesce s
  | .checkpointRelease => Sys2Proof.Machine.execCheckpointRelease s
  | .checkpointAdopt => Sys2Proof.Machine.execCheckpointAdopt s

end Sys2Proof.Machine
end

