-- ==== Sys2Proof/Machine/Turn.lean ====
section
/-! DEFINITION. One turn of an issue point and one choice of what happens next (R25 to R29, R57, R124, R125). -/

namespace Sys2Proof.Machine

/-- Fetch, decode and run the instruction at a slot's pc (R36, R37, R57 steps 2 to 4). -/
def State.slotTurn (s : State) (c n : Nat) : Out :=
  let space := (s.slot c n).space
  match s.fetch c n with
  | .trap _ => exec (.fetchFault c n) s
  | .walk va => .next (s.leave c n [.walk space (va / 65536)])
  | .words w0 w1 w2 =>
    let s := s.fetched c n (max 1 (wordsOf w0))
    match decode w0 w1 w2 with
    | .ok i _ => exec i s
    | .illegal sub => .next (s.takeTrap c n ⟨1, sub, w0.setWidth 64⟩)

/-- The next cycle of a core's round: the turn of the next slot in rotation, an idle cycle where that slot has
left, or the next round (R25, R27). A trap reported at a completion comes first, then TIMER (R111, R35). -/
def State.turn (s : State) (c : Nat) : Out :=
  let k := s.core c
  match k.order[k.pos]? with
  | none => exec (.roundStart c) s
  | some n =>
    let s : State := { s.setCore c { k with pos := k.pos + 1 } with cur := (c, n) }
    let s : State := s.claimsAt c (s.now c)
    let sl := s.slot c n
    if sl.run ≠ .ready then .next s
    else match sl.hit with
      | some t => .next (s.takeTrap c n t)
      | none => if !sl.hmode && sl.timerDue (s.now c) then exec (.timerExpiry c n) s else s.slotTurn c n

/-- One instruction of the handler slot, whose issue point is its own: one in each round of its core, and aborted after
256. An instruction that waited and is issued again is not counted again (R124, R125, assumption log 50). -/
def State.handlerTurn (s : State) (c : Nat) : Out :=
  match (s.core c).am with
  | none => .next s
  | some m =>
    let s := { s with cur := (c, 62) }
    let round := (s.core c).start
    let ready := decide ((s.slot c 62).run = .ready)
    let back := match (s.slot c 62).run with
      | .out ws => ws.all (s.waitOver c 62)
      | r => decide (r = .ready)
    if !back ∨ m.last = some round then .next s
    else if ready ∧ 256 ≤ m.count then exec (.handlerAbort c) s
    else
      let m' := { m with count := m.count + b2n ready, last := some round }
      let s := (s.modSlot c 62 (fun sl => { sl with run := .ready })).modCore c (fun k => { k with am := some m' })
      match (s.slot c 62).hit with
      | some t => .next (s.trapEntry c 62 t)
      | none => s.slotTurn c 62

/-- What a choice does. An instruction runs only at a turn. -/
def State.choose (s : State) : Choice → Out
  | .turn c => s.turn c
  | .handler c => s.handlerTurn c
  | .post d r w => .next (s.arrivePost d r w)
  | .event i => if shapeOf i = .event then exec i s else .next s
  | .eventAt d i => if shapeOf i = .event then exec i { s with dev := d } else .next s

/-- The error that an input detects: device, cycle, class and UNIT of the record that it writes (R287, R288). -/
def State.errorOf (s : State) : Choice → Option (Nat × Nat × Nat × Nat)
  | .event (.gddr7MultibitError d pa) => some (d, (s.dv d).cycle, clsGddr7, 0x10000 + sliceOf (pa % dramSize))
  | .event (.sramUncorrectable c off) =>
    if off < 0x1000000 then some (devOf c, s.now c, clsPad, s.coreId c) else some (devOf c, (s.dv (devOf c)).cycle, clsHead, unitOf (devOf c))
  | .event (.regfileUncorrectable c 0 _) => some (devOf c, s.now c, clsRegfile, s.coreId c)
  | .event (.laneFailure d l _ _) => some (d, (s.dv d).cycle, if isDieLink l then clsLink else clsCasris, unitOf d)
  | .event (.hostLoadTimeout id) => (s.acc id).map (fun a => (a.home.dev, (s.dv a.home.dev).cycle, clsHost, s.coreId a.core))
  | _ => none

/-- Of two errors of one device in one cycle, the first in the order of R287: ascending class, then ascending UNIT. -/
def State.errBefore (s : State) (x y : Choice) : Bool :=
  match s.errorOf x, s.errorOf y with
  | some (d, t, k, u), some (d', t', k', u') =>
    decide (d = d') && decide (t = t') && (decide (k < k') || (decide (k = k') && decide (u < u')))
  | _, _ => false

/-- The place of the input that is taken next: the first; of errors that stand together at the front, the one that the order
of R287 puts first (assumption log 69). -/
def State.pickInput (s : State) (l : List Choice) : Nat :=
  let run := l.takeWhile (fun x => (s.errorOf x).isSome)
  (rangeFrom 0 run.length).foldl (fun i j => match run[j]?, run[i]? with
    | some y, some x => if s.errBefore y x then j else i
    | _, _ => i) 0

/-- The slots whose waits a step has ended are released with it (R27). -/
def Out.released : Out → Out
  | .next s => .next s.release
  | o => o

/-- The next thing that happens: an input, else a step already due, else a turn of the focus core. -/
def State.advanceOne (s : State) : Out :=
  Out.released (match s.inbox[s.pickInput s.inbox]? with
    | some x => ({ s with inbox := s.inbox.eraseIdx (s.pickInput s.inbox) } : State).choose x
    | none => match s.agenda with
      | x :: r => ({ s with agenda := r } : State).choose x
      | [] => s.turn s.focus)

end Sys2Proof.Machine
end

