-- ==== Sys2Proof/Machine/Step.lean ====
section
/-! DEFINITION. The step of the machine, and the state in which a given instruction is the next one. -/

namespace Sys2Proof.Machine

/-- One step: the next input, step due or turn. -/
def step (s : State) : Host.Outcome State Fault Refusal := s.advanceOne

/-- The slot that `withFetchWord` makes the next to issue; a free slot gets the windows at the bottom of the files. -/
def fetchSlot (sl : Slot) : Slot :=
  let sl := if sl.live then sl else { sl with scount := 128, vcount := 32 }
  { sl with run := .ready, pc := 0x100000000000, space := 1, hit := none, timer := 0, timerHit := false }

/-- The translation of the page at the bottom of the translated region to the bottom of device memory. -/
def fetchEntry : Tlb :=
  { space := 1, page := 0x100000000000, size := 65536, tgt := 0, fmt := 0, frame := 0, r := true, w := false, x := true,
    scale := 0, owner := none }

/-- The state with an instruction stored where the next step fetches it: a task in slot 0 of core 0 whose turn is
next (assumption log 2). -/
def State.withFetchWord (s : State) (nbits w : Nat) : State :=
  let k := s.core 0
  let k := { k with slots := tabPut k.slots 0 (fetchSlot (k.slot 0)), tlb := fetchEntry :: k.tlb,
                    order := [0], pos := 0 }
  let s := s.setCore 0 k
  let s := { s with inbox := .turn 0 :: s.inbox }
  s.writeNum 1 (.dram 0 0) 12 (w % 2 ^ nbits)

end Sys2Proof.Machine
end

