-- ==== Sys2Proof/Safety/Instructions.lean ====
section
/-! DEFINITION. Of each instruction of a slot: the operand fields it reads and writes, and what it is to a pair of
slots (R49, R217, R218). Events have neither. -/

namespace Sys2Proof.Machine

/-- The operand fields of an instruction, as its meaning checks and reads them (R49, R57). -/
def descOf (i : Instr) : Desc :=
  match i with
  | .addCompact _ | .subCompact _ | .mulCompact _ | .mulhCompact _ | .divCompact _ | .remCompact _
  | .andCompact _ | .orCompact _ | .xorCompact _ | .andnCompact _ | .shlCompact _ | .shrCompact _
  | .sraCompact _ | .rotCompact _ | .minCompact _ | .maxCompact _ | .selCompact _ | .add _ | .sub _ | .mul _
  | .mulh _ | .div _ | .rem _ | .and _ | .or _ | .xor _ | .andn _ | .shl _ | .shr _ | .sra _ | .rot _ | .min _
  | .max _ | .bfx _ | .sel _ | .lea _ | .adds _ => dsc2
  | .clzCompact _ | .ctzCompact _ | .popcCompact _ | .addi _ | .clz _ | .ctz _ | .popc _ | .ext _ => dsc1
  | .cmpCompact _ | .cmp _ => dscCmp
  | .movCompact _ | .mov _ => dscMov
  | .ldDCompact _ => { d := .dreg, a := .sreg, far := .disp }
  | .stDCompact _ => { d := .dsrcreg, a := .sreg, far := .disp }
  | .brCompact _ | .trap _ | .nop _ | .fence _ | .beat _ | .semPost _ => {}
  | .bfi _ | .madd _ => dsc3
  | .fadd _ | .fsub _ | .fmul _ | .fmin _ | .fmax _ | .frcpr _ | .frsqr _ | .fsgn _ => dscF2
  | .fma _ => dscF3
  | .fcmp _ => dscFCmp
  | .fcvt _ | .frcp _ | .frsq _ | .fsfn _ | .fclass _ => dscF1
  | .br _ => { lit := .off }
  | .jmp _ => { a := .src, b := .src, lit := .int }
  | .call _ => { d := .dregz, lit := .off }
  | .callr _ => { d := .dregz, a := .src, b := .src, lit := .int }
  | .loop _ => { d := .dreg, a := .src }
  | .exit _ | .pmovWriteWord _ | .slclose _ => { a := .src }
  | .syscGfree _ => { a := .src, far := .addr }
  | .plog _ => { d := .pdst, a := .psrc, b := .psrc }
  | .pmovReadWord _ => { d := .dst }
  | .pmovReadPred _ => { d := .dst, a := .psrc }
  | .pmovWritePred _ | .cdrop _ => { d := .pdst, a := .src }
  | .tokq _ => { d := .pdst, a := .src, far := .always }
  | .empty o => (if bitN o.fn.toNat 0 then { d := .vdst } else { d := .dreg })
  | .fetest o => (if bitN o.fn.toNat 0 then { d := .pdst, a := .vtst } else { d := .pdst, a := .tst })
  | .ctlRead _ => { d := .dregz }
  | .ctlWrite _ | .timerArm _ | .vshapeWrite _ | .runqFlush _ | .semcfgWrite _ | .traceWrite _ | .qflagsClear _ => dscCtl
  | .modeWrite _ => { a := .sreg, role := .handlerMode }
  | .tcfgWrite _ => { a := .sreg, role := .matrix }
  | .eret _ => { role := .handlerMode }
  | .ld _ => { d := .dst, a := .src, b := .src, lit := .int, rlx := true, far := .sum }
  | .st _ | .amon _ => { a := .src, b := .src, c := .src, lit := .int, rlx := true, far := .sum }
  | .amo _ => { d := .dst, a := .src, b := .src, c := .src, lit := .int, rlx := true, far := .sum }
  | .cas _ => { d := .rwreg, a := .src, b := .src, c := .src, lit := .int, rlx := true, far := .sum }
  | .claim _ => { d := .dst, c := .creg }
  | .dlv _ => { a := .src, b := .src, lit := .int, rlx := true, far := .name }
  | .stt _ => { d := .dregz, a := .src, b := .src, c := .src, lit := .int, rlx := true, far := .sum }
  | .stw _ => { d := .dsrcreg, a := .src, b := .src, c := .src, lit := .int, rlx := true, far := .always }
  | .go _ => { a := .src, b := .src, lit := .int, role := .task }
  | .spawn _ => { d := .dregz, a := .src, b := .src, lit := .int, role := .task }
  | .lvget o => (dscLvget o.fn.toNat)
  | .lvcommit _ => { a := .src, role := .level }
  | .wmsg _ | .wmsgCount _ => { d := .dst, anyPol := true, role := .task }
  | .send _ | .kick _ => { a := .src, b := .src, lit := .int, far := .name }
  | .sendAm _ => { a := .src, b := .src, c := .src, lit := .int, far := .name }
  | .semWait _ => { role := .task }
  | .semTry _ => { d := .pdst }
  | .hcopy _ => { d := .dregz, a := .src, role := .haulage }
  | .hpull _ => { d := .dregz, a := .src, b := .src, role := .haulage }
  | .hsub _ => { a := .src, b := .src, c := .src, role := .haulage }
  | .hsubLeave _ => { a := .src, role := .haulage }
  | .hstream _ => { d := .strm, a := .src, b := .src, role := .haulage }
  | .vadd _ | .vsub _ | .vmul _ | .vmin _ | .vmax _ | .vand _ | .vor _ | .vxor _ | .vshl _ | .vshr _ | .vcmp _
  | .vperm _ => dscV2
  | .vfma _ | .vsel _ => dscV3
  | .vcvt _ | .vsfn _ | .vbcastRow _ | .vscan _ | .vtrn _ | .vmov _ => dscV1
  | .vbcast _ => { d := .vdst, b := .src, lit := .elem }
  | .vld _ => { d := .vdst, a := .src, b := .src, c := .src, lit := .int, far := .sum }
  | .vst _ => { d := .dsrc, a := .src, b := .src, c := .vsrc, lit := .int, far := .sum }
  | .vgather _ => { d := .vdst, a := .src, b := .vsrc, lit := .vidx, far := .index }
  | .vscatter _ => { a := .src, b := .vsrc, c := .vsrc, lit := .vidx, far := .index }
  | .vred o => (dscVred o.fn.toNat)
  | .vdist o => (dscVdist o.fn.toNat)
  | .vtopk o => (dscVtopk o.fn.toNat)
  | .vquant _ => { d := .vdst, a := .vsrc, b := .src, lit := .f32 }
  | .vext _ => { d := .dst, a := .vsrc, b := .src, lit := .int }
  | .vins _ => { d := .vrw, a := .src, b := .src, lit := .int }
  | .tld _ | .tldAcc _ => { a := .src, b := .src, c := .src, lit := .int, role := .matrix }
  | .tst _ => { d := .dsrc, a := .src, b := .src, c := .tmem, lit := .int, role := .matrix }
  | .tstAcc _ => { d := .dsrc, a := .src, b := .src, c := .amem, lit := .int, role := .matrix }
  | .tzero o => (if bit o.fn 0 then { d := .adst, role := .matrix } else { d := .tdst, role := .matrix })
  | .tanch _ => { d := .arw, b := .src, lit := .int, role := .matrix }
  | .tanchRd _ => { d := .dst, a := .asrc, role := .matrix }
  | .tanchClr _ => { d := .arw, role := .matrix }
  | .tmma _ => { d := .arw, a := .tsrc, b := .tsrc, role := .matrix }
  | .tcvt _ => { d := .vdst, a := .asrc, b := .src, lit := .int, role := .matrix }
  | .tcvtTile _ => { d := .tdst, a := .asrc, role := .matrix }
  | .tvec _ => { d := .vdst, a := .tsrc, b := .src, lit := .int, role := .matrix }
  | .tvecIn _ => { d := .trw, a := .vsrc, b := .src, lit := .int, role := .matrix }
  | .slres _ => { d := .apin, a := .src, b := .src, lit := .int }
  | .sljoin _ => { d := .dreg, a := .src, b := .src, lit := .int, far := .always }
  | .slsend _ => { a := .src, b := .src, c := .amem, far := .always }
  | .slwait _ => { d := .dregz, a := .src }
  | .gsync _ => { role := .gang }
  | .tlbi _ => { a := .sreg, b := .sregz, lit := .int }
  | .syscGquery _ => { d := .dst, a := .src, far := .addr }
  | .syscElog _ => { d := .dst, a := .src }
  | .qflagsRaise _ _ | .roundStart _ | .timerExpiry _ _ | .spill _ _ | .restore _ _ | .arrive _ | .serve _
  | .complete _ | .claimDelivery _ | .claimExpiry _ _ | .messageAccept _ | .kickAccept _ | .activeMessageRun _
  | .handlerAbort _ | .runqDeferredPlace _ | .vectorComplete _ _ | .matrixStart _ | .matrixComplete _
  | .pairedEffectCompare _ _ | .jobGo _ _ | .jobComplete _ _ | .requestResend _ | .escapeReroute _
  | .streamDeliver _ _ | .sluiceJoinServe _ | .sluiceContribution _ | .mcastRootForward _ | .mcastDeliver _ _
  | .walkComplete _ _ _ | .triggerWrite _ _ | .taskPlace _ _ | .taskPreemptPriority _ _ | .taskMigrateSeat _ _
  | .nodeComplete _ _ _ _ | .launchComplete _ _ _ | .watchdogFire _ _ | .nodeFreeze _ _ _ | .tokenNotice _
  | .tokenDeadline _ _ | .tokenEntryFree _ _ | .holdEnter _ | .holdQueryAnswer _ | .holdRelease _
  | .escapeChannelMove _ | .flitResend _ _ | .linkRetire _ _ | .portRetire _ _ | .laneCalibrationRotate _ _ _
  | .laneFailure _ _ _ _ | .sramScrub _ _ | .sramUncorrectable _ _ | .gddr7MultibitError _ _
  | .regfileUncorrectable _ _ _ | .hostLoadTimeout _ | .hostBar2Write _ _ | .hostBar2Read _ _ _ _
  | .bar0RegisterWrite _ _ | .cmddbOverrun _ _ | .plimitWrite _ _ | .notAnInstruction _ | .fetchFault _ _
  | .jobAccess _ _ _ | .tlbiRemovalDone _ _ | .heartbeatReceive _ _ | .launch | .heartbeatSend | .deviceFence
  | .egressPost | .powerTick | .reset | .identify | .attest | .loadFirmware | .map | .mapDeferred
  | .mapAperture | .keySet | .graphLoad | .graphUnload | .nodeResumeContinue | .nodeResumeRerun | .resetScope
  | .errorLogRead | .watchConfig | .linkStatus | .checkpointQuiesce | .checkpointRelease | .checkpointAdopt => {}

/-- What an instruction is to a pair: nothing outside the slot, a value from outside, an effect outside, or a step
that the leading slot makes for both (R217, R218). -/
def pairOf (i : Instr) : PairKind :=
  match i with
  | .addCompact _ | .subCompact _ | .mulCompact _ | .mulhCompact _ | .divCompact _ | .remCompact _
  | .andCompact _ | .orCompact _ | .xorCompact _ | .andnCompact _ | .shlCompact _ | .shrCompact _
  | .sraCompact _ | .rotCompact _ | .minCompact _ | .maxCompact _ | .clzCompact _ | .ctzCompact _
  | .popcCompact _ | .selCompact _ | .cmpCompact _ | .movCompact _ | .addi _ | .brCompact _ | .add _ | .sub _
  | .mul _ | .mulh _ | .div _ | .rem _ | .and _ | .or _ | .xor _ | .andn _ | .shl _ | .shr _ | .sra _ | .rot _
  | .min _ | .max _ | .clz _ | .ctz _ | .popc _ | .bfx _ | .bfi _ | .sel _ | .cmp _ | .mov _ | .lea _ | .ext _
  | .adds _ | .madd _ | .fadd _ | .fsub _ | .fmul _ | .fma _ | .fmin _ | .fmax _ | .fcmp _ | .fcvt _ | .frcp _
  | .frsq _ | .frcpr _ | .frsqr _ | .fsfn _ | .fclass _ | .fsgn _ | .br _ | .jmp _ | .call _ | .callr _
  | .loop _ | .trap _ | .nop _ | .plog _ | .pmovReadWord _ | .pmovWriteWord _ | .pmovReadPred _
  | .pmovWritePred _ | .empty _ | .ctlWrite _ | .timerArm _ | .modeWrite _ | .vshapeWrite _ | .tcfgWrite _
  | .eret _ | .beat _ | .go _ | .hcopy _ | .hpull _ | .hsub _ | .hsubLeave _ | .hstream _ | .vadd _ | .vsub _
  | .vmul _ | .vfma _ | .vmin _ | .vmax _ | .vand _ | .vor _ | .vxor _ | .vshl _ | .vshr _ | .vcmp _ | .vsel _
  | .vcvt _ | .vsfn _ | .vbcast _ | .vbcastRow _ | .vld _ | .vst _ | .vgather _ | .vscatter _ | .vred _
  | .vscan _ | .vperm _ | .vtrn _ | .vdist _ | .vtopk _ | .vquant _ | .vext _ | .vins _ | .vmov _ | .tld _
  | .tldAcc _ | .tst _ | .tstAcc _ | .tzero _ | .tanch _ | .tanchRd _ | .tanchClr _ | .tmma _ | .tcvt _
  | .tcvtTile _ | .tvec _ | .tvecIn _ | .gsync _ => .inner
  | .ldDCompact _ | .ld _ | .claim _ | .cdrop _ | .tokq _ | .lvget _ | .wmsg _ | .wmsgCount _ | .sljoin _
  | .slwait _ | .syscGquery _ | .syscElog _ => .value
  | .stDCompact _ | .st _ | .amo _ | .cas _ | .amon _ | .stt _ | .stw _ => (.effect true)
  | .exit _ | .runqFlush _ | .semcfgWrite _ | .traceWrite _ | .qflagsClear _ | .dlv _ | .spawn _ | .lvcommit _
  | .send _ | .sendAm _ | .semWait _ | .semPost _ | .semTry _ | .kick _ | .slres _ | .slsend _ | .slclose _
  | .syscGfree _ => (.effect false)
  | .fetest o => (if 128 ≤ o.a.toNat then .value else .inner)
  | .ctlRead o => (if 0x100 ≤ fld o.fn.toNat 0 12 then .value else .inner)
  | .fence _ | .tlbi _ => .lead
  | .qflagsRaise _ _ | .roundStart _ | .timerExpiry _ _ | .spill _ _ | .restore _ _ | .arrive _ | .serve _
  | .complete _ | .claimDelivery _ | .claimExpiry _ _ | .messageAccept _ | .kickAccept _ | .activeMessageRun _
  | .handlerAbort _ | .runqDeferredPlace _ | .vectorComplete _ _ | .matrixStart _ | .matrixComplete _
  | .pairedEffectCompare _ _ | .jobGo _ _ | .jobComplete _ _ | .requestResend _ | .escapeReroute _
  | .streamDeliver _ _ | .sluiceJoinServe _ | .sluiceContribution _ | .mcastRootForward _ | .mcastDeliver _ _
  | .walkComplete _ _ _ | .triggerWrite _ _ | .taskPlace _ _ | .taskPreemptPriority _ _ | .taskMigrateSeat _ _
  | .nodeComplete _ _ _ _ | .launchComplete _ _ _ | .watchdogFire _ _ | .nodeFreeze _ _ _ | .tokenNotice _
  | .tokenDeadline _ _ | .tokenEntryFree _ _ | .holdEnter _ | .holdQueryAnswer _ | .holdRelease _
  | .escapeChannelMove _ | .flitResend _ _ | .linkRetire _ _ | .portRetire _ _ | .laneCalibrationRotate _ _ _
  | .laneFailure _ _ _ _ | .sramScrub _ _ | .sramUncorrectable _ _ | .gddr7MultibitError _ _
  | .regfileUncorrectable _ _ _ | .hostLoadTimeout _ | .hostBar2Write _ _ | .hostBar2Read _ _ _ _
  | .bar0RegisterWrite _ _ | .cmddbOverrun _ _ | .plimitWrite _ _ | .notAnInstruction _ | .fetchFault _ _
  | .jobAccess _ _ _ | .tlbiRemovalDone _ _ | .heartbeatReceive _ _ | .launch | .heartbeatSend | .deviceFence
  | .egressPost | .powerTick | .reset | .identify | .attest | .loadFirmware | .map | .mapDeferred
  | .mapAperture | .keySet | .graphLoad | .graphUnload | .nodeResumeContinue | .nodeResumeRerun | .resetScope
  | .errorLogRead | .watchConfig | .linkStatus | .checkpointQuiesce | .checkpointRelease | .checkpointAdopt => .inner

/-- A row of the table that a slot runs from its words, `notAnInstruction` apart. -/
def ofSlot (i : Instr) : Bool :=
  match shapeOf i with
  | .compact _ _ | .long _ _ => true
  | .bare _ | .event => false

end Sys2Proof.Machine
end

