-- ==== Sys2Proof/Safety.lean ====
section
/-! DEFINITION. What a safe step is, and the terms in which the statements speak: an instruction of the current
slot issues, its destination takes a value, and what an instruction leaves alone (R30, R57, R69). -/

namespace Sys2Proof.Machine

/-- The step is safe: the machine goes on. -/
def Safe (s : State) : Prop := ∃ t, step s = .next t

/-- The fields of an instruction of a slot; a compact word stands for the fields it expands to (R44). -/
def opndOfInstr (i : Instr) : Opnd :=
  match shapeOf i with
  | .compact _ k => expand k
  | .long _ o => o
  | _ => expand ⟨0, false, 0, 0, 0, 0⟩

/-- Its first word (R38, R43). -/
def firstWord (i : Instr) : BitVec 32 :=
  match shapeOf i with
  | .compact op k => encCompact op k
  | .long op o => encWord0 op o
  | .bare w => w
  | .event => 0

/-- Its length in bytes (R36). -/
def lengthOf (i : Instr) : Nat :=
  match shapeOf i with
  | .long _ o => lenOf o
  | _ => 4

/-- The current slot. -/
def State.here (s : State) : Slot := s.slot s.cur.1 s.cur.2

/-- The instruction at the current slot's pc: core, slot, address, length, fields, first word, and what it pops. -/
def ctxOf (i : Instr) (s : State) : Ctx :=
  ⟨s.cur.1, s.cur.2, s.here.pc, lengthOf i, opndOfInstr i, firstWord i, poppedBy s s.cur.1 s.cur.2 (descOf i) (opndOfInstr i)⟩

/-- `mov zero, port` discards the head of a port, poisoned or not (R127). -/
def discards : Instr → Bool
  | .mov o => movDiscards o
  | _ => false

/-- What R57 asks before an instruction's own effect: the slot has a task, the guard holds, and the checks of
privilege, role, ranges, empty sources, poison and the destination's wait pass. The operand values are `v`; `t` is
the state with the ports popped and the pc past the instruction. -/
structure Issues (i : Instr) (s : State) (v : Vals) (t : State) : Prop where
  live : s.here.live = true
  guard : guardOk s.here (opndOfInstr i).g (opndOfInstr i).gn = true
  front : ∃ r, front s s.cur.1 s.cur.2 (descOf i) (opndOfInstr i) (firstWord i) (discards i) = .go v r ∧ t = r.advance s.cur.1 s.cur.2 (lengthOf i)
  sound : s.here.paired = true ∨ (fields (descOf i) (opndOfInstr i)).any (s.badSource s.cur.1 s.cur.2) = false

/-- The slot is not one of a pair (R216). -/
def Alone (s : State) : Prop := s.here.paired = false

/-- The state in which an instruction that has issued takes its trap: the one before it, with what has passed through the
load-value queue of a pair (R5, R217). -/
def State.rewound (s t : State) : State := if s.here.paired then s.undone t s.cur.1 s.cur.2 else s

/-- A destination takes a value at once: `runq` needs room in the priority that the value names, and no value of that priority
that waits (R50, R128); in a pair a push needs room in the store comparator (R218). -/
def Takes (x : Ctx) (spec : Nat) (v : Word) (t : State) : Prop :=
  128 ≤ spec → spec ≠ 145 →
    (if (t.slot x.c x.n).paired then x.n % 2 = 0 → t.cmpUse x.c x.n < 32
     else spec = 146 → ((t.core x.c).port (runqKey (prioOf v))).length < 64 ∧
       ∀ e ∈ (t.core x.c).runqWait, prioOf e.val ≠ prioOf v)

/-- A state with a value in a destination (R50, R69): a register becomes full and clean, `zero` discards, a port's
FIFO grows; in a pair a push is an effect to compare (R218). -/
def State.stored (t : State) (x : Ctx) (spec : Nat) (v : Word) : State :=
  if spec < 128 then t.modCore x.c (fun k => k.setEntry ((t.slot x.c x.n).ent spec) { val := v })
  else if spec = 145 then t
  else if (t.slot x.c x.n).paired then t.pairPut x.c x.n (pushEffect spec v false 0 x.pc)
  else t.modCore x.c (fun k => k.push (if spec = 146 then runqKey (prioOf v) else spec) { val := v, writer := x.n })

/-- The destination of field d takes a value. -/
def TakesD (x : Ctx) (v : Word) (t : State) : Prop := Takes x x.o.d.toNat v t

/-- A state with a value in the destination of field d. -/
def State.storedD (t : State) (x : Ctx) (v : Word) : State := t.stored x x.o.d.toNat v

/-- A state with a predicate in field d. -/
def State.storedP (t : State) (x : Ctx) (b : Bool) : State := t.modSlot x.c x.n (fun sl => sl.setPred x.o.d.toNat b)

/-- Everything but the cores and the steps due is as before: memory and its marks, devices, accesses. -/
def SameOutside (s t : State) : Prop :=
  { t with cores := [], agenda := [], fifo := [] } = { s with cores := [], agenda := [], fifo := [] }

/-- Core `c` apart, every core is as before. -/
def SameCores (c : Nat) (s t : State) : Prop := ∀ c', c' ≠ c → t.core c' = s.core c'

/-- Slot `n` apart, every slot of core `c` is as before. -/
def SameSlots (c n : Nat) (s t : State) : Prop := ∀ m, m ≠ n → t.slot c m = s.slot c m

/-- An entry apart, the scalar file of core `c` is as before. -/
def SameEntries (c : Nat) (w : Nat → Prop) (s t : State) : Prop := ∀ e, ¬ w e → (t.core c).entry e = (s.core c).entry e

/-- Every byte of memory, its poison marks and its keys are as before. -/
def SameMemory (s t : State) : Prop :=
  (∀ a, cellGet t.mem a = cellGet s.mem a) ∧ t.poison = s.poison ∧ t.unitKey = s.unitKey

end Sys2Proof.Machine
end

