-- ==== Sys2Proof/Safety/Access.lean ====
section
/-! DEFINITION. What a slot's memory instruction accesses, and when nothing holds it back (R46, R93 to R105), for the
statements. -/

namespace Sys2Proof.Machine

/-- Nothing of the slot's is in flight and no acquire or release fence of it is outstanding (R100, R104, R105). -/
def Quiet (s : State) : Prop :=
  s.own s.cur.1 s.cur.2 = [] ∧ s.here.acqs = [] ∧ s.here.rels = [] ∧ s.jobsIn s.cur.1 s.cur.2 = fun _ => []

/-- Bytes of an access: 2^fn[1:0], 8 for the compact words (R46, R96). -/
def widthIn (i : Instr) : Nat :=
  match i with
  | .ldDCompact _ | .stDCompact _ => 8
  | _ => 2 ^ ((opndOfInstr i).fn.toNat % 4)

/-- The address of an access: A + B, or for the compact words A + imm5 x 8 (R46, R97). -/
def vaOf (i : Instr) (v : Vals) : Word :=
  match i with
  | .ldDCompact k | .stDCompact k => v.a + BitVec.ofNat 64 (8 * k.b.toNat)
  | _ => v.a + v.b

/-- The value that a store writes: operand C, or for the compact word x[d] (R46, R97). -/
def storeVal (i : Instr) (v : Vals) : Word :=
  match i with
  | .stDCompact _ => v.d
  | _ => v.c

/-- The scratchpad place of an address in the own core: the near window, or the own part of the scratchpad window
(R275). -/
def ownPlace (c : Nat) (a : Word) : Option Nat :=
  if a.toNat < 2 ^ 24 then some a.toNat
  else if 0x10000000000 + c % 512 * 2 ^ 24 ≤ a.toNat ∧ a.toNat < 0x10000000000 + (c % 512 + 1) * 2 ^ 24 then
    some (a.toNat % 2 ^ 24)
  else none

/-- The access of an instruction meets the own scratchpad, aligned, at offset `off`, in a granule that is FREE or the
space's own, with clean words (R93, R95, R98, R283). -/
def LocalAccess (i : Instr) (t : State) (v : Vals) (off : Nat) : Prop :=
  ownPlace t.cur.1 (vaOf i v) = some off ∧ (vaOf i v).toNat % widthIn i = 0 ∧
    t.mayPad t.here.space (.pad t.cur.1 off) = true

/-- The bytes of the access hold no poisoned word. -/
def CleanBytes (i : Instr) (t : State) (off : Nat) : Prop := t.tagOf (keyOf (.pad t.cur.1 off)) (widthIn i) = 0

/-- The number in the bytes of the access, lowest byte first (R3). -/
def oldNum (i : Instr) (t : State) (off : Nat) : Nat :=
  numOf ((List.range (widthIn i)).map (fun k => cellGet t.mem (keyOf (.pad t.cur.1 off) + k)))

/-- A number of `n` bytes extended to 64 bits: by sign under `.s`, else by zeros (R96). -/
def extendedTo (n : Nat) (sgn : Bool) (x : Nat) : Word := if sgn then BitVec.ofInt 64 (Int.bmod x (2 ^ (8 * n))) else BitVec.ofNat 64 x

/-- The instruction extends its value by sign: fn[2] of the longer forms (R96). -/
def signed (i : Instr) : Bool :=
  match i with
  | .ldDCompact _ => false
  | _ => bitN (opndOfInstr i).fn.toNat 2

/-- The integer operations of an atomic on W bits: sum, and, or, xor, signed and unsigned minimum and maximum,
exchange (R54, R97). -/
def atomicRule (op W old b : Nat) : Option Nat :=
  match op with
  | 0 => some ((old + b) % 2 ^ W)
  | 1 => some (old &&& b)
  | 2 => some (old ||| b)
  | 3 => some (old ^^^ b)
  | 4 => some (if Int.bmod b (2 ^ W) < Int.bmod old (2 ^ W) then b else old)
  | 5 => some (if Int.bmod old (2 ^ W) < Int.bmod b (2 ^ W) then b else old)
  | 6 => some (if b < old then b else old)
  | 7 => some (if old < b then b else old)
  | 8 => some b
  | 9 => some (fAdd fp32 .rne old b).1
  | 10 => some (fAdd fp64 .rne old b).1
  | _ => none

/-- What a storing instruction leaves in its bytes (R97). -/
def newNum (i : Instr) (v : Vals) (old : Nat) : Option Nat :=
  let n := widthIn i
  let b := (storeVal i v).toNat % 2 ^ (8 * n)
  match i with
  | .st _ | .stDCompact _ => some b
  | .amo o | .amon o => atomicRule (o.fn.toNat / 2 ^ 7 % 16) (8 * n) old b
  | .cas _ => some (if old = v.d.toNat % 2 ^ (8 * n) then b else old)
  | _ => none

/-- The memory of `u` is that of `t` with `n` bytes at key `a` holding the number `x`; every other byte reads as before. -/
def StoredAt (t u : State) (a n x : Nat) : Prop :=
  ∀ k, cellGet u.mem k = if a ≤ k ∧ k < a + n then BitVec.ofNat 8 (x / 2 ^ (8 * (k - a))) else cellGet t.mem k

/-- Apart from memory, its poison marks and the owner of the granule, `u` is `t`. -/
def SameButMemory (t u : State) : Prop := { u with mem := [], poison := [], owner := [] } = { t with mem := [], poison := [], owner := [] }

/-- `u` is `t` with one more access on its way, of the current slot, and its arrival due; memory is as before (R101). -/
def Sent (t u : State) (a : Access) : Prop :=
  u.net = t.net ++ [a] ∧ a.id = t.nextId ∧ u.nextId = t.nextId + 1 ∧ u.agenda = t.agenda ++ [.event (.arrive a.id)] ∧
    a.core = t.cur.1 ∧ a.slot = t.cur.2 ∧ a.stage = .sent ∧ a.space = t.here.space ∧ SameMemory t u

/-- The current slot is out of rotation until that access is answered (R101 step 2). -/
def Awaits (u : State) (a : Access) : Prop := u.here.run = .out [.access a.id]

/-- An aligned address of the translated region that a cached translation, readable and writable, takes to device
memory of the own device (R93, R278). -/
def RemoteDram (i : Instr) (t : State) (v : Vals) (e : Tlb) (pa : Nat) : Prop :=
  (vaOf i v).toNat % widthIn i = 0 ∧ areaOf (vaOf i v).toNat = .xlat ∧
    t.look t.cur.1 t.here.space (vaOf i v).toNat = .hit e ∧ e.r = true ∧ e.w = true ∧
    leafLoc (t.cur.1 / 512) e (vaOf i v).toNat = .dram (t.cur.1 / 512) pa

end Sys2Proof.Machine
end

