-- ==== Sys2Proof/Safety/Control.lean ====
section
/-! DEFINITION. Control registers as R32, R33, R90, R129, R132, R191 and R262 lay them out, and the full/empty tests
of R89, for the statements to compare with. -/

namespace Sys2Proof.Machine

/-- What a slot reads from a control register (R32, R33, R90); %qflags holds every raise of more than 32 cycles ago (R155), and
%core has no panel and device before stage 5 of bring-up is over (R340). -/
def ctlRule (s : State) (c n num : Nat) : Option Nat :=
  let sl := s.slot c n
  let k := s.core c
  match num with
  | 0x000 => some (sl.preds.toNat / 2 ^ 8 % 8)
  | 0x001 => some (sl.trapEn.toNat * 2 ^ 8 + sl.preds.toNat / 2 ^ 11 % 2 ^ 5)
  | 0x002 => some sl.tvec.toNat
  | 0x003 => some sl.tcause.toNat
  | 0x004 => some sl.tepc.toNat
  | 0x005 => some sl.tval.toNat
  | 0x007 => some sl.vshape.toNat
  | 0x008 => some (if sl.paired then n - n % 2 else n)
  | 0x009 => some ((sl.vbase * 2 ^ 40 + sl.vcount * 2 ^ 32 + sl.sbase * 2 ^ 16 + sl.scount) % 2 ^ 64)
  | 0x00A => some (if sl.hmode then 1 else 0)
  | 0x00B => some sl.taskw.toNat
  | 0x00C => some ((if (s.dv (c / 512)).onPanel = true ∧ (s.dv (c / 512)).stage = 6 then Config.panel.toNat * 2 ^ 15 + c else c % 512) % 2 ^ 64)
  | 0x00D => some (s.now c % 2 ^ 64)
  | 0x00E => some sl.savearea.toNat
  | 0x110 => some ((((s.dv (c / 512)).raises.filter (fun r => decide (r.1 = c % 512 / 32) && decide (r.2.2 + 32 < s.now c))).map
      (fun r => r.2.1)).foldl (· ||| ·) (tabGet 0 (s.dv (c / 512)).qflags (c % 512 / 32))).toNat
  | 0x111 => some (k.traceSeq.toNat * 2 ^ 32 + (if k.traceWrap then 2 else 0) + (if k.traceEn then 1 else 0))
  | 0x112 => some (((k.port 160).length + (k.port 161).length * 2 ^ 8 + (k.port 162).length * 2 ^ 16
      + (k.port 163).length * 2 ^ 24) % 2 ^ 64)
  | 0x300 => some (sl.space % 2048)
  | _ => none

/-- The slot after a plain control-register write; none where the value is reserved (R19, R32). -/
def ctlStore (num : Nat) (a : Word) (sl : Slot) : Option Slot :=
  match num with
  | 0x000 => if 4 ≤ a.toNat % 8 then none else some { sl with preds := putBits sl.preds 8 3 (a.toNat % 8) }
  | 0x001 => some { sl with preds := putBits sl.preds 11 5 (a.toNat % 32), trapEn := BitVec.ofNat 5 (a.toNat / 2 ^ 8) }
  | 0x002 => some { sl with tvec := BitVec.ofNat 64 (a.toNat / 4 * 4) }
  | 0x003 => some { sl with tcause := BitVec.ofNat 64 (a.toNat % 2 ^ 16) }
  | 0x004 => some { sl with tepc := BitVec.ofNat 64 (a.toNat / 4 * 4) }
  | 0x005 => some { sl with tval := a }
  | 0x00B => some { sl with taskw := BitVec.ofNat 64 (a.toNat / 2 ^ 56 * 2 ^ 56 + sl.taskw.toNat % 2 ^ 56) }
  | 0x00E => some { sl with savearea := BitVec.ofNat 64 (a.toNat % 2 ^ 56 / 2 ^ 12 * 2 ^ 12) }
  | _ => none

/-- What `fetest` finds (R89): full, or with fn[1] poisoned; of a port, that a pop would find a filled entry. -/
def testRule (s : State) (c n : Nat) (o : Opnd) : Bool :=
  let sl := s.slot c n
  let a := o.a.toNat
  match o.fn.toNat with
  | 1 => ((s.core (vecAt s c n a).1).vreg (vecAt s c n a).2).full
  | 2 => if a < 128 then ((s.core c).entry (sl.sbase + a)).poison
    else decide (a ≠ 145) && decide (0 < (s.core c).avail n a) && ((s.core c).front n a).poison
  | _ => if a < 128 then ((s.core c).entry (sl.sbase + a)).full else decide (a = 145) || decide (0 < (s.core c).avail n a)

end Sys2Proof.Machine
end

