-- ==== Sys2Proof/Safety/Fleet.lean ====
section
/-! DEFINITION. What seats and stops tasks, and what a command of the host leaves, for the statements (R117, R301,
R332 to R334). -/

namespace Sys2Proof.Machine

/-- No task that stands before `t` in the order of placement could be seated now (R301). -/
def FirstInTurn (s : State) (d t : Nat) : Prop :=
  ∀ p ∈ (s.ranked d).takeWhile (fun p => p.1 != t), s.seatable d p.1 p.2 = false

/-- The slot is out of rotation to be spilled, for the reason given, and its spill is due (R117). -/
def StoppedFor (u : State) (c n : Nat) (why : SpillWhy) : Prop :=
  (u.slot c n).spill = some why ∧ (u.slot c n).run = .out [.spilled] ∧ .event (.spill c n) ∈ u.agenda

/-- The task has a seat in the slot and waits for none (R211). -/
def SeatedAt (u : State) (d t : Nat) (q : Seat) : Prop :=
  ∃ r, u.taskRec d t = some r ∧ r.st = .seated ∧ r.core = q.core ∧ r.slot = q.slot ∧ t ∉ (u.dv d).arrivals

/-- The state in which a spill leaves a task (R113, R117, R304, R358). -/
def awayState : SpillWhy → TaskSt
  | .trap | .watchdog => .parked
  | .checkpoint => .quiesced
  | _ => .spilled

/-- The steps that serve the commands, by CMD x 4 and the variant that an argument names (R334). -/
def commandSteps : List (Nat × Instr) :=
  [(4, .identify), (8, .attest), (12, .loadFirmware), (16, .map), (17, .mapDeferred), (18, .mapAperture), (20, .keySet),
   (24, .graphLoad), (28, .graphUnload), (32, .nodeResumeContinue), (33, .nodeResumeRerun), (36, .resetScope),
   (40, .errorLogRead), (44, .watchConfig), (48, .linkStatus), (52, .checkpointQuiesce), (53, .checkpointRelease),
   (54, .checkpointAdopt)]

/-- The mailbox holds a command with a good header, and BUSY is set (R332, R333). -/
def Commanded (s : State) (code : Nat) : Prop :=
  let v := s.dv s.dev
  v.busy = true ∧ v.command = some code ∧ v.stage = 6 ∧ v.cmdw 0 / 2 ^ 24 % 2 ^ 8 = 0

/-- Argument dword `i` of the command (R333). -/
def State.arg (s : State) (i : Nat) : Nat := (s.dv s.dev).cmdw i

/-- The command is answered: STATUS in dword 0 [31:0], the results behind it, BUSY off, DONE on, vector 0 signalled once
(R332, R333). -/
def Responded (s u : State) (status : Nat) (res : List Nat) : Prop :=
  let v := s.dv s.dev
  let x := u.dv s.dev
  x.busy = false ∧ x.done = true ∧ x.pending = none ∧ x.cmdw 0 = v.cmdw 0 / 2 ^ 32 * 2 ^ 32 + status ∧
    (∀ i, i < 511 → x.cmdw (i + 1) = if i < res.length then nth 0 res i % 2 ^ 64 else v.cmdw (i + 1)) ∧
    tabGet 0 x.msixCount 0 = tabGet 0 v.msixCount 0 + 1

/-- The step answers the command with a status and results, and leaves memory alone. -/
def Answers (i : Instr) (s : State) (status : Nat) (res : List Nat) : Prop :=
  ∃ u : State, exec i s = .next u ∧ Responded s u status res ∧ SameMemory s u

/-- A table entry at index `i` of the table at `tab` that names the table at `next` (R277, R279). -/
def TableEntry (s : State) (d tab i next : Nat) : Prop :=
  let (w0, w1, tag) := s.pte d (tab + 16 * i)
  w0 / 2 ^ 62 = 2 ∧ w0 / 2 ^ 56 % 2 ^ 6 = 0 ∧ w0 % 2 ^ 4 = 0 ∧ w1 = 0 ∧ tag = 0 ∧ next = w0 % 2 ^ 56 ∧ next < dramSize

/-- The three table entries above the leaf of a 64 KiB page of a space, and the place of the leaf (R277). -/
def TablesTo (s : State) (d space va leaf : Nat) : Prop :=
  ∃ t0 t1 t2 t3, tabFind (s.dv d).roots space = some t0 ∧ t0 % 16 = 0 ∧ TableEntry s d t0 (va / 2 ^ 44 % 2 ^ 12) t1 ∧
    TableEntry s d t1 (va / 2 ^ 30 % 2 ^ 14) t2 ∧ TableEntry s d t2 (va / 2 ^ 21 % 2 ^ 9) t3 ∧
    leaf = t3 + 16 * (va / 2 ^ 16 % 2 ^ 5) ∧
    (∀ p ∈ [t0 + 16 * (va / 2 ^ 44 % 2 ^ 12), t1 + 16 * (va / 2 ^ 30 % 2 ^ 14), t2 + 16 * (va / 2 ^ 21 % 2 ^ 9)],
      p + 16 ≤ leaf ∨ leaf + 16 ≤ p)

/-- The header of a graph image, in dwords, and the image's length break R291 or R293. -/
def HeaderBad (h : List Nat) (len : Nat) : Prop :=
  let w (i : Nat) : Nat := nth 0 h i
  let n := w 0 / 2 ^ 32 % 2 ^ 13
  w 0 % 2 ^ 11 = 0 ∨ w 0 / 2 ^ 11 % 2 ^ 21 ≠ 0 ∨ n = 0 ∨ 4096 < n ∨ len < 64 + 320 * n ∨ w 0 / 2 ^ 45 ≠ 0 ∨ w 1 % 64 ≠ 0 ∨
    w 2 % 4096 ≠ 0 ∨ w 3 % 4096 ≠ 0 ∨ (w 3 = 0 ∧ w 4 ≠ 0) ∨ (w 3 ≠ 0 ∧ w 4 = 0) ∨ 262144 < w 4 ∨ w 5 ≠ 0 ∨ w 6 ≠ 0 ∨ w 7 ≠ 0

/-- The record of a node that is not LEVEL, in dwords, breaks R292, R293, R216 or R228 in a field of its own. -/
def RecordBad (ws : List Nat) : Prop :=
  let w (i : Nat) : Nat := nth 0 ws i
  let f (lo len : Nat) : Nat := w 0 / 2 ^ lo % 2 ^ len
  f 0 17 ≠ 0 ∨ (f 17 1 = 1 ∧ f 62 2 ≠ 0) ∨ 32 < f 18 6 ∨ f 18 6 % 4 ≠ 0 ∨ f 24 8 < 8 ∨ 128 < f 24 8 ∨ f 24 8 % 8 ≠ 0 ∨
    (f 53 2 = 1 ∧ 23 < f 41 5) ∨ f 49 1 = 1 ∨ (f 50 1 = 1 ∧ (f 62 2 ≠ 0 ∨ w 2 % 2 ^ 32 % 4 ≠ 0 ∨ f 55 3 = 0)) ∨
    (f 52 1 = 1 ∧ (f 18 6 ≠ 0 ∨ f 60 2 ≠ 0 ∨ f 50 1 = 1)) ∨ 2 ≤ f 53 2 ∨ 4 < f 55 3 ∨ f 60 2 = 3 ∨ f 62 2 = 3 ∨
    w 1 % 4 ≠ 0 ∨ w 1 / 2 ^ 56 ≠ 0 ∨ 2 ^ 24 < w 2 ∨ (f 62 2 = 1 ∧ w 4 / 2 ^ 32 = 0) ∨ (f 62 2 ≠ 1 ∧ w 4 / 2 ^ 32 ≠ 0) ∨
    (∃ i, 5 ≤ i ∧ i < 16 ∧ w i ≠ 0)

/-- An aperture of BAR 2 leads from offset `off` to the byte at `pa` of the own device's memory, in a space whose tables, but
for space 0, translate the address and allow the access (R275, R327). -/
def ApertureAt (s : State) (d off : Nat) (write : Bool) (space pa : Nat) : Prop :=
  ∃ base, tabFind (s.dv d).apertures (off / 2 ^ 21) = some (space, base) ∧
    (let a := base + off % 2 ^ 21
     (space = 0 ∧ a < 0x3000000000 ∧ pa = a) ∨
     (space ≠ 0 ∧ ∃ va e, (areaOf a = .xlat ∧ va = a ∨ areaOf a = .panel d va) ∧ s.walk d space va = .leaf e ∧ e.tgt = 0 ∧
       (if write then e.w else e.r) = true ∧ pa = e.frame + va % e.size))

/-- An access of the host fails: the last record that it logs, after that of a page-table entry read poisoned where its walk
met one, is of class HOST (R279, R327). -/
def HostFails (s u : State) (d : Nat) : Prop :=
  ((u.dv d).logSeq = (s.dv d).logSeq + 1 ∨ (u.dv d).logSeq = (s.dv d).logSeq + 2) ∧
    ((u.dv d).record (((u.dv d).logSeq - 1).toNat % 256)).cls = 7

/-- A posted write has been taken off its requester's queue, and the oldest that waited for credits follows (R328). -/
def TookPost (s u : State) (d r : Nat) : Prop :=
  (u.dv d).queue r = ((s.dv d).queue r).tail ++ ((s.dv d).waitingPosts r).take 1

/-- What a read of a dword of BAR 0 gives, by the map of R325 and the layouts of R326, R330, R332 and R338; the pending bits
of the vectors, at 0x7000, are below 16. -/
def Bar0Reads (v : Dev) (off x : Nat) : Prop :=
  (∀ p ∈ [(0, v.stage % 2 ^ 4 + (if v.stage = 15 then v.failcode % 2 ^ 8 * 2 ^ 8 else 0) + (if v.romonly then 2 ^ 17 else 0)),
      (0x8, v.logSeq.toNat), (0x1080, v.trig.length),
      (0x3008, (if v.overrun then 4 else 0) + (if v.done then 2 else 0) + (if v.busy then 1 else 0)),
      (0x4000, v.plimit), (0x4008, v.power % 2 ^ 16 * 2 ^ 32 + v.clock), (0x4010, v.pevtn.toNat)], off = p.1 → x = p.2 % 2 ^ 64) ∧
  (∀ i, i < 512 → off = 0x2000 + 8 * i → x = v.cmdw i) ∧
  (∀ i, i < 256 → off = 0x5000 + 8 * i → x = (tabGet 0 v.pevt i).toNat) ∧
  (∀ i, i < 8 → off = 0x6000 + 8 * i → x = (tabGet 0 v.msix i).toNat) ∧
  (off = 0x7000 → x < 16) ∧
  (∀ i, i < 4096 →
    let w := tabGet {} v.wtab i
    (off = 0x10000 + 16 * i → x = ((if w.en then 2 ^ 63 else 0) + w.space * 2 ^ 48 + w.pa / 8 * 8) % 2 ^ 64) ∧
      (off = 0x10008 + 16 * i → x = w.line.toNat / 64 * 64)) ∧
  (off ∉ [0, 0x8, 0x1080, 0x3008, 0x4000, 0x4008, 0x4010, 0x7000] → ¬ (0x2000 ≤ off ∧ off < 0x3000) → ¬ (0x5000 ≤ off ∧ off < 0x5800) →
    ¬ (0x6000 ≤ off ∧ off < 0x6040) → ¬ (0x10000 ≤ off ∧ off < 0x20000) → x = 0)

/-- A save area lies within one page of 64 KiB of device memory that its space may read and write, outside the entries of the
page tables on the way to it, and the page holds data of no other key (R117, R118, R277, R286). -/
def AreaIn (s : State) (d space area : Nat) (e : Tlb) : Prop :=
  areaOf area = .xlat ∧ area % 65536 + 0x5000 ≤ 65536 ∧ s.walk d space area = .leaf e ∧ e.size = 65536 ∧ e.tgt = 0 ∧
    e.r = true ∧ e.w = true ∧ e.frame % 65536 = 0 ∧
    (∃ t0 t1 t2 t3, tabFind (s.dv d).roots space = some t0 ∧ t0 % 16 = 0 ∧ TableEntry s d (t0) (area / 2 ^ 44 % 2 ^ 12) t1 ∧
      TableEntry s d t1 (area / 2 ^ 30 % 2 ^ 14) t2 ∧ TableEntry s d t2 (area / 2 ^ 21 % 2 ^ 9) t3 ∧
      ∀ p ∈ [t0 + 16 * (area / 2 ^ 44 % 2 ^ 12), t1 + 16 * (area / 2 ^ 30 % 2 ^ 14), t2 + 16 * (area / 2 ^ 21 % 2 ^ 9),
        t3 + 16 * (area / 2 ^ 16 % 2 ^ 5)], p + 16 ≤ e.frame ∨ e.frame + 65536 ≤ p) ∧
    (∀ u, (d * 2 ^ 48 + e.frame) / 64 ≤ u → u < (d * 2 ^ 48 + e.frame + 65536) / 64 →
      tabGet 0 s.unitKey u = 0 ∨ tabGet 0 s.unitKey u = s.keyId d space)

/-- The save area at `base` of device memory holds the state of slot `n` of core `c` as it was in `t` (R118): its words, its
message queue, its scalar registers with their metadata, and its vector registers with their full bits. -/
def AreaHolds (t u : State) (c n base : Nat) : Prop :=
  let k := t.core c
  let sl := t.slot c n
  let num (off w : Nat) : Nat := u.readNum sl.space (.dram (c / 512) (base + off)) w
  let bound := k.boundClaims n sl.sbase
  (∀ p ∈ [(0x00, sl.pc.toNat), (0x08, sl.preds.toNat % 2 ^ 16 / 2 * 2 + 1), (0x10, sl.trapEn.toNat * 2 ^ 8 + sl.preds.toNat / 2 ^ 11 % 2 ^ 5),
      (0x18, sl.tvec.toNat), (0x20, sl.tcause.toNat), (0x28, sl.tepc.toNat), (0x30, sl.tval.toNat), (0x38, sl.timer.toNat),
      (0x40, sl.vshape.toNat), (0x48, if sl.hmode then 1 else 0), (0x50, sl.taskw.toNat),
      (0x58, sl.vbase * 2 ^ 40 + sl.vcount * 2 ^ 32 + sl.sbase * 2 ^ 16 + sl.scount),
      (0x60, sl.booked * 2 ^ 16 + bound.length * 2 ^ 8 + sl.msgs.length), (0x68, 1), (0x70, 0), (0x78, 0)], num p.1 8 = p.2 % 2 ^ 64) ∧
  (∀ i, i < sl.msgs.length → num (0x80 + 8 * i) 8 = (nth ⟨0, false⟩ sl.msgs i).word.toNat) ∧
  (∀ i, i < bound.length → num (0x100 + 8 * i) 8 = ((nth (0, 0) bound i).1 + (nth (0, 0) bound i).2 * 2 ^ 8) % 2 ^ 64) ∧
  (∀ i, i < sl.scount →
    let e := k.entry (sl.sbase + i)
    num (0x500 + 8 * i) 8 = e.val.toNat ∧
      num (0x900 + 2 * i) 2 = (if e.full then 2 ^ 15 else 0) + (if e.poison then 2 ^ 14 else 0) +
        (if bound.any (fun q => q.2 == i) then 2 ^ 13 else 0) + e.tag.toNat) ∧
  (∀ i, i < sl.vcount → (num 0xA00 8).testBit i = (k.vreg (sl.vbase + i)).full ∧
    num (0x1000 + 512 * i) 512 = (k.vreg (sl.vbase + i)).val.toNat)

/-- No unit of device memory holds data of another key than that of a space (R286). -/
def OneKey (s : State) (d space : Nat) : Prop := ∀ u, tabGet 0 s.unitKey u = 0 ∨ tabGet 0 s.unitKey u = s.keyId d space

end Sys2Proof.Machine
end

