-- ==== Sys2Proof/Safety/Front.lean ====
section
/-! DEFINITION. The checks before an instruction's own effect as R16, R22, R24, R57 and R69 say them for register
operands, for the statements to compare with. -/

namespace Sys2Proof.Machine

/-- The operand fields of an instruction in the order a, b, c, d (R57). -/
def fieldsOf (i : Instr) : List Fld := fields (descOf i) (opndOfInstr i)

/-- The scalar-file entry that a register field names. -/
def State.fieldEntry (s : State) (f : Fld) : Entry := (s.core s.cur.1).entry (s.here.sbase + f.spec)

/-- The instruction's operands are scalar registers, `zero`, predicates or a literal: no port, vector register, tile
or accumulator. -/
def RegisterForm (i : Instr) : Prop :=
  ∀ f ∈ fieldsOf i, (f.kind.scalar = true ∧ (f.spec < 128 ∨ f.spec = 145)) ∨ f.kind = .none ∨ f.kind = .psrc ∨ f.kind = .pdst

/-- A register field lies in the slot's window (R16). -/
def InWindow (s : State) (f : Fld) : Prop := f.kind.scalar = true → f.spec < 128 → f.spec < s.here.scount

/-- A source register is full (R22). -/
def FullSource (s : State) (f : Fld) : Prop := f.kind.reads = true → f.spec < 128 → (s.fieldEntry f).full = true

/-- A source register is not poisoned (R24). -/
def CleanSource (s : State) (f : Fld) : Prop := f.kind.reads = true → f.spec < 128 → (s.fieldEntry f).poison = false

/-- The destination register has no producer outstanding (R23). -/
def FreeDest (i : Instr) (s : State) : Prop :=
  (descOf i).d ∈ [Kind.dst, .dreg, .dregz, .rwreg] → (opndOfInstr i).d.toNat < 128 →
    ((s.core s.cur.1).entry (s.here.sbase + (opndOfInstr i).d.toNat)).pend = false

/-- The slot may run the instruction (R34, R91, R125, R191, R215, R228, R255, R311). -/
def RoleHeld (i : Instr) (s : State) : Prop :=
  match (descOf i).role with
  | .any => True
  | .handlerMode => s.here.hmode = true
  | .matrix => s.here.matrix = true
  | .haulage => s.here.haulage = true ∧ s.cur.2 = 63
  | .gang => s.here.gang = true
  | .level => s.here.level = true
  | .task => s.cur.2 ≠ 62

/-- The slot is in rotation or out of it, of no pair, and the instruction's guard holds (R30). -/
def Executes (i : Instr) (s : State) : Prop :=
  ofSlot i = true ∧ s.here.live = true ∧ s.here.paired = false ∧ guardOk s.here (opndOfInstr i).g (opndOfInstr i).gn = true

/-- With operands `a` and `b`, a default access leaves the core: its address is another core's scratchpad or a translated
one, or it names another core; some accesses are never local, and a vector access is judged by its element 0 (R94, R95, R125,
R184, R275; assumption log 50). -/
def LeavesCore (i : Instr) (c : Nat) (a b : Word) : Prop :=
  match (descOf i).far with
  | .none => False
  | .addr => leaves c a = true
  | .sum => leaves c (a + b) = true
  | .disp => leaves c (a + BitVec.ofNat 64 (8 * ((opndOfInstr i).b.toNat % 32))) = true
  | .index => ∃ l, (opndOfInstr i).lit = some l ∧ leaves c (a + litOffset (opndOfInstr i).fn.toNat l) = true
  | .name => coreOf a ≠ c
  | .always => True

/-- A user handler's access stays on its core, or is relaxed, or what would tell cannot be read yet; an access that is never
local has nothing to read (R125). -/
def StaysHome (i : Instr) (s : State) (a b : Word) : Prop :=
  s.cur.2 = 62 → (opndOfInstr i).rlx = false →
    (descOf i).far ≠ .always ∧ ((∀ f ∈ (fieldsOf i).take (descOf i).far.fields, InWindow s f ∧ FullSource s f) → ¬ LeavesCore i s.cur.1 a b)

/-- The value of a register field: the entry's, 0 for `zero` and where nothing is read (R69). -/
def State.fieldVal (s : State) (f : Fld) : Word := if f.kind.reads = true ∧ f.spec < 128 then (s.fieldEntry f).val else 0

/-- Field `n` of an instruction in the order a, b, c, d. -/
def fieldAt (i : Instr) (n : Nat) : Fld := nth ⟨0, .none, 0, false⟩ (fieldsOf i) n

/-- Operand b: the literal where there is one (R41). -/
def State.operandB (s : State) (i : Instr) : Word :=
  match (opndOfInstr i).lit with
  | some l => litWord (descOf i).lit (opndOfInstr i).fn.toNat l
  | none => s.fieldVal (fieldAt i 1)

/-- A user handler's access of registers stays on its core (R125). -/
def AtHome (i : Instr) (s : State) : Prop := StaysHome i s (s.fieldVal (fieldAt i 0)) (s.operandB i)

/-- The lowest provenance tag among the poisoned source registers, if there is one (R24). -/
def State.lowestTag (s : State) (i : Instr) : Option Nat :=
  (((fieldsOf i).filter (fun f => f.kind.reads && decide (f.spec < 128) && (s.fieldEntry f).poison)).map
    (fun f => (s.fieldEntry f).tag.toNat)).min?

/-- The trap value that names an operand field: its number and its specifier (R55). -/
def fieldCode (f : Fld) : Word := BitVec.ofNat 64 (f.num * 256 + f.spec)

end Sys2Proof.Machine
end

