-- ==== Sys2Proof/Safety/Scalar.lean ====
section
/-! DEFINITION. The results of the scalar instructions as the tables of R71, R72, R82 to R87 give them: computed on
exact integers, for the statements to compare with. -/

namespace Sys2Proof.Machine

/-! ### Integers (R70 to R73) -/

/-- An operand on W bits: unsigned under `.u`, else two's complement (R70). -/
def intOf (W : Nat) (u : Bool) (x : Word) : Int := if u then ((x.toNat % 2 ^ W : Nat) : Int) else Int.bmod x.toNat (2 ^ W)

/-- SignExtend(v[W-1:0]) of an exact integer (R70). -/
def sxOf (W : Nat) (r : Int) : Word := BitVec.ofInt 64 (Int.bmod r (2 ^ W))

/-- W of an instruction: 32 under `.w` (R70). -/
def widthOf (o : Opnd) : Nat := if bitN o.fn.toNat 0 then 32 else 64

/-- The instruction is unsigned (R70). -/
def unsOf (o : Opnd) : Bool := bitN o.fn.toNat 1

/-- Arithmetic results of R71 on exact integers; none for a zero divisor and for other instructions. -/
def intArith (i : Instr) (W : Nat) (A B C : Int) : Option Int :=
  match i with
  | .add _ | .addCompact _ => some (A + B)
  | .sub _ | .subCompact _ => some (A - B)
  | .mul _ | .mulCompact _ => some (A * B)
  | .mulh _ | .mulhCompact _ => some (A * B / 2 ^ W)
  | .div _ | .divCompact _ => if B = 0 then none else some (A.tdiv B)
  | .rem _ | .remCompact _ => if B = 0 then none else some (A - B * A.tdiv B)
  | .min _ | .minCompact _ => some (if A ≤ B then A else B)
  | .max _ | .maxCompact _ => some (if A ≤ B then B else A)
  | .mov _ | .movCompact _ => some B
  | .madd _ => some (A * B + C)
  | .adds o => some (if unsOf o then min (A + B) (2 ^ W - 1) else max (-(2 ^ (W - 1))) (min (A + B) (2 ^ (W - 1) - 1)))
  | _ => none

/-- Results of R71 on the bits of the low W bits of A, B and C. -/
def intBits (i : Instr) (W : Nat) (a b c : Nat) : Option Int :=
  let s := b % W
  let len (o : Opnd) : Nat := fld o.fn.toNat 6 8
  match i with
  | .and _ | .andCompact _ => some (a &&& b : Nat)
  | .or _ | .orCompact _ => some (a ||| b : Nat)
  | .xor _ | .xorCompact _ => some (a ^^^ b : Nat)
  | .andn _ | .andnCompact _ => some (a &&& (2 ^ W - 1 - b) : Nat)
  | .shl _ | .shlCompact _ => some (a * 2 ^ s : Nat)
  | .shr _ | .shrCompact _ => some (a / 2 ^ s : Nat)
  | .sra _ | .sraCompact _ => some (Int.bmod a (2 ^ W) / 2 ^ s)
  | .rot _ | .rotCompact _ => some (a / 2 ^ s + a * 2 ^ (W - s) : Nat)
  | .clz _ | .clzCompact _ => some (((List.range W).takeWhile (fun k => !a.testBit (W - 1 - k))).length : Nat)
  | .ctz _ | .ctzCompact _ => some (((List.range W).takeWhile (fun k => !a.testBit k)).length : Nat)
  | .popc _ | .popcCompact _ => some (((List.range W).filter (fun k => a.testBit k)).length : Nat)
  | .bfx o => some (if unsOf o then (a / 2 ^ s % 2 ^ len o : Nat) else Int.bmod (a / 2 ^ s % 2 ^ len o : Nat) (2 ^ len o))
  | .bfi o => some (a - (a / 2 ^ s % 2 ^ len o : Nat) * 2 ^ s + (c % 2 ^ len o : Nat) * 2 ^ s)
  | _ => none

/-- The 64-bit results of `sel`, `lea`, `ext` and `addi` (R45, R71). -/
def intWhole (i : Instr) (p : Nat → Bool) (a b : Word) : Option Word :=
  match i with
  | .sel o => some (if p (fld o.fn.toNat 2 3) != bitN o.fn.toNat 5 then a else b)
  | .selCompact k => some (if p (k.fn5.toNat / 4) then a else b)
  | .lea o => some (BitVec.ofNat 64 (a.toNat + b.toNat * 2 ^ fld o.fn.toNat 6 8))
  | .ext o =>
    let n := 8 * 2 ^ fld o.fn.toNat 2 2
    some (if unsOf o then BitVec.ofNat 64 (a.toNat % 2 ^ n) else BitVec.ofInt 64 (Int.bmod a.toNat (2 ^ n)))
  | .addi k => some (BitVec.ofInt 64 (a.toNat + k.b.toInt))
  | _ => none

/-- The conditions of `cmp` (R72). -/
def cmpCond (cond : Nat) (A B : Int) (a b : Nat) : Prop :=
  match cond with
  | 0 => A = B
  | 1 => A ≠ B
  | 2 => A < B
  | 3 => A ≥ B
  | 4 => A ≤ B
  | 5 => A > B
  | 6 => a &&& b ≠ 0
  | 7 => a &&& b = 0
  | _ => False

/-! ### Floating point (R74 to R81) -/

/-- An operand of a format: the low bits of its register (R74). -/
def lowOf (f : Fmt) (x : Word) : Nat := x.toNat % 2 ^ f.width

/-- Pattern or value written, and the IEEE flags raised, of the float instructions that write `d` (R76 to R81), in
rounding mode `rm`. -/
def floatRule (i : Instr) (rm : RMode) (v : Vals) : Option (Word × Flags) :=
  let fn := (opndOfInstr i).fn.toNat
  let f := fmtOf (fld fn 0 2)
  let a := lowOf f v.a
  let b := lowOf f v.b
  let c := lowOf f v.c
  let out (r : Nat × Flags) : Option (Word × Flags) := some (BitVec.ofNat 64 r.1, r.2)
  match i with
  | .fadd _ => out (fAdd f rm a b)
  | .fsub _ => out (fSub f rm a b)
  | .fmul _ => out (fMul f rm a b)
  | .fma _ => out (fFma f rm (bitN fn 5) (bitN fn 6) a b c)
  | .fmin _ => out (fMinMax f false a b)
  | .fmax _ => out (fMinMax f true a b)
  | .fcvt _ => some (fCvt f rm (fld fn 7 4) v.a)
  | .frcp _ => out (fRcp f a)
  | .frsq _ => out (fRsq f a)
  | .frcpr _ => out (fNewton f rm false a b)
  | .frsqr _ => out (fNewton f rm true a b)
  | .fsfn _ => out (fSfn f rm (fld fn 7 4) a)
  | _ => none

/-- The value written by the float instructions that never raise a flag (R76, R77). -/
def floatQuiet (i : Instr) (v : Vals) : Option Word :=
  let fn := (opndOfInstr i).fn.toNat
  let f := fmtOf (fld fn 0 2)
  match i with
  | .fclass _ => some (BitVec.ofNat 64 (fClass f (lowOf f v.a)))
  | .fsgn _ => some (BitVec.ofNat 64 (fSgn f (fld fn 7 4) (lowOf f v.a) (lowOf f v.b)))
  | _ => none

/-- The rational value of a decoded pattern, if it is finite (R141). -/
def FVal.rat : FVal → Option ℚ
  | .fin n m e => some ((if n then -1 else 1) * (m : ℚ) * (2 : ℚ) ^ e)
  | _ => none

/-- The rational value of a finite pattern (R141); of an E4M3 pattern (R142). -/
def Fmt.val (f : Fmt) (x : Nat) : Option ℚ := (fdecode f x).rat
def e4m3Val (x : Nat) : Option ℚ := (decodeE4M3 x).rat

/-- Among the patterns that `val` gives values, `p` is the one that rounding the exact value `q` gives, the exact value
lying within the finite range (R75, R153): nearest with ties to even, toward zero, up or down. -/
def RoundsIn (val : Nat → Option ℚ) (rm : RMode) (q : ℚ) (p : Nat) : Prop :=
  ∃ z, val p = some z ∧
    (let below := z ≤ q ∧ ∀ x y, val x = some y → y ≤ q → y ≤ z
     let above := q ≤ z ∧ ∀ x y, val x = some y → q ≤ y → z ≤ y
     match rm with
     | .rdn => below
     | .rup => above
     | .rtz => if 0 ≤ q then below else above
     | .rne => ∀ x y, val x = some y → |z - q| ≤ |y - q| ∧ (|y - q| = |z - q| → y ≠ z → p % 2 = 0))

/-- A pattern and flags are those of the exact value rounded once: NX says whether rounding changed it. -/
def RoundedOnce (val : Nat → Option ℚ) (rm : RMode) (q : ℚ) (r : Nat × Flags) : Prop :=
  RoundsIn val rm q r.1 ∧ (val r.1 = some q ↔ r.2 &&& flNX = 0)

/-- The value lies within the finite range of the format. -/
def InRange (f : Fmt) (q : ℚ) : Prop := ∃ m, f.val f.maxBits = some m ∧ |q| ≤ m

/-- An exact value rounded to an integer (R78, R153). -/
def roundInt (rm : RMode) (q : ℚ) : Int :=
  match rm with
  | .rdn => ⌊q⌋
  | .rup => ⌈q⌉
  | .rtz => if 0 ≤ q then ⌊q⌋ else ⌈q⌉
  | .rne => if q - ⌊q⌋ < 1 / 2 ∨ (q - ⌊q⌋ = 1 / 2 ∧ ⌊q⌋ % 2 = 0) then ⌊q⌋ else ⌊q⌋ + 1

/-- The range of an integer that `fcvt` converts to (R78). -/
def cvtRange (code : Nat) : Option (Int × Int) :=
  match code with
  | 4 => some (-2 ^ 63, 2 ^ 63 - 1)
  | 5 => some (0, 2 ^ 64 - 1)
  | 6 => some (-2 ^ 31, 2 ^ 31 - 1)
  | 7 => some (0, 2 ^ 32 - 1)
  | _ => none

/-- The integer that `fcvt` converts from (R78). -/
def cvtSource (code : Nat) (w : Word) : Option Int :=
  match code with
  | 8 => some (Int.bmod w.toNat (2 ^ 64))
  | 9 => some w.toNat
  | 10 => some (Int.bmod w.toNat (2 ^ 32))
  | 11 => some ((w.toNat % 2 ^ 32 : Nat) : Int)
  | _ => none

/-- `z` is the positive number `y`, or for `pw` = 2 its square root, truncated to P = min(15, p) significant bits and to
the subnormal grid of the format (R80). -/
def Truncated (f : Fmt) (pw : Nat) (y z : ℚ) : Prop :=
  ∃ (e : ℤ) (k : ℕ), ((2 : ℚ) ^ e) ^ pw ≤ y ∧ y < ((2 : ℚ) ^ (e + 1)) ^ pw ∧
    (let grid := (2 : ℚ) ^ max (e - (min 15 f.prec - 1)) (f.emin - f.mbits)
     z = k * grid ∧ z ^ pw ≤ y ∧ y < (z + grid) ^ pw)

/-- The order of the patterns that are no NaN, −0 below +0 (R76). -/
def ordKey (f : Fmt) (x : Nat) : Int :=
  let m : Int := (x % 2 ^ (f.width - 1) : Nat)
  if x.testBit (f.width - 1) then -m - 1 else m

/-- When `fcmp` of two finite values holds (R77). -/
def fcmpCond (cond : Nat) (x y : ℚ) : Prop :=
  match cond with
  | 0 => x = y
  | 1 => x ≠ y
  | 2 => x < y
  | 3 => x ≤ y
  | 4 => x > y
  | 5 => x ≥ y
  | 6 => False
  | _ => True

/-- The mask of `fclass`, from the sign, the exponent field and the fraction (R77). -/
def classMask (f : Fmt) (x : Nat) : Nat :=
  let s := x.testBit (f.width - 1)
  let ex := x / 2 ^ f.mbits % 2 ^ f.ebits
  let fr := x % 2 ^ f.mbits
  if ex = 2 ^ f.ebits - 1 then
    (if fr = 0 then (if s then 1 else 2 ^ 7) else if fr < 2 ^ (f.mbits - 1) then 2 ^ 8 else 2 ^ 9)
  else if ex = 0 then (if fr = 0 then (if s then 2 ^ 3 else 2 ^ 4) else if s then 2 ^ 2 else 2 ^ 5)
  else if s then 2 else 2 ^ 6

/-! ### Transfers and predicates (R82, R83, R86, R87) -/

/-- Where a taken transfer goes and what it writes to `d` (R42, R47, R82, R83); a target of none falls through.
None where the target is not a multiple of 4, and for other instructions. -/
def transferOf (i : Instr) (pc : BitVec 56) (v : Vals) : Option (Option (BitVec 56) × Option Word) :=
  let words (n : Int) : BitVec 56 := pc + BitVec.ofInt 56 (4 * n)
  let off (o : Opnd) : Int := match o.lit with
    | some l => l.toInt
    | none => o.fn.toInt
  let link : Word := BitVec.ofNat 64 ((pc.toNat + lengthOf i) % 2 ^ 56)
  let far (w : Option Word) : Option (Option (BitVec 56) × Option Word) :=
    if (v.a + v.b).toNat % 4 = 0 then some (some (BitVec.ofNat 56 (v.a + v.b).toNat), w) else none
  match i with
  | .nop _ => some (none, none)
  | .br o => some (some (words (off o)), none)
  | .brCompact k => some (some (words (k.b ++ k.fn5).toInt), none)
  | .jmp _ => far none
  | .call o => some (some (words (off o)), some link)
  | .callr _ => far (some link)
  | .loop o => if 1 < v.a.toNat then some (some (words (-(o.fn.toNat : Int))), some (v.a - 1)) else some (none, some 0)
  | _ => none

/-- The predicate that `plog` and the last form of `pmov` write (R86, R87). -/
def predRule (i : Instr) (p : Nat → Bool) (v : Vals) : Option Bool :=
  match i with
  | .plog o => some (o.fn.toNat.testBit (2 * (p (o.a.toNat % 8)).toNat + (p (o.b.toNat % 8)).toNat))
  | .pmovWritePred _ => some (decide (v.a ≠ 0))
  | _ => none

/-- What the reading forms of `pmov` write to `d`: the predicate word with p0 as 1 and [63:16] zero, or one
predicate (R18, R87). -/
def predRead (i : Instr) (sl : Slot) : Option Word :=
  match i with
  | .pmovReadWord _ => some (BitVec.ofNat 64 (sl.preds.toNat % 2 ^ 16 / 2 * 2 + 1))
  | .pmovReadPred o => some (if sl.pred (o.a.toNat % 8) then 1 else 0)
  | _ => none

end Sys2Proof.Machine
end

