-- ==== Sys2Proof/Safety/Units.lean ====
section
/-! DEFINITION. What the units of a core and the headframe hold and do, for the statements: tasks and boards (R213 to
R215, R311), jobs and streams (R207 to R210, R258), and multicast (R259 to R261). -/

namespace Sys2Proof.Machine

/-- What keeps the current slot's task on its core: vector registers, the matrix role, a pair, a gang, slot 63, a message
or a booking, a live claim, a chain entry (R213, R230, R241). -/
def HeldToCore (s : State) : Prop :=
  0 < s.here.vcount ∨ s.here.matrix = true ∨ s.here.paired = true ∨ s.here.gang = true ∨ s.cur.2 = 63 ∨ s.here.msgs ≠ [] ∨
    0 < s.here.booked ∨
    (∃ p ∈ (s.core s.cur.1).claims, p.2.valid = true ∧ p.2.slot = s.cur.2 ∧ p.2.saved = none) ∨
    (∃ i, i < 16 ∧ ((s.core s.cur.1).chain i).st ≠ .free ∧ ((s.core s.cur.1).chain i).task = s.here.task)

/-- The items that `lvget` reads of block `b` (R311): level, step, target, previous level, index, neighbours, the two
buffers; and of the neighbour recorded at place `n` its level, previous level, index and buffers. -/
def levelItem (nd : GNode) (b n item : Nat) : Option Nat :=
  let x := nth {} nd.board b
  let buffer (p : Nat) : Nat := (nd.bufbase + (2 * b + p) * nd.bufsize) % 2 ^ 64
  match item with
  | 0 => some x.level.toNat
  | 1 => some x.step.toNat
  | 2 => some ((x.level.toNat + x.step.toNat) % 2 ^ 32)
  | 3 => some x.prev.toNat
  | 4 => some b
  | 5 => some x.nbrs.length
  | 6 => some (buffer (if x.buf then 1 else 0))
  | 7 => some (buffer (if x.buf then 0 else 1))
  | 8 => (x.recs[n]?).map (·.level.toNat)
  | 9 => (x.recs[n]?).map (·.prev.toNat)
  | 10 => x.nbrs[n]?
  | 11 => (x.recs[n]?).map (·.cur)
  | 12 => (x.recs[n]?).map (·.old)
  | _ => none

/-- An address of the translated region that a cached translation, readable, takes to device memory of the own device
(R93, R278). -/
def CardInDram (t : State) (a : Word) (e : Tlb) (pa : Nat) : Prop :=
  areaOf a.toNat = .xlat ∧ t.look t.cur.1 t.here.space a.toNat = .hit e ∧ e.r = true ∧
    leafLoc (t.cur.1 / 512) e a.toNat = .dram (t.cur.1 / 512) pa

/-- `n` bytes at `va` lie in the near window of core `c`, in granules that are FREE or the space's own. -/
def NearBytes (s : State) (c space va n : Nat) : Prop :=
  va + n ≤ 2 ^ 24 ∧ ∀ k, k < n → s.mayPad space (.pad c (va + k)) = true

/-- The number in `n` bytes of the scratchpad of core `c`, lowest byte first (R3). -/
def padNum (s : State) (c off n : Nat) : Nat := numOf ((List.range n).map (fun k => cellGet s.mem (keyOf (.pad c (off + k)))))

/-- A job under way that has met no error and is one row of a raw move of bytes (R249, R251). -/
def PlainRow (j : Job) : Prop :=
  j.going = true ∧ j.err = none ∧ j.kind = 1 ∧ j.raw = true ∧ j.ey = 1 ∧ j.ez = 1 ∧ j.src < 2 ^ 64 ∧ j.dst < 2 ^ 64

/-- `u` is `s` with one more access in a channel: a job's read of the eight bytes at `va` of the near window (R209). -/
def ReadSent (s u : State) (c va : Nat) (a : Access) : Prop :=
  u.net = s.net ++ [a] ∧ a.kind = .ld false ∧ a.core = c ∧ a.slot = 64 ∧ a.va = va ∧ a.n = 8 ∧ a.loc = .pad c va ∧
    a.stage = .sent ∧ .event (.arrive a.id) ∈ u.agenda ∧ SameMemory s u

/-- The one read of an element of a job has returned, with no fault, and no other access waits for it (R209). -/
def ReadReturned (s : State) (a : Access) (j : Job) (w : Work) : Prop :=
  s.acc a.id = some a ∧ a.stage = .replied ∧ a.kind = .ld false ∧ a.slot = 64 ∧ a.aside = false ∧ a.dst = .none ∧
    a.reply.trap = none ∧ (s.core a.core).job a.jobNo = some j ∧ j.work.find? (fun w => w.parts.any (fun p => p.id == a.id)) = some w ∧
    w.parts = [⟨a.id, 8, none⟩] ∧ (∀ b ∈ s.net, b.stage ≠ .held) ∧ (s.slot a.core 64).kill = none

end Sys2Proof.Machine
end

