-- ==== Sys2Proof/Safety/Vector.lean ====
section
/-! DEFINITION. Elements, reductions and addresses of the vector instructions, and the matrix unit, as R147 to R206 give
them, computed on exact integers where the elements are integers, for the statements to compare with. -/

namespace Sys2Proof.Machine

/-! ### Elements (R162, R171 to R174) -/

/-- Bytes of an element type: I8, I16, I32, I64, FP16, BF16, FP32, FP64. -/
def laneBytes (t : Nat) : Nat :=
  match t with
  | 0 => 1
  | 1 | 4 | 5 => 2
  | 2 | 6 => 4
  | _ => 8

/-- The value of an integer element, in two's complement. -/
def laneInt (W x : Nat) : Int := Int.bmod x (2 ^ W)

/-- An exact integer kept on W bits. -/
def laneOf (W : Nat) (r : Int) : Nat := (r % 2 ^ W).toNat

/-- An element's integer result: no flag. -/
def plainLane (W : Nat) (r : Int) : Nat × Flags := (laneOf W r, 0)

/-- Clamped to lo ... hi. -/
def clampTo (lo hi r : Int) : Int := max lo (min hi r)

/-- A sum or difference of integers: wrapped, saturated as signed, saturated as unsigned (R172). -/
def satLane (W mode : Nat) (op : Int → Int → Int) (a b : Nat) : Option (Nat × Flags) :=
  match mode with
  | 0 => some (plainLane W (op a b))
  | 1 => some (plainLane W (clampTo (-(2 ^ (W - 1))) (2 ^ (W - 1) - 1) (op (laneInt W a) (laneInt W b))))
  | 2 => some (plainLane W (clampTo 0 (2 ^ W - 1) (op a b)))
  | _ => none

/-- The result of one element of an element-wise instruction and its flags (R171 to R173, R175, R176); none where the
manual gives none. -/
def laneRule (i : Instr) (md : RMode) (v : Vals) (a b c : Nat) : Option (Nat × Flags) :=
  let fn := (opndOfInstr i).fn.toNat
  let t := fn % 8
  let W := 8 * laneBytes t
  let f := vFmt t
  let float : Bool := decide (4 ≤ t)
  let mode := fn / 2 ^ 6 % 4
  let uns := fn.testBit 6
  let cond := fn / 2 ^ 6 % 16
  match i with
  | .vadd _ => if float then some (fAdd f md a b) else satLane W mode (· + ·) a b
  | .vsub _ => if float then some (fSub f md a b) else satLane W mode (· - ·) a b
  | .vmul _ => if float then some (fMul f md a b)
      else match mode with
        | 0 => some (plainLane W (a * b))
        | 1 => some (plainLane W (laneInt W a * laneInt W b / 2 ^ W))
        | 2 => some (plainLane W (a * b / 2 ^ W))
        | _ => none
  | .vfma _ =>
      let np := fn.testBit 6
      let na := fn.testBit 7
      if float then some (fFma f md np na a b c)
      else some (plainLane W ((if np then -(a * b : Int) else a * b) + (if na then -(c : Int) else c)))
  | .vmin _ => if float then some (fMinMax f false a b)
      else some ((if uns then min a b else if laneInt W a ≤ laneInt W b then a else b), 0)
  | .vmax _ => if float then some (fMinMax f true a b)
      else some ((if uns then max a b else if laneInt W a ≤ laneInt W b then b else a), 0)
  | .vand _ => some (a &&& b, 0)
  | .vor _ => some (a ||| b, 0)
  | .vxor _ => some (a ^^^ b, 0)
  | .vshl _ => some (plainLane W (a * 2 ^ (b % W)))
  | .vshr _ => if uns then some (plainLane W (laneInt W a / 2 ^ (b % W))) else some (plainLane W (a / 2 ^ (b % W)))
  | .vsel _ => some ((if c ≠ 0 then a else b), 0)
  | .vcmp _ =>
      if float then (let r := fCmp f (cond % 8) a b; some ((if r.1 then 2 ^ W - 1 else 0), r.2))
      else
        let x : Int := if fn.testBit 10 then a else laneInt W a
        let y : Int := if fn.testBit 10 then b else laneInt W b
        let hit : Option Bool := match cond with
          | 0 => some (decide (x = y))
          | 1 => some (decide (x ≠ y))
          | 2 => some (decide (x < y))
          | 3 => some (decide (x ≤ y))
          | 4 => some (decide (x > y))
          | 5 => some (decide (x ≥ y))
          | _ => none
        hit.map (fun h => ((if h then 2 ^ W - 1 else 0), 0))
  | .vsfn _ => match cond with
      | 4 => some (fRcp f a)
      | 5 => some (fRsq f a)
      | n => some (fSfn f md n a)
  | .vbcast _ => some (v.b.toNat % 2 ^ W, 0)
  | .vcvt _ => none
  | _ => none

/-- `new` is `old` with element (i, j) of a tile of `rows` rows and `cols` columns of `e` bytes replaced by `f i j`. -/
def LaneResult (old new : VData) (rows cols e : Nat) (f : Nat → Nat → Nat) : Prop :=
  (∀ i j, i < rows → j < cols → elemAt e new (64 * i + j * e) = f i j % 2 ^ (8 * e)) ∧
  (∀ k, k < 4096 → ¬ (k / 512 < rows ∧ k % 512 < 8 * e * cols) → new.getLsbD k = old.getLsbD k)

/-- The shape of the current slot admits elements of `e` bytes (R163). -/
def ShapeFits (t : State) (e : Nat) : Prop :=
  1 ≤ t.here.rows ∧ t.here.rows ≤ 8 ∧ 1 ≤ t.here.cols ∧ t.here.cols * e ≤ 64

/-- The vector register of field d. -/
def vecDst (i : Instr) (t : State) : Nat := t.here.vbase + (opndOfInstr i).d.toNat % 32

/-- Its contents. -/
def oldOf (i : Instr) (t : State) : VData := ((t.core t.cur.1).vreg (vecDst i t)).val

/-- `u` is `t` with one operation of the current slot in the vector pipe, its completion due; memory is as before, and
with no trap enabled so is the slot (R167, R168). -/
def Piped (t u : State) (o : VOp) : Prop :=
  (u.core t.cur.1).vops = (t.core t.cur.1).vops ++ [o] ∧ o.slot = t.cur.2 ∧ o.id = t.nextId ∧
    .event (.vectorComplete t.cur.1 o.id) ∈ u.agenda ∧ u.net = t.net ∧ SameMemory t u ∧ (t.here.trapEn = 0 → u.here = t.here)

/-- The operation is to write the vector register of field d, which is empty-pending until then. -/
def IntoVector (i : Instr) (t u : State) (o : VOp) : Prop :=
  o.vdst = some (vecDst i t) ∧ (let r := (u.core t.cur.1).vreg (vecDst i t); r.full = false ∧ r.pend = true)

/-! ### Reductions (R181, R182, R187) -/

/-- The integer combinations: sum, signed minimum and maximum, and, or, exclusive or, unsigned minimum and maximum. -/
def redOp (W op a b : Nat) : Nat :=
  match op with
  | 0 => (a + b) % 2 ^ W
  | 1 => if laneInt W a ≤ laneInt W b then a else b
  | 2 => if laneInt W a ≤ laneInt W b then b else a
  | 3 => a &&& b
  | 4 => a ||| b
  | 5 => a ^^^ b
  | 6 => min a b
  | _ => max a b

/-- A list combined from its first element on. -/
def reduceList (W op : Nat) (l : List Nat) : Nat := l.tail.foldl (redOp W op) (l.headD 0)

/-- What an exclusive scan begins with. -/
def scanIdentity (W op : Nat) : Nat :=
  match op with
  | 1 => 2 ^ (W - 1) - 1
  | 2 => 2 ^ (W - 1)
  | 3 | 6 => 2 ^ W - 1
  | _ => 0

/-- One term of an integer distance: product, squared difference, absolute difference, differing bits. -/
def distLane (W metric a b : Nat) : Int :=
  let x := laneInt W a
  let y := laneInt W b
  match metric with
  | 0 => x * y
  | 1 => (x - y) * (x - y)
  | 2 => |x - y|
  | _ => ((List.range W).filter (fun k => (a ^^^ b).testBit k)).length

/-! ### Addresses (R184, R198, R200) -/

/-- The stride of a row: the field's value, or `packed` where the field names `zero`. -/
def strideIn (f : BitVec 8) (c : Word) (packed : Nat) : Int := if f = 145 then packed else c.toInt

/-- The address of element `k` of a raw vector access (R184). -/
def vecAddr (i : Instr) (v : Vals) (cols k : Nat) : Nat :=
  let o := opndOfInstr i
  let e := laneBytes (o.fn.toNat % 8)
  let row : Int := ((k / cols : Nat) : Int)
  let byte : Int := ((k % cols * e : Nat) : Int)
  let scat : Int := if o.fn.toNat.testBit 6 then laneInt 64 (v.vb.toNat / 2 ^ (64 * (k / cols))) + byte
    else laneInt 32 (v.vb.toNat / 2 ^ (32 * k)) * e
  match i with
  | .vld _ => laneOf 64 ((v.a + v.b).toNat + row * strideIn o.c v.c (cols * e) + byte)
  | .vst _ => laneOf 64 ((v.a + v.b).toNat + row * strideIn o.d v.d (cols * e) + byte)
  | _ => laneOf 64 (v.a.toNat + scat)

/-- A raw vector access: `vld` and `vgather` without a page format, at most 128 elements where each has its index. -/
def RawAccess (i : Instr) (rows cols : Nat) : Prop :=
  let fn := (opndOfInstr i).fn.toNat
  match i with
  | .vld _ => fn.testBit 6 = false
  | .vst _ => True
  | .vgather _ => fn.testBit 7 = false ∧ (fn.testBit 6 = true ∨ rows * cols ≤ 128)
  | .vscatter _ => fn.testBit 6 = true ∨ rows * cols ≤ 128
  | _ => False

/-- Every element of an access lies aligned in the near window, in granules that are FREE or the space's own. -/
def NearElements (t : State) (n e : Nat) (addr : Nat → Nat) : Prop :=
  ∀ k, k < n → addr k % e = 0 ∧ NearBytes t t.cur.1 t.here.space (addr k) e

/-- `u` is `t` with a vector or tile access of the current slot under way: every element travels in a request of it, and
the slot waits for all of them (R186, R200). -/
def ElementsSent (t u : State) (kind : AKind) (n e : Nat) (addr : Nat → Nat) (dat : Nat → Option Nat) : Prop :=
  ∃ m : VMem, (u.core t.cur.1).vmems = (t.core t.cur.1).vmems ++ [m] ∧ u.here.run = .out [.vector m.id] ∧ SameMemory t u ∧
    ∀ k, k < n → ∃ a ∈ u.net, a.par = m.id ∧ a.core = t.cur.1 ∧ a.kind = kind ∧
      ∃ x ∈ a.elems, x.k = k ∧ x.va = addr k ∧ x.loc = .pad t.cur.1 (addr k) ∧ x.n = e ∧ ∀ w, dat k = some w → x.dat = w

/-! ### Tiles and the matrix unit (R190 to R206) -/

/-- Bytes of a raw element of a tile or an accumulator. -/
def tileBytes (i : Instr) (w : Word) : Nat :=
  match i with
  | .tldAcc _ | .tstAcc _ => 16
  | _ => if cfgI8 w then 1 else 4

/-- The address of element `k` of a raw tile access: rows are `stride` elements apart. -/
def tileAddr (v : Vals) (stride : Int) (cols n k : Nat) : Nat :=
  laneOf 64 ((v.a + v.b).toNat + (((k / cols : Nat) : Int) * stride + ((k % cols : Nat) : Int)) * n)

/-- The origin of `tcvt`, `tvec` and their inverses lies in the register with the whole shape (R198, R205). -/
def OriginFits (t : State) (b : Word) (e : Nat) : Prop :=
  b &&& ~~~0x3F3F = 0 ∧ t.here.cols * e ≤ 64 ∧ b.toNat % 64 + t.here.rows ≤ 64 ∧ b.toNat / 256 % 64 + t.here.cols ≤ 64

/-- Bytes of an element of `tcvt` and `tvec` (R197). -/
def unitBytes (t : Nat) : Nat := if t = 0 then 1 else if t = 1 then 4 else 2

/-- What R156, R198, R199, R203 and R204 ask of a unit instruction. -/
def UnitMayRun (i : Instr) (v : Vals) (t : State) : Prop :=
  let k := t.core t.cur.1
  let o := opndOfInstr i
  let fn := o.fn.toNat
  let wa := k.tcfgAt o.a.toNat
  let wb := k.tcfgAt o.b.toNat
  let wd := k.tcfgAt o.d.toNat
  let acc := k.acc o.d.toNat
  match i with
  | .tzero _ | .tanchRd _ | .tanchClr _ => True
  | .tanch _ => -512 ≤ v.b.toInt ∧ v.b.toInt ≤ 511
  | .tmma _ => badExtent wa = false ∧ badExtent wb = false ∧ cfgI8 wa = cfgI8 wb ∧
      cfgCols wa = (if fn.testBit 0 then cfgRows wb else cfgCols wb) ∧
      (if cfgI8 wa then fn.testBit 1 = false ∧ (acc.unset = true ∨ acc.anchor = 0) else fn.testBit 1 = true ∨ acc.unset = false)
  | .tcvt _ => OriginFits t v.b (unitBytes (fn % 4))
  | .tcvtTile _ => cfgI8 wd = false
  | .tvec _ => OriginFits t v.b (unitBytes (fn % 4)) ∧ (cfgI8 wa = true ↔ fn % 4 = 0)
  | .tvecIn _ => OriginFits t v.b (unitBytes (fn % 4)) ∧ (cfgI8 wd = true ↔ fn % 4 = 0)
  | _ => False

/-- An I8 cell as an integer (R190). -/
def cellInt (k : Core) (tile row col : Nat) : Int := Int.bmod (tabGet 0 (k.tile tile).cells (row * 64 + col)).toNat 256

/-- An X19 cell (R144). -/
def cellX (k : Core) (tile row col : Nat) : FVal := fdecode x19 (tabGet 0 (k.tile tile).cells (row * 64 + col)).toNat

/-- The sign of a value. -/
def FVal.minus : FVal → Bool
  | .fin n _ _ => n
  | .inf n => n
  | .nan _ => false

/-- The integer that a product adds to a cell at anchor `e`, and whether it sets OVF (R157). -/
def placedProd (e : Int) (x y : FVal) : Int × Bool :=
  let top : Int := if x.minus = y.minus then 2 ^ 63 - 1 else -(2 ^ 63 - 1)
  match x.rat, y.rat with
  | some p, some q => if (2 : ℚ) ^ (e + 63) ≤ |p * q| then (top, true) else (⌊p * q / (2 : ℚ) ^ e⌋, false)
  | a, b => if x.isNan || y.isNan || decide (a = some 0) || decide (b = some 0) then (0, true) else (top, true)

/-- A cell at anchor `f` moved to anchor `e`, and whether that sets OVF (R160). -/
def moved (m f e : Int) : Int × Bool :=
  let v : Int := ⌊(m : ℚ) * (2 : ℚ) ^ (f - e)⌋
  let w := clampTo (-(2 ^ 79 - 1)) (2 ^ 79 - 1) v
  (w, decide (v ≠ w))

/-- The exponent of the element of largest magnitude among the finite ones in the rows and columns that a tile's
configuration names (R144, R159). -/
def LargestExp (k : Core) (t : Nat) (w : Word) (x : Int) : Prop :=
  (∃ i j q, i < cfgRows w ∧ j < cfgCols w ∧ (cellX k t i j).rat = some q ∧ (2 : ℚ) ^ x ≤ |q|) ∧
  ∀ i j q, i < cfgRows w → j < cfgCols w → (cellX k t i j).rat = some q → |q| < (2 : ℚ) ^ (x + 1)

/-- The unit runs an instruction of a live slot, and none waits (R194). -/
def Running (s : State) (c : Nat) (p : MOp) : Prop := (s.core c).munit = some p ∧ (s.core c).mwait = none ∧ p.dead = false

end Sys2Proof.Machine
end

