-- ==== Sys2Proof/WellFormed.lean ====
section
/-! DEFINITION. Which terms of Instr stand for a word of the device or for an event it can have. -/

namespace Sys2Proof

/-- A core, a slot and a device of the panel (R8, R9). -/
def coreOk (c : Nat) : Bool := decide (c < 32768)
def slotOk (n : Nat) : Bool := decide (n < 64)
def devOk (d : Nat) : Bool := decide (d < 64)

/-- The word is no instruction: length 0b10, a compact op6 above 0x1B, or an opcode that R52 does not
assign (R31, R48, R53). -/
def bareOk (w : BitVec 32) : Bool :=
  match (wbits w 0 2).toNat with
  | 0 => decide (0x1B < (wbits w 2 6).toNat)
  | 2 => true
  | _ => !assigned (wbits w 2 8).toNat

/-- An event names a core, slot, device or unit that exists. -/
def eventOk : Instr → Bool
  | .qflagsRaise d _ | .restore d _ | .taskPlace d _ | .taskPreemptPriority d _ | .taskMigrateSeat d _
  | .nodeComplete d _ _ _ | .launchComplete d _ _ | .nodeFreeze d _ _ | .triggerWrite d _ | .hostBar2Write d _
  | .hostBar2Read d _ _ _ | .bar0RegisterWrite d _ | .cmddbOverrun d _ | .plimitWrite d _ => devOk d
  | .roundStart c | .activeMessageRun c | .handlerAbort c | .runqDeferredPlace c | .matrixStart c
  | .matrixComplete c | .vectorComplete c _ | .jobGo c _ | .jobComplete c _ | .jobAccess c _ _
  | .mcastDeliver c _ | .walkComplete c _ _ => coreOk c
  | .timerExpiry c n | .spill c n | .watchdogFire c n | .fetchFault c n | .tlbiRemovalDone c n => coreOk c && slotOk n
  | .claimExpiry c e => coreOk c && decide (e < 256)
  | .pairedEffectCompare c p => coreOk c && decide (p < 31)
  | .streamDeliver c n => coreOk c && decide (n < 4)
  | .tokenDeadline d i | .tokenEntryFree d i => devOk d && decide (i < 16384)
  | .flitResend d l => devOk d && decide (l < 40)
  | .linkRetire d l => devOk d && decide (l < 6)
  | .portRetire d p => devOk d && decide (p < 32)
  | .laneCalibrationRotate d l g => devOk d && decide (l < 40) && decide (g < 32)
  | .laneFailure d l g n => devOk d && decide (l < 40) && decide (g < 32) && decide (n < 17)
  | .sramScrub c o | .sramUncorrectable c o => coreOk c && decide (o < 2 ^ 24)
  | .gddr7MultibitError d pa => devOk d && decide (pa < 0x3000000000)
  | .regfileUncorrectable c f i => coreOk c && decide (f < 4) && decide (i < 2048)
  | .heartbeatReceive d p => devOk d && decide (p < 32)
  | _ => true

/-- The term is one that decoding produces, or an event that can happen. -/
def wellFormed (i : Instr) : Bool :=
  match shapeOf i with
  | .compact op6 k => decide (compactSub op6 k = none) && decide (compactInstr op6 k = i)
  | .long op o =>
    decide (illegalSub op o = none) && (match rowOf op o.fn.toNat with | some r => decide (r.build o = i) | none => false)
  | .bare w => bareOk w
  | .event => eventOk i

end Sys2Proof
end

