-- ==== Sys2Proof/Certificates/Slice0/Obligations.lean ====
section
/-! DEFINITION. The statements for the provers. Each docstring names the rules of spec/ that it formalises. -/

open Sys2Proof Sys2Proof.Machine

/-! ### Scalar instructions (04) -/

/-- R70, R71: the arithmetic integer instructions, in all their forms, write the exact result kept on W bits and
sign-extended. -/
def Obligations.IntegerArithmetic : Prop :=
  ∀ (i : Instr) (s t : State) (v : Vals) (r : Int),
    let o := opndOfInstr i
    let W := widthOf o
    let u := unsOf o
    intArith i W (intOf W u v.a) (intOf W u v.b) (intOf W u v.c) = some r →
    Issues i s v t → TakesD (ctxOf i s) (sxOf W r) t →
    exec i s = .next (t.storedD (ctxOf i s) (sxOf W r))

/-- R70, R71: the bitwise, shifting, counting and bit-field integer instructions. R45, R71: `sel`, `lea`, `ext` and
`addi` on 64 bits. -/
def Obligations.IntegerBits : Prop :=
  (∀ (i : Instr) (s t : State) (v : Vals) (r : Int),
    let W := widthOf (opndOfInstr i)
    intBits i W (v.a.toNat % 2 ^ W) (v.b.toNat % 2 ^ W) (v.c.toNat % 2 ^ W) = some r →
    Issues i s v t → TakesD (ctxOf i s) (sxOf W r) t →
    exec i s = .next (t.storedD (ctxOf i s) (sxOf W r))) ∧
  (∀ (i : Instr) (s t : State) (v : Vals) (w : Word),
    intWhole i ((t.slot s.cur.1 s.cur.2).pred) v.a v.b = some w →
    Issues i s v t → TakesD (ctxOf i s) w t →
    exec i s = .next (t.storedD (ctxOf i s) w))

/-- R72: `cmp` writes the predicate of its condition on W bits; the codes 8 to 15 are undefined and take ILLEGAL with
subcode 0x02. -/
def Obligations.IntegerCompare : Prop :=
  (∀ (i : Instr) (s t : State) (v : Vals) (b : Bool),
    ((∃ o, i = .cmp o) ∨ (∃ k, i = .cmpCompact k)) →
    let o := opndOfInstr i
    let W := widthOf o
    let u := unsOf o
    let cond := fld o.fn.toNat 2 4
    cond ≤ 7 →
    (b = true ↔ cmpCond cond (intOf W u v.a) (intOf W u v.b) (v.a.toNat % 2 ^ W) (v.b.toNat % 2 ^ W)) →
    Issues i s v t →
    exec i s = .next (t.storedP (ctxOf i s) b)) ∧
  (∀ o : Opnd, 8 ≤ fld o.fn.toNat 2 4 → illegalSub 0x16 o = some 2)

/-- R73: a zero divisor takes DIVIDE_ZERO whatever the dividend, under `.w` whatever the upper bits, and no register
is written; the signed quotient of -2^(W-1) by -1 is -2^(W-1) and its remainder 0, and neither raises anything. -/
def Obligations.DivisionCorners : Prop :=
  (∀ (i : Instr) (s t : State) (v : Vals),
    ((∃ o, i = .div o ∨ i = .rem o) ∨ (∃ k, i = .divCompact k ∨ i = .remCompact k)) →
    v.b.toNat % 2 ^ widthOf (opndOfInstr i) = 0 → Issues i s v t →
    exec i s = .next ((s.rewound t).takeTrap s.cur.1 s.cur.2 ⟨6, 0, 0⟩)) ∧
  (∀ (i : Instr) (s t : State) (v : Vals),
    let W := widthOf (opndOfInstr i)
    let least := sxOf W (-(2 ^ (W - 1)))
    unsOf (opndOfInstr i) = false → intOf W false v.a = -(2 ^ (W - 1)) → intOf W false v.b = -1 → Issues i s v t →
    (((∃ o, i = .div o) ∨ (∃ k, i = .divCompact k)) → TakesD (ctxOf i s) least t →
      exec i s = .next (t.storedD (ctxOf i s) least)) ∧
    (((∃ o, i = .rem o) ∨ (∃ k, i = .remCompact k)) → TakesD (ctxOf i s) 0 t →
      exec i s = .next (t.storedD (ctxOf i s) 0)))

/-- R19, R20, R74 to R81: a float instruction that raises no enabled flag writes its pattern and raises its flags.
R76, R77: `fclass` and `fsgn` write their result and touch no flag: the one-hot mask of the table, and A with its sign
replaced. -/
def Obligations.FloatResults : Prop :=
  (∀ (i : Instr) (s t : State) (v : Vals) (w : Word) (fl : Flags),
    floatRule i ((t.slot s.cur.1 s.cur.2).mode (fld (opndOfInstr i).fn.toNat 2 3)) v = some (w, fl) →
    fl &&& (t.slot s.cur.1 s.cur.2).trapEn = 0 →
    Issues i s v t → TakesD (ctxOf i s) w t →
    exec i s = .next ((t.storedD (ctxOf i s) w).raise s.cur.1 s.cur.2 fl)) ∧
  (∀ (i : Instr) (s t : State) (v : Vals) (w : Word),
    floatQuiet i v = some w →
    Issues i s v t → TakesD (ctxOf i s) w t →
    exec i s = .next (t.storedD (ctxOf i s) w)) ∧
  (∀ n a b code : Nat,
    let f := fmtOf n
    let top := f.width - 1
    fClass f a = classMask f a ∧
    (code < 3 → fSgn f code a b % 2 ^ top = a % 2 ^ top ∧ fSgn f code a b < 2 ^ f.width ∧
      (fSgn f code a b).testBit top = (if code = 0 then b.testBit top else if code = 1 then !b.testBit top
        else a.testBit top != b.testBit top)))

/-- R20, R77: `fcmp` writes its predicate and raises its flags; R20: a float instruction that would raise an enabled
flag takes FP_TRAP with every flag that it would have raised in %tval, and writes nothing. R75: every NaN result of
the arithmetic float instructions is the canonical quiet NaN, and a signalling NaN operand raises NV. R76, R77: `fmin`
and `fmax` give the lesser and the greater number, with −0 below +0, or the number beside a NaN; `fcmp` compares the
exact values, and with a NaN its operands are unordered. R79: `fsfn` at the inputs whose result the manual gives. -/
def Obligations.FloatFlagsAndTraps : Prop :=
  (∀ (o : Opnd) (s t : State) (v : Vals),
    let f := fmtOf (fld o.fn.toNat 0 2)
    let r := fCmp f (fld o.fn.toNat 7 4) (lowOf f v.a) (lowOf f v.b)
    Issues (.fcmp o) s v t →
    exec (.fcmp o) s =
      (if r.2 &&& (t.slot s.cur.1 s.cur.2).trapEn = 0 then
        .next ((t.storedP (ctxOf (.fcmp o) s) r.1).raise s.cur.1 s.cur.2 r.2)
       else .next ((s.rewound t).takeTrap s.cur.1 s.cur.2 ⟨7, 0, r.2.setWidth 64⟩))) ∧
  (∀ (i : Instr) (s t : State) (v : Vals) (w : Word) (fl : Flags),
    floatRule i ((t.slot s.cur.1 s.cur.2).mode (fld (opndOfInstr i).fn.toNat 2 3)) v = some (w, fl) →
    fl &&& (t.slot s.cur.1 s.cur.2).trapEn ≠ 0 →
    Issues i s v t →
    exec i s = .next ((s.rewound t).takeTrap s.cur.1 s.cur.2 ⟨7, 0, fl.setWidth 64⟩)) ∧
  (∀ (n : Nat) (rm : RMode) (np na : Bool) (a b c : Nat),
    let f := fmtOf n
    (fdecode f a).isNan = true →
    (∀ r ∈ [fAdd f rm a b, fAdd f rm b a, fSub f rm a b, fSub f rm b a, fMul f rm a b, fMul f rm b a,
        fFma f rm np na a b c, fFma f rm np na b a c, fFma f rm np na b c a],
      r.1 = f.nanBits ∧ ((fdecode f a).isSig = true → r.2 = flNV)) ∧
    ((fdecode f b).isNan = true → (fMinMax f true a b).1 = f.nanBits ∧ (fMinMax f false a b).1 = f.nanBits) ∧
    ((fdecode f b).isNan = false →
      (fMinMax f true a b).1 = b % 2 ^ f.width ∧ (fMinMax f false a b).1 = b % 2 ^ f.width)) ∧
  (∀ n a b : Nat,
    let f := fmtOf n
    (fdecode f a).isNan = false → (fdecode f b).isNan = false →
    fMinMax f false a b = ((if ordKey f a ≤ ordKey f b then a else b) % 2 ^ f.width, 0) ∧
    fMinMax f true a b = ((if ordKey f a ≤ ordKey f b then b else a) % 2 ^ f.width, 0)) ∧
  (∀ n a b cond : Nat,
    let f := fmtOf n
    let r := fCmp f cond a b
    cond < 8 →
    (∀ x y, f.val a = some x → f.val b = some y → (r.1 = true ↔ fcmpCond cond x y) ∧ r.2 = 0) ∧
    ((fdecode f a).isNan = true ∨ (fdecode f b).isNan = true → (r.1 = true ↔ cond = 1 ∨ cond = 6) ∧
      r.2 = if (2 ≤ cond ∧ cond ≤ 5) ∨ (fdecode f a).isSig = true ∨ (fdecode f b).isSig = true then flNV else 0)) ∧
  (∀ (n a : Nat) (rm : RMode), 1 ≤ n → n ≤ 3 →
    let f := fmtOf n
    let low := a % 2 ^ f.width
    let fn (k : Nat) : Nat × Flags := fSfn f rm k a
    ((fdecode f a).isNan = true → ∀ k, k < 4 → fn k = (f.nanBits, if (fdecode f a).isSig then flNV else 0)) ∧
    (∀ neg, fdecode f a = .inf neg → fn 0 = (if neg then 0 else f.infBits, 0) ∧
      fn 1 = (if neg then (f.nanBits, flNV) else (f.infBits, 0)) ∧ fn 2 = (f.nanBits, flNV) ∧
      f.val (fn 3).1 = some (if neg then -1 else 1) ∧ (fn 3).2 = 0) ∧
    (f.val a = some 0 → f.val (fn 0).1 = some 1 ∧ (fn 0).2 = 0 ∧ fn 1 = (f.signBits true + f.infBits, flDZ) ∧ fn 2 = (low, 0) ∧
      fn 3 = (low, 0)) ∧
    (∀ k : Int, f.val a = some (k : ℚ) → f.emin - f.mbits ≤ k → k ≤ f.bias → f.val (fn 0).1 = some (2 ^ k) ∧ (fn 0).2 = 0) ∧
    (∀ k : Int, f.val a = some (2 ^ k) → f.val (fn 1).1 = some (k : ℚ) ∧ (fn 1).2 = 0) ∧
    (∀ x, f.val a = some x → x < 0 → fn 1 = (f.nanBits, flNV)) ∧
    (∀ k : Int, f.val a = some ((k : ℚ) / 4) → k ≠ 0 → (fn 2).2 = 0 ∧
      f.val (fn 2).1 = some (if k % 4 = 1 then 1 else if k % 4 = 3 then -1 else 0)))

/-- R75, R76, R81: where the exact result of `fadd`, `fsub`, `fmul`, `fma` and the Newton steps of finite numbers lies
in the finite range, it is rounded once in the instruction's mode, and NX says whether rounding changed it. R78: so are
the conversions of `fcvt`; to an integer the value is rounded once and clamped to the range with NV, and from OFP8 it is
exact. R80: `frcp` and `frsq` give 1/A and 1/√A truncated toward zero to min(15, p) bits and to the subnormal grid, and
their special values are those of the table. -/
def Obligations.FloatRoundedOnce : Prop :=
  (∀ (n : Nat) (rm : RMode) (np na : Bool) (a b c : Nat) (x y z q : ℚ) (r : Nat × Flags),
    let f := fmtOf n
    f.val a = some x → f.val b = some y → f.val c = some z →
    ((q = x + y ∧ r = fAdd f rm a b) ∨ (q = x - y ∧ r = fSub f rm a b) ∨ (q = x * y ∧ r = fMul f rm a b) ∨
      (q = (if np then -(x * y) else x * y) + (if na then -z else z) ∧ r = fFma f rm np na a b c) ∨
      (y ≠ 0 ∧ q = y * (2 - x * y) ∧ r = fNewton f rm false a b) ∨
      (y ≠ 0 ∧ q = y * (3 - x * y * y) / 2 ∧ r = fNewton f rm true a b)) →
    InRange f q → RoundedOnce f.val rm q r) ∧
  (∀ (n code : Nat) (rm : RMode) (w : Word),
    let f := fmtOf n
    let r := fCvt f rm code w
    let p := (r.1.toNat, r.2)
    (∀ x, f.val w.toNat = some x →
      (code < 4 → InRange (fmtOf code) x → RoundedOnce (fmtOf code).val rm x p) ∧
      (code = 12 → |x| ≤ 448 → RoundedOnce e4m3Val rm x p) ∧
      (code = 13 → InRange e5m2 x → RoundedOnce e5m2.val rm x p) ∧
      (∀ lo hi, cvtRange code = some (lo, hi) → r = (let k := roundInt rm x
        if k < lo then (BitVec.ofInt 64 lo, flNV) else if hi < k then (BitVec.ofInt 64 hi, flNV)
        else (BitVec.ofInt 64 k, if (k : ℚ) = x then 0 else flNX)))) ∧
    ((fdecode f w.toNat).isNan = true → (cvtRange code).isSome = true → r = (0, flNV)) ∧
    (∀ i, cvtSource code w = some i → InRange f i → RoundedOnce f.val rm i p) ∧
    (∀ x, (code = 14 ∧ e4m3Val (w.toNat % 256) = some x) ∨ (code = 15 ∧ e5m2.val (w.toNat % 256) = some x) →
      f.val r.1.toNat = some x ∧ r.2 = 0)) ∧
  (∀ n a : Nat,
    let f := fmtOf n
    let low := a % 2 ^ f.width
    (∀ x, f.val a = some x → x ≠ 0 →
      (InRange f x⁻¹ → ∃ z, f.val (fRcp f a).1 = some z ∧ 0 ≤ z * x ∧ Truncated f 1 |x⁻¹| |z| ∧
        (fRcp f a).2 = if |x⁻¹| < (2 : ℚ) ^ f.emin ∧ |z| ≠ |x⁻¹| then flUF ||| flNX else 0) ∧
      (¬ InRange f x⁻¹ → fRcp f a = (f.signBits (decide (x < 0)) + f.infBits, flOF ||| flNX)) ∧
      (0 < x → ∃ z, fRsq f a = ((fRsq f a).1, 0) ∧ f.val (fRsq f a).1 = some z ∧ 0 ≤ z ∧ Truncated f 2 x⁻¹ z) ∧
      (x < 0 → fRsq f a = (f.nanBits, flNV))) ∧
    (f.val a = some 0 → fRcp f a = (low + f.infBits, flDZ) ∧ fRsq f a = (low + f.infBits, flDZ)) ∧
    (∀ neg, fdecode f a = .inf neg → fRcp f a = (f.signBits neg, 0) ∧ fRsq f a = if neg then (f.nanBits, flNV) else (0, 0)))

/-- R82, R83, R85: transfers go to their targets and write their links; `loop` counts; `nop` only moves the pc. R82:
an indirect transfer whose target is not a multiple of 4 takes MISALIGNED with the target in %tval. That `loop` goes to
pc - 4*fn, as R83 has it where R42 gives another offset, is the model's choice (assumption log 48). R85, R92, R304:
`beat` restarts the interval of a PERSISTENT task and does nothing in another; `trap` takes SOFTWARE with its code. -/
def Obligations.Transfers : Prop :=
  (∀ (i : Instr) (s t : State) (v : Vals) (tgt : Option (BitVec 56)) (link : Option Word),
    transferOf i s.here.pc v = some (tgt, link) →
    Issues i s v t → (∀ w, link = some w → TakesD (ctxOf i s) w t) →
    let u := match link with
      | some w => t.storedD (ctxOf i s) w
      | none => t
    exec i s = .next (match tgt with
      | some p => u.modSlot s.cur.1 s.cur.2 (fun sl => { sl with pc := p })
      | none => u)) ∧
  (∀ (i : Instr) (s t : State) (v : Vals),
    (∃ o, i = .jmp o ∨ i = .callr o) → (v.a + v.b).toNat % 4 ≠ 0 →
    Issues i s v t →
    exec i s = .next ((s.rewound t).takeTrap s.cur.1 s.cur.2 ⟨8, 0, v.a + v.b⟩)) ∧
  (∀ (o : Opnd) (s t : State) (v : Vals), Issues (.beat o) s v t →
    exec (.beat o) s = .next (match t.taskRec (s.cur.1 / 512) (t.slot s.cur.1 s.cur.2).task with
      | some r => if (t.gnode (s.cur.1 / 512) r.graph r.node).kind = 1 then
          t.modSlot s.cur.1 s.cur.2 (fun sl => { sl with dogFrom := t.now s.cur.1, dogRan := 0 }) else t
      | none => t)) ∧
  (∀ (o : Opnd) (s t : State) (v : Vals), Issues (.trap o) s v t →
    exec (.trap o) s = .next ((s.rewound t).takeTrap s.cur.1 s.cur.2 ⟨0x13, 0, BitVec.ofNat 64 o.fn.toNat⟩))

/-- R18, R19, R86, R87: predicate logic and the four forms of `pmov`; a reserved rounding mode takes ILLEGAL. R88,
R89: `empty` clears only the full bit of its register, and `fetest` writes what it finds and pops nothing. What `fetest`
finds at a port, `fetest.psn` above all, is the model's choice where the manual is silent (assumption log 49). -/
def Obligations.PredicatesAndFullEmpty : Prop :=
  (∀ (i : Instr) (s t : State) (v : Vals) (b : Bool),
    predRule i ((t.slot s.cur.1 s.cur.2).pred) v = some b → Issues i s v t →
    exec i s = .next (t.storedP (ctxOf i s) b)) ∧
  (∀ (i : Instr) (s t : State) (v : Vals) (w : Word),
    predRead i (t.slot s.cur.1 s.cur.2) = some w → Issues i s v t → TakesD (ctxOf i s) w t →
    exec i s = .next (t.storedD (ctxOf i s) w)) ∧
  (∀ (o : Opnd) (s t : State) (v : Vals), Issues (.pmovWriteWord o) s v t →
    exec (.pmovWriteWord o) s = (if v.a.toNat / 256 % 8 < 4 then
      .next (t.modSlot s.cur.1 s.cur.2 (fun sl => { sl with preds := BitVec.ofNat 64 (v.a.toNat % 2 ^ 16 / 2 * 2 + 1) }))
      else .next ((s.rewound t).takeTrap s.cur.1 s.cur.2 ⟨1, 5, v.a⟩))) ∧
  (∀ (o : Opnd) (s t : State) (v : Vals), o.fn = 0 → Issues (.empty o) s v t →
    let e := (t.slot s.cur.1 s.cur.2).sbase + o.d.toNat
    exec (.empty o) s = .next (t.modCore s.cur.1 (fun k => k.setEntry e { k.entry e with full := false }))) ∧
  (∀ (o : Opnd) (s t : State) (v : Vals), o.fn = 1 → Issues (.empty o) s v t →
    let r := (t.slot s.cur.1 s.cur.2).vbase + o.d.toNat % 32
    exec (.empty o) s = .next (t.modCore s.cur.1 (fun k => k.setVreg r { k.vreg r with full := false }))) ∧
  (∀ (o : Opnd) (s t : State) (v : Vals), wellFormed (.fetest o) = true → Issues (.fetest o) s v t → Alone s →
    exec (.fetest o) s = .next (t.storedP (ctxOf (.fetest o) s) (testRule t s.cur.1 s.cur.2 o)))

/-- R32, R33, R90: a read of a control register writes its value; the timer as R35 counts it, the semaphores as R132
and a tile configuration as R191 hold it. -/
def Obligations.ControlRegisterReads : Prop :=
  ∀ (o : Opnd) (s t : State) (v : Vals) (w : Nat),
    let num := o.fn.toNat % 2 ^ 12
    let c := s.cur.1
    let n := s.cur.2
    (ctlRule t c n num = some w ∨ (num = 6 ∧ n ≠ 62 ∧ w = ((t.slot c n).timerAt (t.now c)).toNat) ∨
      (num / 16 = 0x10 ∧ w = ((t.core c).tcfgAt (num % 16)).toNat) ∨ (num = 0x113 ∧ w = (t.core c).semWord.toNat)) →
    Issues (.ctlRead o) s v t → Alone s → TakesD (ctxOf (.ctlRead o) s) (BitVec.ofNat 64 w) t →
    exec (.ctlRead o) s = .next (t.storedD (ctxOf (.ctlRead o) s) (BitVec.ofNat 64 w))

/-- R19, R32 to R35, R191: writes of the slot's control registers and of a tile configuration. R129, R132, R155, R262:
writes of the core's and the quadrant's control registers. A write of %semcfg sets the count, and units go to waiters
in their order while there are both. A write of %qflags clears the flags written as 1, but none that was raised in its
own cycle; raises of more than 32 cycles ago have reached the register before it. That the timer counts
from the cycle after a write of %mode is the model's reading (assumption log 46). -/
def Obligations.ControlRegisterWrites : Prop :=
  (∀ (o : Opnd) (s t : State) (v : Vals), wellFormed (.ctlWrite o) = true → Issues (.ctlWrite o) s v t →
    exec (.ctlWrite o) s = (match ctlStore (o.fn.toNat % 2 ^ 12) v.a (t.slot s.cur.1 s.cur.2) with
      | some sl => .next (t.setSlot s.cur.1 s.cur.2 sl)
      | none => .next ((s.rewound t).takeTrap s.cur.1 s.cur.2 ⟨1, 5, v.a⟩))) ∧
  (∀ (o : Opnd) (s t : State) (v : Vals), Issues (.timerArm o) s v t →
    exec (.timerArm o) s = .next (if (t.slot s.cur.1 s.cur.2).paired then (s.rewound t).takeTrap s.cur.1 s.cur.2 ⟨1, 5, v.a⟩
      else t.modSlot s.cur.1 s.cur.2 (fun sl =>
        { sl with timer := v.a, timerFrom := t.now s.cur.1 + 1, timerHit := false }))) ∧
  (∀ (o : Opnd) (s t : State) (v : Vals), Issues (.modeWrite o) s v t →
    exec (.modeWrite o) s = .next (t.modSlot s.cur.1 s.cur.2 (fun sl =>
      if v.a.toNat % 2 = 1 then { sl with hmode := true } else { sl with hmode := false, timerFrom := t.now s.cur.1 + 1 }))) ∧
  (∀ (o : Opnd) (s t : State) (v : Vals), Issues (.vshapeWrite o) s v t →
    let rows := v.a.toNat % 16
    let cols := v.a.toNat / 256 % 128
    exec (.vshapeWrite o) s = .next (if 1 ≤ rows ∧ rows ≤ 8 ∧ 1 ≤ cols ∧ cols ≤ 64 then
        t.modSlot s.cur.1 s.cur.2 (fun sl => { sl with vshape := BitVec.ofNat 64 (cols * 256 + rows) })
      else (s.rewound t).takeTrap s.cur.1 s.cur.2 ⟨1, 5, v.a⟩)) ∧
  (∀ (o : Opnd) (s t : State) (v : Vals), Issues (.tcfgWrite o) s v t →
    exec (.tcfgWrite o) s = .next (t.modCore s.cur.1 (fun k =>
      { k with tcfg := tabPut k.tcfg (o.fn.toNat % 16) (v.a &&& 0x17F7F) }))) ∧
  (∀ (o : Opnd) (s t : State) (v : Vals), Issues (.runqFlush o) s v t → Alone s →
    ∃ u, exec (.runqFlush o) s = .next u ∧ u.agenda = t.agenda ++ [.event (.runqDeferredPlace s.cur.1)] ∧
      (∀ p, (u.core s.cur.1).port p =
        if 160 ≤ p ∧ p < 164 ∧ v.a.toNat.testBit (p - 128) = true then [] else (t.core s.cur.1).port p) ∧
      SameMemory t u ∧ SameCores s.cur.1 t u) ∧
  (∀ (o : Opnd) (s t : State) (v : Vals), Issues (.semcfgWrite o) s v t → Alone s →
    let c := s.cur.1
    let m := v.a.toNat % 16
    let count := v.a.toNat / 2 ^ 16 % 2 ^ 16
    let ws := ((t.core c).sem m).waiters
    ws.length ≤ 64 → ws.Nodup → (∀ w ∈ ws, (t.slot c w).paired = false) →
    ∃ u, exec (.semcfgWrite o) s = .next u ∧ (u.core c).sem m = { count := count - ws.length, waiters := ws.drop count } ∧
      (∀ w ∈ ws.take count, (u.slot c w).run = .out [.over] ∧ (u.slot c w).pc = (t.slot c w).pc + 8) ∧
      (∀ n, n ∉ ws.take count → u.slot c n = t.slot c n) ∧ (∀ j, j ≠ m → (u.core c).sem j = (t.core c).sem j) ∧
      SameMemory t u ∧ SameCores c t u) ∧
  (∀ (o : Opnd) (s t : State) (v : Vals), Issues (.traceWrite o) s v t → Alone s →
    ∃ u, exec (.traceWrite o) s = .next u ∧
      (let k := t.core s.cur.1
       let k' := u.core s.cur.1
       let on := decide (v.a.toNat % 2 = 1)
       let fresh := on && !k.traceEn
       k'.traceEn = on ∧ k'.traceSeq = (if fresh then 0 else k.traceSeq) ∧
         k'.traceWrap = (k.traceWrap && !fresh && decide (v.a.toNat / 2 % 2 = 0))) ∧
      SameMemory t u ∧ SameCores s.cur.1 t u) ∧
  (∀ (o : Opnd) (s t : State) (v : Vals), Issues (.qflagsClear o) s v t → Alone s →
    let d := s.cur.1 / 512
    let q := s.cur.1 % 512 / 32
    let now := t.now s.cur.1
    let x := t.dv d
    ∃ u, exec (.qflagsClear o) s = .next u ∧ u.cores = t.cores ∧ SameMemory t u ∧
      (u.dv d).raises = x.raises.filter (fun r => !(decide (r.1 = q) && decide (r.2.2 + 32 < now))) ∧
      (∀ q', q' ≠ q → tabGet 0 (u.dv d).qflags q' = tabGet 0 x.qflags q') ∧
      (∀ b, b < 5 → let held := (tabGet 0 x.qflags q).getLsbD b = true ∨
          ∃ r ∈ x.raises, r.1 = q ∧ r.2.2 + 32 < now ∧ r.2.1.getLsbD b = true
        (tabGet 0 (u.dv d).qflags q).getLsbD b = true ↔ held ∧ (v.a.getLsbD b = true → now ≤ tabGet 0 x.qwhen (5 * q + b)))) ∧
  (∀ (d idx q : Nat) (f : BitVec 5) (cyc : Nat) (s : State), (s.dv d).raises[idx]? = some (q, f, cyc) →
    ∃ u, exec (.qflagsRaise d idx) s = .next u ∧ tabGet 0 (u.dv d).qflags q = tabGet 0 (s.dv d).qflags q ||| f ∧
      (∀ q', q' ≠ q → tabGet 0 (u.dv d).qflags q' = tabGet 0 (s.dv d).qflags q') ∧ u.cores = s.cores ∧ SameMemory s u)

/-- R91: outside handler mode `eret` takes PRIVILEGE; inside it the pc becomes %tepc and H is cleared in one step, and
the timer counts again from the next turn. That it counts from the next cycle is the model's reading of these words and
of R35 (assumption log 46). -/
def Obligations.EretReturns : Prop :=
  (∀ (o : Opnd) (s t : State) (v : Vals), Issues (.eret o) s v t →
    s.here.hmode = true ∧
    exec (.eret o) s = .next (t.modSlot s.cur.1 s.cur.2 (fun sl =>
      { sl with pc := sl.tepc.setWidth 56, hmode := false, timerFrom := t.now s.cur.1 + 1 }))) ∧
  (∀ (o : Opnd) (s : State), Executes (.eret o) s → s.here.hmode = false →
    exec (.eret o) s = .next (s.takeTrap s.cur.1 s.cur.2 ⟨5, 0, (firstWord (.eret o)).setWidth 64⟩))

/-! ### The front end of every instruction (02, 03, 06) -/

/-- R30: an instruction whose guard is 0 has no effect beyond its turn: only the pc moves past it. R16, R22, R24, R57,
R69: an instruction on registers, `zero` and literals whose operands are in the window, full and clean, in a slot that
has the role, with its destination free, issues with the values of its operands and changes nothing but the pc before
its own effect; a user handler's default access must stay on its core (R125). -/
def Obligations.OperandsIssue : Prop :=
  (∀ (i : Instr) (s : State), ofSlot i = true → s.here.live = true →
    guardOk s.here (opndOfInstr i).g (opndOfInstr i).gn = false →
    exec i s = .next (s.advance s.cur.1 s.cur.2 (lengthOf i))) ∧
  (∀ (i : Instr) (s : State), Executes i s → RegisterForm i → RoleHeld i s → AtHome i s →
    (∀ f ∈ fieldsOf i, InWindow s f ∧ FullSource s f ∧ CleanSource s f) → FreeDest i s →
    ∃ v, Issues i s v (s.advance s.cur.1 s.cur.2 (lengthOf i)) ∧ v.a = s.fieldVal (fieldAt i 0) ∧ v.b = s.operandB i ∧
      v.c = s.fieldVal (fieldAt i 2) ∧ v.d = s.fieldVal (fieldAt i 3))

/-- R57 steps 5 and 6: outside handler mode a privileged instruction takes PRIVILEGE, and one whose role the slot
lacks takes ROLE, with the first word in %tval, before anything else is looked at; so does a user handler's default
access that leaves its core (R125). R16, R55, R57 step 7: the first
register operand in the order a, b, c, d that lies outside the window takes REG_RANGE, which names the field and its
specifier. R22, R57 step 8: an empty source register with policy 1 takes EMPTY_SOURCE, the first in order; where every
empty source has policy 0 the slot leaves rotation until all of them are full, and nothing else changes. R24, R57 step
9: a poisoned source register takes POISON with the lowest tag among the poisoned sources. R23: a destination register
with a producer outstanding makes the slot wait, with nothing read. -/
def Obligations.FrontEndStops : Prop :=
  (∀ (i : Instr) (s : State), Executes i s → ¬ RoleHeld i s →
    exec i s = .next (s.takeTrap s.cur.1 s.cur.2
      ⟨if (descOf i).role = .handlerMode then 5 else 0x15, 0, (firstWord i).setWidth 64⟩)) ∧
  (∀ (i : Instr) (s : State), Executes i s → RegisterForm i → RoleHeld i s → ¬ AtHome i s →
    exec i s = .next (s.takeTrap s.cur.1 s.cur.2 ⟨0x15, 0, (firstWord i).setWidth 64⟩)) ∧
  (∀ (i : Instr) (s : State) (before after : List Fld) (f : Fld), Executes i s → RegisterForm i → RoleHeld i s → AtHome i s →
    fieldsOf i = before ++ f :: after → (∀ g ∈ before, InWindow s g) → ¬ InWindow s f →
    exec i s = .next (s.takeTrap s.cur.1 s.cur.2 ⟨3, 0, fieldCode f⟩)) ∧
  (∀ (i : Instr) (s : State), Executes i s → RegisterForm i → RoleHeld i s → AtHome i s → (∀ f ∈ fieldsOf i, InWindow s f) →
    let empties := (fieldsOf i).filter (fun f => f.kind.reads && decide (f.spec < 128) && !(s.fieldEntry f).full)
    empties ≠ [] →
    exec i s = .next (match empties.find? (·.pol) with
      | some f => s.takeTrap s.cur.1 s.cur.2 ⟨4, 0, fieldCode f⟩
      | none => s.leave s.cur.1 s.cur.2 (empties.map (fun f => .reg (s.here.sbase + f.spec))))) ∧
  (∀ (i : Instr) (s : State) (tag : Nat), Executes i s → RegisterForm i → RoleHeld i s → AtHome i s →
    (∀ f ∈ fieldsOf i, InWindow s f ∧ FullSource s f) → s.lowestTag i = some tag →
    exec i s = .next (s.takeTrap s.cur.1 s.cur.2 ⟨0x12, 0, BitVec.ofNat 64 tag⟩)) ∧
  (∀ (i : Instr) (s : State), Executes i s → RegisterForm i → RoleHeld i s → AtHome i s →
    (∀ f ∈ fieldsOf i, InWindow s f ∧ FullSource s f ∧ CleanSource s f) → ¬ FreeDest i s →
    exec i s = .next (s.leave s.cur.1 s.cur.2 [.regFree (s.here.sbase + (opndOfInstr i).d.toNat)]))

/-- R50, R51, R127: a source port with a filled, clean head is popped: the instruction issues with the head's value,
and the rest of the FIFO stays in order. Stated of the queues q0 to q7 for one port operand a beside registers. R50,
R69: a value written to a register makes it full, clean and of tag 0 and touches no other register; `zero` discards
it; a queue's FIFO gets it at its tail. -/
def Obligations.PortsAndDestinations : Prop :=
  (∀ (i : Instr) (s : State) (e : PEntry) (rest : List PEntry), Executes i s → RoleHeld i s →
    StaysHome i s e.val (s.operandB i) →
    let f := fieldAt i 0
    f.kind = .src → 128 ≤ f.spec → f.spec < 136 →
    (∀ n, 1 ≤ n → n < 4 → (let g := fieldAt i n
      ((g.kind.scalar = true ∧ (g.spec < 128 ∨ g.spec = 145)) ∨ g.kind = .none ∨ g.kind = .psrc ∨ g.kind = .pdst) ∧
        InWindow s g ∧ FullSource s g ∧ CleanSource s g)) → FreeDest i s →
    (s.core s.cur.1).port f.spec = e :: rest → e.filled = true → e.poison = false →
    ∃ v, Issues i s v ((s.modCore s.cur.1 (fun k => k.setPort f.spec rest)).advance s.cur.1 s.cur.2 (lengthOf i)) ∧
      v.a = e.val ∧ v.b = s.operandB i ∧ v.c = s.fieldVal (fieldAt i 2)) ∧
  (∀ (t : State) (x : Ctx) (spec : Nat) (w : Word), (t.slot x.c x.n).paired = false → Takes x spec w t →
    let u := t.stored x spec w
    let base := (t.slot x.c x.n).sbase
    writeDst x spec w t = .ok u ∧ SameMemory t u ∧ SameCores x.c t u ∧ u.devs = t.devs ∧ u.net = t.net ∧
    (spec < 128 → (u.core x.c).entry (base + spec) = { val := w, full := true, pend := false, poison := false, tag := 0 }) ∧
    (∀ e, (spec < 128 → e ≠ base + spec) → (u.core x.c).entry e = (t.core x.c).entry e) ∧
    (spec = 145 → u = t) ∧
    (128 ≤ spec → spec < 136 → (u.core x.c).port spec = (t.core x.c).port spec ++ [{ val := w, writer := x.n }]) ∧
    (∀ p, p ≠ spec → p < 144 → (u.core x.c).port p = (t.core x.c).port p) ∧
    (∀ n, u.slot x.c n = t.slot x.c n))

/-- R30, R69, R70, R71: the frame of the integer, move, predicate and float-free scalar instructions on registers:
when the destination takes the value, nothing changes but the destination, the pc and, for a predicate destination,
the predicates: every other entry, slot, core, device, access and byte of memory is as before. -/
def Obligations.ScalarFrame : Prop :=
  ∀ (i : Instr) (s t u : State) (v : Vals), Executes i s → RegisterForm i → Issues i s v t →
    (∃ o k, i ∈ [.add o, .sub o, .mul o, .mulh o, .and o, .or o, .xor o, .andn o, .shl o, .shr o, .sra o, .rot o, .min o,
      .max o, .clz o, .ctz o, .popc o, .bfx o, .bfi o, .sel o, .cmp o, .mov o, .lea o, .ext o, .adds o, .madd o, .plog o,
      .pmovReadWord o, .pmovReadPred o, .pmovWritePred o, .nop o, .br o, .call o, .loop o, .fclass o, .fsgn o,
      .addCompact k, .subCompact k, .mulCompact k, .mulhCompact k, .andCompact k, .orCompact k, .xorCompact k,
      .andnCompact k, .shlCompact k, .shrCompact k, .sraCompact k, .rotCompact k, .minCompact k, .maxCompact k,
      .clzCompact k, .ctzCompact k, .popcCompact k, .selCompact k, .cmpCompact k, .movCompact k, .addi k, .brCompact k]) →
    exec i s = .next u →
    (∀ a, cellGet u.mem a = cellGet s.mem a) ∧ { u with cores := [] } = { s with cores := [] } ∧
    SameCores s.cur.1 s u ∧ SameSlots s.cur.1 s.cur.2 s u ∧
    (∀ e, ((descOf i).d ∈ [Kind.dst, .dreg, .dregz] → (opndOfInstr i).d.toNat < 128 →
        e ≠ s.here.sbase + (opndOfInstr i).d.toNat) → (u.core s.cur.1).entry e = (s.core s.cur.1).entry e) ∧
    { u.core s.cur.1 with slots := [], sfile := [] } = { s.core s.cur.1 with slots := [], sfile := [] } ∧
    { u.here with pc := 0, preds := 0 } = { s.here with pc := 0, preds := 0 } ∧
    ((descOf i).d ≠ .pdst → u.here.preds = s.here.preds)

/-! ### Traps (06) -/

/-- R111: a trap outside handler mode, with a handler, saves the pc in %tepc, the cause and subcode in %tcause and the
value in %tval, sets H and goes to %tvec; the slot's other registers, its vector registers, every other slot and memory
are as before. R113:
a trap in handler mode, or with %tvec = 0, other than POISON, is parked for the headframe: the slot leaves rotation to
be spilled, with the trap registers written and the nesting noted. R116: POISON in handler mode, or with %tvec = 0,
kills the slot: while it has accesses or vector instructions outstanding it waits out of rotation, its accesses dead;
with none it has no task any more, its scalar and vector windows are zero, full and clean, and its claims are
destroyed. -/
def Obligations.TrapEntry : Prop :=
  (∀ (s : State) (c n : Nat) (t : Trap), (s.slot c n).paired = false → n ≠ 62 → (s.slot c n).hmode = false →
    (s.slot c n).tvec ≠ 0 →
    let sl := s.slot c n
    let u := s.takeTrap c n t
    (u.slot c n).tepc = sl.pc.setWidth 64 ∧ (u.slot c n).tcause = BitVec.ofNat 64 (t.sub % 256 * 256 + t.cause % 256) ∧
    (u.slot c n).tval = t.val ∧ (u.slot c n).hmode = true ∧ (u.slot c n).pc = sl.tvec.setWidth 56 ∧
    (u.slot c n).run = sl.run ∧ (u.slot c n).preds = sl.preds ∧ (u.slot c n).trapEn = sl.trapEn ∧
    (u.slot c n).tvec = sl.tvec ∧ (u.slot c n).timer = sl.timerAt (s.now c + 1) ∧ (u.slot c n).msgs = sl.msgs ∧
    (u.slot c n).vshape = sl.vshape ∧ (u.slot c n).savearea = sl.savearea ∧ (u.slot c n).taskw = sl.taskw ∧
    SameSlots c n s u ∧ SameCores c s u ∧ (∀ e, (u.core c).entry e = (s.core c).entry e) ∧
    (∀ r, (u.core c).vreg r = (s.core c).vreg r) ∧
    { u with cores := [] } = { s with cores := [] }) ∧
  (∀ (s : State) (c n : Nat) (t : Trap), (s.slot c n).paired = false → n ≠ 62 →
    ((s.slot c n).hmode = true ∨ (s.slot c n).tvec = 0) → t.cause ≠ 0x12 →
    let sl := s.slot c n
    let u := s.takeTrap c n t
    (u.slot c n).run = .out [.spilled] ∧ (sl.spill = none → (u.slot c n).spill = some .trap) ∧
    (sl.spill = some .discard → (u.slot c n).spill = some .discard) ∧ (u.slot c n).nested = sl.hmode ∧
    (u.slot c n).pc = sl.pc ∧ (u.slot c n).tepc = sl.pc.setWidth 64 ∧ (u.slot c n).tval = t.val ∧
    (u.slot c n).tcause = BitVec.ofNat 64 (t.sub % 256 * 256 + t.cause % 256) ∧
    .event (.spill c n) ∈ u.agenda ∧ SameSlots c n s u ∧ (∀ e, (u.core c).entry e = (s.core c).entry e) ∧
    (∀ c', c' ≠ c → (sl.gang = false → u.core c' = s.core c') ∧
      { u.core c' with spillQ := [] } = { s.core c' with spillQ := [] }) ∧
    (s.taskRec (c / 512) sl.task = none → SameMemory s u)) ∧
  (∀ (s : State) (c n : Nat) (val : Word), (s.slot c n).paired = false → n ≠ 62 →
    ((s.slot c n).hmode = true ∨ (s.slot c n).tvec = 0) →
    let sl := s.slot c n
    let u := s.takeTrap c n ⟨0x12, 0, val⟩
    let busy := (∃ a ∈ s.own c n, a.stage ≠ .parked ∧ a.stage ≠ .placing) ∨ ∃ o ∈ (s.core c).vops, o.slot = n
    (∀ a ∈ u.net, a.core = c → a.slot = n → a.dead = true) ∧
    (busy → (u.slot c n).run = .out [.killed] ∧ SameCores c s u ∧ SameMemory s u ∧
      (∀ e, (u.core c).entry e = (s.core c).entry e)) ∧
    (¬ busy → (u.slot c n).live = false ∧ (sl.gang = false → (u.slot c n).run = .free ∧ SameCores c s u) ∧
    (∀ e, sl.sbase ≤ e → e < sl.sbase + sl.scount → (u.core c).entry e = {}) ∧
    (∀ e, ¬ (sl.sbase ≤ e ∧ e < sl.sbase + sl.scount) → (u.core c).entry e = (s.core c).entry e) ∧
    (∀ r, (u.core c).vreg r = if sl.vbase ≤ r ∧ r < sl.vbase + sl.vcount then {} else (s.core c).vreg r) ∧
    (∀ k, ((s.core c).claim k).valid = true → ((s.core c).claim k).slot = n → ((s.core c).claim k).saved = none →
      ((u.core c).claim k).valid = false)))

/-! ### Words, fetching and steps (03, 02) -/

/-- R38, R39, R43: decoding the words of any well-formed instruction gives it back with its length, every field at
every value that its encoding admits. -/
def Obligations.DecodeOfEncode : Prop :=
  ∀ i : Instr, wellFormed i = true → shapeOf i ≠ .event → ∃ len, decodeList (encode i) = .ok i len ∧
    (ofSlot i = true → len = lengthOf i)

/-- R31, R40, R44 to R49, R54, R56: an encoding with an undefined value, specifier or field takes ILLEGAL with the
lowest subcode that applies, and an unassigned opcode is no instruction. R31, R36: a word that is no instruction takes
ILLEGAL_LENGTH when its length field is 0b10, else ILLEGAL with subcode 1, with the word in %tval, whatever its guard. A
turn whose words decode to an illegal encoding takes ILLEGAL with its subcode and the first word in %tval. -/
def Obligations.RefusedEncodings : Prop :=
  (∀ (op : Nat) (o : Opnd) (k : Nat), op < 256 → illegalSub op o = some k → k ≠ 1 →
    decode (encWord0 op o) (encWord1 o) (o.lit.getD 0) = .illegal k) ∧
  (∀ (op : Nat) (o : Opnd), op < 256 → assigned op = false →
    ∃ len, decode (encWord0 op o) (encWord1 o) (o.lit.getD 0) = .ok (.notAnInstruction (encWord0 op o)) len) ∧
  (∀ (op6 : Nat) (k : Compact) (n : Nat) (w1 w2 : BitVec 32), op6 ≤ 0x1B → compactSub op6 k = some n →
    decode (encCompact op6 k) w1 w2 = .illegal n) ∧
  (∀ (op6 : Nat) (k : Compact) (w1 w2 : BitVec 32), 0x1B < op6 → op6 < 64 →
    decode (encCompact op6 k) w1 w2 = .ok (.notAnInstruction (encCompact op6 k)) 4) ∧
  (∀ (w0 w1 w2 : BitVec 32), w0.toNat % 4 = 2 → decode w0 w1 w2 = .ok (.notAnInstruction w0) 4) ∧
  (∀ (w0 : BitVec 32) (s : State), s.here.live = true →
    exec (.notAnInstruction w0) s = .next (s.takeTrap s.cur.1 s.cur.2
      (if w0.toNat % 4 = 2 then ⟨2, 0, w0.setWidth 64⟩ else ⟨1, 1, w0.setWidth 64⟩))) ∧
  (∀ (s : State) (c n k : Nat) (w0 w1 w2 : BitVec 32), s.fetch c n = .words w0 w1 w2 → decode w0 w1 w2 = .illegal k →
    s.slotTurn c n = .next ((s.fetched c n (max 1 (wordsOf w0))).takeTrap c n ⟨1, k, w0.setWidth 64⟩))

/-- R43 to R48, R73: words that the manual writes out decode to the instructions that it names for them. -/
def Obligations.WrittenWordsDecode : Prop :=
  decode 0x40148258 0 0 = .ok (.cmpCompact { g := 0, gn := false, d := 2, a := 4, b := 5, fn5 := 8 }) 4 ∧
  decode 0x182D4910 0 0 = .ok (.divCompact { g := 0, gn := false, d := 9, a := 10, b := 11, fn5 := 3 }) 4 ∧
  decode 0x80082354 0 0 = .ok (.selCompact { g := 0, gn := false, d := 3, a := 1, b := 2, fn5 := 16 }) 4 ∧
  decode 0x08040C55 0x00C00000 0 = .ok (.sel ⟨0, false, 3, 1, 2, 0, false, false, false, false, 48, none⟩) 8 ∧
  decode 0x1000144D 0x10080000 0 = .ok (.bfx ⟨0, false, 5, 0, 4, 0, false, false, false, false, 0x402, none⟩) 8

/-- R25, R57: a turn of a slot in rotation that has no trap and no TIMER to take runs the instruction that its words
decode to: the step is that instruction's meaning, after the fetch; an illegal encoding takes ILLEGAL with its subcode
(R40). Before it the claims of the core whose deadlines have come expire (R110), and after it the slots whose waits the
step has ended are released (R27). -/
def Obligations.StepRunsTheDecodedInstruction : Prop :=
  (∀ (s : State) (r : List Choice) (c n : Nat) (w0 w1 w2 : BitVec 32),
    (s.inbox = .turn c :: r ∨ (s.inbox = [] ∧ r = [] ∧ s.agenda = [] ∧ s.focus = c)) →
    let k := s.core c
    let s1 : State := ({ s with inbox := r } : State).setCore c { k with pos := k.pos + 1 }
    let s2 : State := ({ s1 with cur := (c, n) } : State).claimsAt c (({ s1 with cur := (c, n) } : State).now c)
    let s3 : State := s2.fetched c n (max 1 (wordsOf w0))
    k.order[k.pos]? = some n → s2.here.run = .ready → s2.here.hit = none →
    (s2.here.hmode = true ∨ s2.here.timerDue (s2.now c) = false) →
    s2.fetch c n = .words w0 w1 w2 →
    (∀ i len, decode w0 w1 w2 = .ok i len → step s = Out.released (exec i s3)) ∧
    (∀ sub, decode w0 w1 w2 = .illegal sub → step s = .next (s3.takeTrap c n ⟨1, sub, w0.setWidth 64⟩).release) ∧
    (∀ n', s3.slot c n' = s2.slot c n') ∧ SameMemory s2 s3 ∧ s3.cur = (c, n) ∧
    ((∀ j d, ((s.core c).claim j).valid = true → ((s.core c).claim j).deadline = some d → ({ s1 with cur := (c, n) } : State).now c < d) →
      s2 = { s1 with cur := (c, n) })) ∧
  (∀ u : State, { u.release with cores := [] } = { u with cores := [] } ∧
    ∀ c n, { u.release.core c with slots := [] } = { u.core c with slots := [] } ∧
      ((∀ ws, (u.slot c n).run = .out ws → (u.slot c n).spill = none → (∀ w ∈ ws, u.waitOver c n w = true) →
        u.release.slot c n = { u.slot c n with run := .out [.over] }) ∧
      ((∀ ws, (u.slot c n).run = .out ws → (u.slot c n).spill ≠ none ∨ ∃ w ∈ ws, u.waitOver c n w = false) →
        u.release.slot c n = u.slot c n)))

/-- R36, R37: the words of an instruction are the bytes of device memory at its translated address, first word first;
its pages are executable, not writable and of TGT 0. R37, R55: a fetch outside the translated region, from a writable
or not executable page, or from memory that is no device memory takes PROTECTION or TRANSLATION with subcode 0x01 and
the word's address, and a turn takes it. That a fetch reads memory as it stands, with no instruction cache, is the
model's choice (assumption log 60). -/
def Obligations.Fetching : Prop :=
  (∀ (s : State) (c n : Nat) (e : Nat → Tlb),
    let sl := s.slot c n
    (∀ k, k < 3 → areaOf (wordVa sl.pc k) = .xlat ∧ s.look c sl.space (wordVa sl.pc k) = .hit (e k) ∧
      (e k).x = true ∧ (e k).w = false ∧ (e k).tgt = 0) →
    let word (k : Nat) : BitVec 32 :=
      BitVec.ofNat 32 (s.readNum sl.space (.dram (c / 512) ((e k).frame + wordVa sl.pc k % (e k).size)) 4)
    s.fetch c n = .words (word 0) (if 2 ≤ wordsOf (word 0) then word 1 else 0) (if 3 ≤ wordsOf (word 0) then word 2 else 0)) ∧
  (∀ (s : State) (c n : Nat), let va := (s.slot c n).pc.toNat
    (∀ off, areaOf va = .near off → s.fetch c n = .trap ⟨0x0A, 1, BitVec.ofNat 64 va⟩) ∧
    (∀ x off, areaOf va = .pad x off → s.fetch c n = .trap ⟨0x0A, 1, BitVec.ofNat 64 va⟩) ∧
    (areaOf va = .bad → s.fetch c n = .trap ⟨0x09, 1, BitVec.ofNat 64 va⟩) ∧
    (∀ e, areaOf va = .xlat → s.look c (s.slot c n).space va = .hit e → (e.x = false ∨ e.w = true ∨ e.tgt ≠ 0) →
      s.fetch c n = .trap ⟨0x0A, 1, BitVec.ofNat 64 va⟩)) ∧
  (∀ (s : State) (c n : Nat) (t : Trap), (s.slot c n).run = .ready → s.fetch c n = .trap t →
    s.look c (s.slot c n).space t.val.toNat ≠ .fault 8 → exec (.fetchFault c n) s = .next (s.takeTrap c n t))

/-- The machine goes on from every state: no step faults or refuses (the one fault of the model, an instruction in a
slot without a task, is reached by no step, R29). -/
def Obligations.EveryStepIsSafe : Prop :=
 ∀ s : State, Safe s

/-- R126, R130, R192, R232, R283, R337, R349: what reset leaves, as far as the manual says it: every slot free, every
register of the scalar and vector files full and clean, %tcfg 0x4040, accumulators UNSET with OVF 0, queues empty,
semaphores 0 without waiters, claims invalid, chain entries and tokens FREE, granules FREE, no graph resident, every
device at READY, not busy, nothing in flight. The memory of the machine right after reset is in canonical form. The zeros
of memory and of registers that the manual gives no value, and READY as the state where the model begins, are the
model's choice (assumption logs 1, 3, 5 and 36). -/
def Obligations.ResetState : Prop :=
  (let s := State.reset
  (∀ c n, (s.slot c n).run = .free) ∧
  (∀ c e, (s.core c).entry e = { val := 0, full := true, pend := false, poison := false, tag := 0 }) ∧
  (∀ c r, (s.core c).vreg r = { val := 0, full := true, pend := false }) ∧ (∀ c n, (s.core c).tcfgAt n = 0x4040) ∧ (∀ c n, (s.core c).tile n = { cells := [], full := true }) ∧
  (∀ c n, ((s.core c).acc n).full = true ∧ ((s.core c).acc n).unset = true ∧ ((s.core c).acc n).ovf = false) ∧
  (∀ c p, (s.core c).port p = []) ∧ (∀ c m, (s.core c).sem m = { count := 0, waiters := [] }) ∧
  (∀ c k, ((s.core c).claim k).valid = false ∧ ((s.core c).claim k).gen = 0) ∧
  (∀ c k, ((s.core c).chain k).st = .free ∧ ((s.core c).chain k).serial = 0) ∧
  (∀ c off, s.ownerOf (.pad c off) = 0) ∧ (∀ d, (s.dv d).graphs = [] ∧ (s.dv d).tasks = []) ∧
  (∀ d i, (tabGet {} (s.dv d).tokens i).st = .free ∧ (tabGet {} (s.dv d).tokens i).gen = 0) ∧ (∀ d, (s.dv d).stage = 6 ∧ (s.dv d).busy = false) ∧
  s.net = [] ∧ (∀ a, cellGet s.mem a = 0)) ∧
  (Memory.wf State.reset.mem = true)

/-- The memory keeps its canonical form (keys rising, no blank byte listed) over every step. -/
def Obligations.MemoryStaysCanonical : Prop :=
  ∀ s t : State, Memory.wf s.mem = true → step s = .next t → Memory.wf t.mem = true

/-! ### Memory instructions (05) -/

/-- R46, R95 to R97: a load of the own scratchpad is complete at once: its bytes, lowest first, extended, go to the
destination; memory is as before, and the granule is the space's own from then on (R283). R46, R95 to R97: a store or
an atomic without result on the own scratchpad leaves its new number in its bytes; every byte outside them reads as
before, every other word keeps its poison mark, and nothing else of the state changes but the owner of the granule. R97: an atomic or compare-and-swap on the
own scratchpad returns the old number, extended, and leaves the new one in its bytes; every byte outside them reads as
before. R99: a load whose bytes include a poisoned word delivers its value poisoned with the lowest tag, and no trap. -/
def Obligations.LocalAccesses : Prop :=
  (∀ (i : Instr) (s t : State) (v : Vals) (off : Nat),
    ((∃ o, i = .ld o) ∨ (∃ k, i = .ldDCompact k)) →
    Issues i s v t → Alone s → Quiet t → LocalAccess i t v off → CleanBytes i t off →
    let w := extendedTo (widthIn i) (signed i) (oldNum i t off)
    let t' := t.takePad t.here.space (.pad t.cur.1 off)
    TakesD (ctxOf i s) w t' →
    exec i s = .next (t'.storedD (ctxOf i s) w)) ∧
  (∀ (i : Instr) (s t : State) (v : Vals) (off x : Nat),
    ((∃ o, i = .st o ∨ i = .amon o) ∨ (∃ k, i = .stDCompact k)) →
    Issues i s v t → Alone s → Quiet t → Memory.wf t.mem = true → LocalAccess i t v off → CleanBytes i t off →
    newNum i v (oldNum i t off) = some x →
    ∃ u, exec i s = .next u ∧ StoredAt t u (keyOf (.pad t.cur.1 off)) (widthIn i) x ∧ SameButMemory t u ∧
      u.owner = tabPut t.owner (keyOf (.pad t.cur.1 off) / 65536) (t.here.space + 1) ∧
      u.tagOf (keyOf (.pad t.cur.1 off)) (widthIn i) = 0 ∧
      (∀ k, k / 8 ≠ keyOf (.pad t.cur.1 off) / 8 → u.wordTag k = t.wordTag k)) ∧
  (∀ (i : Instr) (s t : State) (v : Vals) (off x : Nat),
    (∃ o, i = .amo o ∨ i = .cas o) →
    Issues i s v t → Alone s → Quiet t → Memory.wf t.mem = true → LocalAccess i t v off → CleanBytes i t off →
    newNum i v (oldNum i t off) = some x →
    let w := extendedTo (widthIn i) (signed i) (oldNum i t off)
    (∀ t', SameButMemory t t' → TakesD (ctxOf i s) w t') →
    ∃ t', StoredAt t t' (keyOf (.pad t.cur.1 off)) (widthIn i) x ∧ SameButMemory t t' ∧
      (∀ k, k / 8 ≠ keyOf (.pad t.cur.1 off) / 8 → t'.wordTag k = t.wordTag k) ∧
      exec i s = .next (t'.storedD (ctxOf i s) w)) ∧
  (∀ (o : Opnd) (s t : State) (v : Vals) (off : Nat),
    let i := Instr.ld o
    Issues i s v t → Alone s → Quiet t → LocalAccess i t v off → ¬ CleanBytes i t off → o.d.toNat < 128 →
    ∃ u, exec i s = .next u ∧
      (let e := (u.core s.cur.1).entry (t.here.sbase + o.d.toNat)
       e.full = true ∧ e.poison = true ∧ e.tag = BitVec.ofNat 12 (t.tagOf (keyOf (.pad t.cur.1 off)) (widthIn i))) ∧
      SameMemory t u)

/-- R93, R98: an address that is no multiple of the access size takes MISALIGNED with the address in %tval; a granule
owned by another space takes PROTECTION with subcode 0x04, at issue for a relaxed access and where it is performed, once
no access of the slot is in flight, for a default one (R283); an address of no region takes TRANSLATION with subcode
0x02. -/
def Obligations.AccessTraps : Prop :=
  ∀ (i : Instr) (s t : State) (v : Vals),
    ((∃ o, i ∈ [.ld o, .st o, .amo o, .cas o, .amon o]) ∨ (∃ k, i ∈ [.ldDCompact k, .stDCompact k])) →
    Issues i s v t → Alone s →
    ((vaOf i v).toNat % widthIn i ≠ 0 → exec i s = .next (s.takeTrap s.cur.1 s.cur.2 ⟨8, 0, vaOf i v⟩)) ∧
    ((vaOf i v).toNat % widthIn i = 0 → (areaOf (vaOf i v).toNat = .bad →
      exec i s = .next (s.takeTrap s.cur.1 s.cur.2 ⟨9, 2, vaOf i v⟩)) ∧
      (∀ off, ownPlace s.cur.1 (vaOf i v) = some off → t.mayPad t.here.space (.pad s.cur.1 off) = false →
        (opndOfInstr i).rlx = true ∨ Quiet t → exec i s = .next (s.takeTrap s.cur.1 s.cur.2 ⟨10, 4, vaOf i v⟩)))

/-- R101 steps 1 and 2: a default access of device memory through a cached translation is put into a channel as one
access with its operands, and the slot leaves rotation until it is answered; the destination register is
empty-pending. Memory is as before. R101, R352: a channel puts an access at the tail of its home's FIFO, from where
the home's step is due when it is at the head; a store with tokens goes to the hold queue, and a block of a vector
access waits for the earlier blocks of it to that home (R186). The cores, the devices, memory and every other access in
flight are as before. R246: only a request moves to the escape network of its die, and that changes nothing but where it travels. R347: a move to an escape channel moves with
the packet every later packet of its class, source, destination and plane, and nothing else of them changes. R329: a
load of a host or peer page with no completion is answered poisoned with the tag of a record; one of another panel's page
is not (R348). -/
def Obligations.AccessesTravel : Prop :=
  (∀ (i : Instr) (s t : State) (v : Vals) (e : Tlb) (pa : Nat),
    (∃ o, i ∈ [.ld o, .st o, .amo o, .cas o, .amon o]) → (opndOfInstr i).rlx = false →
    (opndOfInstr i).d.toNat < 128 →
    Issues i s v t → Alone s → Quiet t → s.cur.2 ≠ 62 → RemoteDram i t v e pa →
    ∃ u a, exec i s = .next u ∧ Sent t u a ∧ Awaits u a ∧ a.va = (vaOf i v).toNat ∧ a.loc = .dram (s.cur.1 / 512) pa ∧
      a.home = .slice (s.cur.1 / 512) (sliceOf pa) ∧ a.n = widthIn i ∧ ((∀ o, i ≠ .ld o) → a.val = v.c) ∧
      u.here.pc = t.here.pc ∧
      ((∃ o, i ∈ [.ld o, .amo o, .cas o]) → a.dst = .reg (t.here.sbase + (opndOfInstr i).d.toNat) ∧
        (let x := (u.core s.cur.1).entry (t.here.sbase + (opndOfInstr i).d.toNat)
         x.full = false ∧ x.pend = true))) ∧
  (∀ (id : Nat) (s : State) (a : Access), s.acc id = some a → a.stage = .sent →
    let before (b : Access) : Prop := b.core = a.core ∧ b.slot = a.slot ∧ b.par = a.par ∧ b.home = a.home ∧ b.stage = .sent ∧ b.id < a.id
    (a.elems ≠ [] → (∃ b ∈ s.net, before b) → exec (.arrive id) s = .next (s.later (.arrive id))) ∧
    (s.behindFlow a = true → exec (.arrive id) s = .next (s.later (.arrive id))) ∧
    (a.kind ≠ .stw → (∀ ok, a.kind ≠ .answer ok) → a.aside = false → (a.elems = [] ∨ ∀ b ∈ s.net, ¬ before b) → ∃ u, exec (.arrive id) s = .next u ∧ u.fifo = s.fifo ++ [id] ∧
      u.acc id = some { a with stage := .queued } ∧ (∀ b, b ≠ id → u.acc b = s.acc b) ∧ u.cores = s.cores ∧ u.devs = s.devs ∧
      SameMemory s u ∧ (u.agenda = s.agenda ∨ (u.agenda = s.agenda ++ [.event (stepOf a)] ∧ (u.headAt a.home).map (·.id) = some id))) ∧
    (a.kind = .stw → a.aside = false → a.elems = [] → exec (.arrive id) s = .next (s.later (.holdEnter id)))) ∧
  (∀ (id : Nat) (s : State) (a : Access), s.acc id = some a →
    exec (.escapeReroute id) s = .next (if a.stage = .sent ∧ a.kind.request = true then
      { s with net := s.net.map (fun b => if b.id = a.id then { a with escape := true } else b) } else s) ∧
    (a.crossing = false → exec (.escapeChannelMove id) s = .next s) ∧
    (a.crossing = true → ∃ u, exec (.escapeChannelMove id) s = .next u ∧
      u.net = s.net.takeWhile (fun b => b.id != id) ++ (s.net.dropWhile (fun b => b.id != id)).map
        (fun b => if b.crossing = true ∧ s.flowOf b = s.flowOf a then { b with aside := true } else b) ∧
      { u with net := [], flows := [] } = { s with net := [], flows := [] })) ∧
  (∀ (id d : Nat) (sgn : Bool) (s : State) (a : Access), s.acc id = some a → a.kind = .ld sgn → a.home = .host d →
    (a.stage = .sent ∨ a.stage = .queued) → ∀ e x l, s.resolve a = .at (.pci e x) l →
    (x < farPanel → ∃ t r, exec (.hostLoadTimeout id) s = .next (t.answer a r) ∧ r.poison = true ∧
      r.tag = BitVec.ofNat 12 (7 * 256 + (s.dv d).logSeq.toNat % 256) ∧ (t.dv d).logSeq = (s.dv d).logSeq + 1 ∧
      SameMemory s t) ∧
    (farPanel ≤ x → exec (.hostLoadTimeout id) s = .next s))

/-- The number in the bytes of an access at device memory (R3). -/
def dramNum (s : State) (d pa n : Nat) : Nat := numOf ((List.range n).map (fun k => cellGet s.mem (d * 2 ^ 48 + pa + k)))

/-- An access at device memory that it reaches, whose units hold no data of another space's key and no poison. -/
def PlainDram (s : State) (a : Access) (d pa : Nat) : Prop :=
  a.loc = .dram d pa ∧ s.reach (a.core / 512) d = true ∧ (∀ c, a.home ≠ .memPort c) ∧ a.elems = [] ∧ s.tagOf (keyOf a.loc) a.n = 0 ∧
    (∀ u, tabGet 0 s.unitKey u = 0 ∨ tabGet 0 s.unitKey u = s.keyId d a.space)

/-- R97, R101: a memory slice performs the access at the head of its FIFO in one step and answers it: a load returns
its bytes extended, a store leaves its value in its bytes, an atomic does both; every other byte reads as before.
R101, R111: a reply that reaches its slot removes the access, writes the destination register full, and a trap that it
reports is the slot's to take at its next turn, with the instruction's address as its pc and nothing written. -/
def Obligations.AccessesArePerformed : Prop :=
  (∀ (id d pa : Nat) (s : State) (a : Access), s.atHead id = some a → Memory.wf s.mem = true → PlainDram s a d pa →
    let old := dramNum s d pa a.n
    let W := 8 * a.n
    let b := a.val.toNat % 2 ^ W
    let answered (u : State) (val : Word) : Prop :=
      (∃ r : Reply, r.val = val ∧ r.poison = false ∧ r.trap = none ∧ r.refused = false ∧
        ∃ x, u.acc id = some { a with stage := .replied, reply := r, aside := x }) ∧ .event (.complete id) ∈ u.agenda ∧ u.cores = s.cores
    (∀ sgn, a.kind = .ld sgn → ∃ u, exec (.serve id) s = .next u ∧ answered u (extendedTo a.n sgn old) ∧ SameMemory s u) ∧
    (a.kind = .st → ∃ u, exec (.serve id) s = .next u ∧ answered u 0 ∧ StoredAt s u (d * 2 ^ 48 + pa) a.n b) ∧
    (∀ op sgn ret x, a.kind = .amo op sgn ret → atomicRule op W old b = some x →
      ∃ u, exec (.serve id) s = .next u ∧ answered u (if ret then extendedTo a.n sgn old else 0) ∧
        StoredAt s u (d * 2 ^ 48 + pa) a.n x) ∧
    (∀ sgn, a.kind = .cas sgn → ∃ u, exec (.serve id) s = .next u ∧ answered u (extendedTo a.n sgn old) ∧
      StoredAt s u (d * 2 ^ 48 + pa) a.n (if old = a.aux.toNat % 2 ^ W then b else old))) ∧
  (∀ (id e : Nat) (s : State) (a : Access), s.acc id = some a → a.stage = .replied → a.dead = false → a.loose = false →
    a.slot < 64 → a.relaxed = false → a.booked = false → a.aside = false → (s.slot a.core a.slot).paired = false →
    (s.slot a.core a.slot).kill = none →
    ((∃ sgn, a.kind = .ld sgn ∨ a.kind = .cas sgn) ∨ (∃ op sgn ret, a.kind = .amo op sgn ret)) → a.dst = .reg e →
    ∃ u, exec (.complete id) s = .next u ∧ (∀ b ∈ u.net, b.id ≠ id) ∧ SameMemory s u ∧ u.devs = s.devs ∧
      (a.reply.trap = none →
        (u.core a.core).entry e = ⟨a.reply.val, true, false, a.reply.poison, if a.reply.poison then a.reply.tag else 0⟩ ∧
        (u.slot a.core a.slot) = (s.slot a.core a.slot)) ∧
      (∀ t, a.reply.trap = some t → (u.slot a.core a.slot).hit = some t ∧ (u.slot a.core a.slot).pc = a.pc ∧
        (u.core a.core).entry e = { (s.core a.core).entry e with full := a.dstWas, pend := false }))

/-- R103, R105: a fence at SLOT, or a fence with nothing of its scope in flight, only moves the pc; a full fence with
accesses of its scope in flight waits for them; a release fence notes them and goes on. R84: `exit` waits for the
slot's accesses; once they and its vector and matrix instructions are complete its task ends: outside a gang the slot
is free. -/
def Obligations.FencesAndExit : Prop :=
  (∀ (o : Opnd) (s t : State) (v : Vals), Issues (.fence o) s v t → Alone s →
    let sc := o.fn.toNat / 16 % 8
    let own := (t.own s.cur.1 s.cur.2).filter (fun a => inScope s.cur.1 sc a.home)
    let jobs := t.jobsIn s.cur.1 s.cur.2 sc
    (sc = 0 → exec (.fence o) s = .next t) ∧
    (sc ≠ 0 → o.fn.toNat % 4 = 0 → exec (.fence o) s =
      .next (if own = [] ∧ jobs = [] then t else s.leave s.cur.1 s.cur.2 [.gone (own.map (·.id)) jobs])) ∧
    (sc ≠ 0 → o.fn.toNat % 4 = 1 → exec (.fence o) s =
      .next (if own.filter (·.kind.gives) = [] then t
        else s.leave s.cur.1 s.cur.2 [.gone ((own.filter (·.kind.gives)).map (·.id)) []])) ∧
    (sc ≠ 0 → o.fn.toNat % 4 = 2 → ∃ u, exec (.fence o) s = .next u ∧ (sc, own.map (·.id), jobs) ∈ u.here.rels ∧
      { u with cores := [] } = { t with cores := [] } ∧ { u.here with rels := [] } = { t.here with rels := [] })) ∧
  (∀ (o : Opnd) (s t : State) (v : Vals), Issues (.exit o) s v t → Alone s → s.cur.2 ≠ 62 →
    (t.drained s.cur.1 s.cur.2 = false → exec (.exit o) s = .next (s.leave s.cur.1 s.cur.2 [.drain])) ∧
    (t.drained s.cur.1 s.cur.2 = true → t.waitOver s.cur.1 s.cur.2 .vectorIdle = true →
      t.waitOver s.cur.1 s.cur.2 .unitIdle = true →
      ∃ u, exec (.exit o) s = .next u ∧ u = t.completeTask s.cur.1 s.cur.2 (v.a.setWidth 32) ∧
        (u.dv (s.cur.1 / 512)).exits = (t.dv (s.cur.1 / 512)).exits ++ [(t.here.taskw.toNat % 2 ^ 50, v.a.setWidth 32)] ∧
        (s.here.gang = false → (u.slot s.cur.1 s.cur.2).run = .free)))

/-! ### Claims (05) -/

/-- The core, index and generation in `w` are those of claim `i` of core `c`, which is valid (R106, R109). -/
def RefersTo (s : State) (w : Word) (c i : Nat) : Prop :=
  coreOf w = c ∧ w.toNat / 2 ^ 41 % 256 = i ∧ ((s.core c).claim i).valid = true ∧
    ((s.core c).claim i).gen.toNat = w.toNat / 2 ^ 25 % 2 ^ 16

/-- `w` is the name of claim `i` of core `c`, valid and of its generation (R106, R108). -/
def NamesClaim (s : State) (w : Word) (c i : Nat) : Prop := RefersTo s w c i ∧ w.toNat % 2 ^ 25 = 0

/-- Claim `i` of core `c` is valid and its deadline has come (R110). -/
def ClaimDue (s : State) (c i : Nat) : Prop :=
  ((s.core c).claim i).valid = true ∧ ∃ d, ((s.core c).claim i).deadline = some d ∧ d ≤ s.now c

/-- Claim `i` of core `c` is over, its bound register full with `x`; memory and the other claims and registers are as
before (R108, R110). -/
def ClaimFilled (s u : State) (c i : Nat) (x : Entry) : Prop :=
  let e := (s.core c).claim i
  (u.core c).claim i = { e with valid := false, gen := e.gen + 1 } ∧ (u.core c).entry e.reg = x ∧
    (∀ j, j ≠ i → (u.core c).claim j = (s.core c).claim j) ∧ (∀ r, r ≠ e.reg → (u.core c).entry r = (s.core c).entry r) ∧
    SameMemory s u

/-- R107: `claim` binds the lowest invalid entry of the minting table to register c, which becomes empty-pending, and
writes its name; with no invalid entry it takes CLAIM_FULL, and with c = d ILLEGAL with subcode 0x05. R95, R108, R109:
a delivery to a valid claim of the own core fills its register at once, a default one to a stale name, or to a claim
whose deadline has come, takes CLAIM_STALE, and `cdrop` withdraws an own claim, whatever the low 25 bits of its operand,
filling its register with 0, and writes whether it did. R108, R110: a claim table serves the delivery at the head of its
FIFO, filling the register of the claim that it names and answering; one that names no valid claim is refused or traps,
and one from a device that does not reach it leaves a record of class CASRIS too (R345); a delivery to a claim of the
slot that the spill engine is saving waits (R117). A claim whose deadline has come ends with its register full and
poisoned with the tag of a record, which is written to the error log. -/
def Obligations.Claims : Prop :=
  (∀ (o : Opnd) (s t : State) (v : Vals), Issues (.claim o) s v t → Alone s →
    let c := s.cur.1
    let n := s.cur.2
    let e := t.here.sbase + o.c.toNat
    let k := t.core c
    (o.c = o.d → exec (.claim o) s = .next (s.takeTrap c n ⟨1, 5, BitVec.ofNat 64 o.c.toNat⟩)) ∧
    (o.c ≠ o.d → (k.entry e).pend = false → (∀ i, i < 256 → (k.claim i).valid = true) →
      exec (.claim o) s = .next (s.takeTrap c n ⟨0x0E, 0, 0⟩)) ∧
    (∀ i, o.c ≠ o.d → (k.entry e).pend = false → i < 256 → (k.claim i).valid = false →
      (∀ j, j < i → (k.claim j).valid = true) →
      let cls := o.fn.toNat % 4
      let name : Word := BitVec.ofNat 64 (c / 512 * 2 ^ 58 + c % 512 * 2 ^ 49 + i * 2 ^ 41 + (k.claim i).gen.toNat * 2 ^ 25)
      let until' : Option Nat := if cls = 3 then none else some (t.now c + 2 ^ (16 + 4 * cls))
      let cl : Claim := { valid := true, gen := (k.claim i).gen, slot := n, reg := e, deadline := until' }
      let u := t.modCore c (fun k => (k.setClaim i cl).setEntry e { k.entry e with full := false, pend := true })
      TakesD (ctxOf (.claim o) s) name u →
      exec (.claim o) s = .next (u.storedD (ctxOf (.claim o) s) name))) ∧
  (∀ (o : Opnd) (s t : State) (v : Vals) (i : Nat), o.rlx = false → Issues (.dlv o) s v t → Alone s → Quiet t →
    NamesClaim t v.a s.cur.1 i → ¬ ClaimDue t s.cur.1 i → ((t.core s.cur.1).claim i).saved = none →
    (t.core s.cur.1).spilling ≠ some ((t.core s.cur.1).claim i).slot →
    (t.slot s.cur.1 ((t.core s.cur.1).claim i).slot).paired = false →
    ∃ u, exec (.dlv o) s = .next u ∧ ClaimFilled t u s.cur.1 i { val := v.b } ∧ u.here = t.here) ∧
  (∀ (o : Opnd) (s t : State) (v : Vals), o.rlx = false → Issues (.dlv o) s v t → Alone s → Quiet t →
    coreOf v.a = s.cur.1 → (∀ i, NamesClaim t v.a s.cur.1 i → ClaimDue t s.cur.1 i) → (t.core s.cur.1).spilling = none →
    exec (.dlv o) s = .next (s.takeTrap s.cur.1 s.cur.2 ⟨0x0D, 0, v.a⟩)) ∧
  (∀ (o : Opnd) (s t : State) (v : Vals) (i : Nat), Issues (.cdrop o) s v t → Alone s → Quiet t →
    RefersTo t v.a s.cur.1 i → ¬ ClaimDue t s.cur.1 i → ((t.core s.cur.1).claim i).slot = s.cur.2 →
    ((t.core s.cur.1).claim i).saved = none → ∃ u, exec (.cdrop o) s = .next (u.storedP (ctxOf (.cdrop o) s) true) ∧ ClaimFilled t u s.cur.1 i { val := 0 }) ∧
  (∀ (o : Opnd) (s t : State) (v : Vals), Issues (.cdrop o) s v t → Alone s → Quiet t →
    (∀ i, ¬ (RefersTo t v.a s.cur.1 i ∧ ((t.core s.cur.1).claim i).slot = s.cur.2 ∧
      ((t.core s.cur.1).claim i).saved = none)) → ¬ ClaimDue t s.cur.1 (v.a.toNat / 2 ^ 41 % 256) →
    exec (.cdrop o) s = .next (t.storedP (ctxOf (.cdrop o) s) false)) ∧
  (∀ (id i c : Nat) (s : State) (a : Access), s.atHead id = some a → a.kind = .dlv →
    NamesClaim s (BitVec.ofNat 64 a.va) c i → ¬ ClaimDue s c i → s.reach (a.core / 512) (c / 512) = true →
    ((s.core c).claim i).saved = none → (s.slot c ((s.core c).claim i).slot).paired = false →
    ((s.core c).spilling = some ((s.core c).claim i).slot → exec (.claimDelivery id) s = .next s) ∧
    ((s.core c).spilling ≠ some ((s.core c).claim i).slot →
      ∃ t, ClaimFilled s t c i { val := a.val } ∧ exec (.claimDelivery id) s = .next (t.answer a {}))) ∧
  (∀ (id c : Nat) (s : State) (a : Access), s.atHead id = some a → a.kind = .dlv → coreOf (BitVec.ofNat 64 a.va) = c →
    let refusal : Reply := if a.relaxed then { refused := true } else { trap := some ⟨0x0D, 0, BitVec.ofNat 64 a.va⟩ }
    (s.core c).spilling = none →
    (s.reach (a.core / 512) (c / 512) = true → (∀ i, ¬ NamesClaim s (BitVec.ofNat 64 a.va) c i) → (∀ i, ¬ ClaimDue s c i) →
      exec (.claimDelivery id) s = .next (s.answer a refusal)) ∧
    (s.reach (a.core / 512) (c / 512) = false → ∃ t : State, exec (.claimDelivery id) s = .next (t.answer a refusal) ∧
      t.cores = s.cores ∧ SameMemory s t ∧ (t.dv (a.core / 512)).logSeq = (s.dv (a.core / 512)).logSeq + 1 ∧
      ((t.dv (a.core / 512)).record ((s.dv (a.core / 512)).logSeq.toNat % 256)).cls = 6)) ∧
  (∀ (c i t0 : Nat) (s : State), ((s.core c).claim i).valid = true → ((s.core c).claim i).deadline = some t0 →
    t0 ≤ s.now c → ((s.core c).claim i).saved = none → (s.slot c ((s.core c).claim i).slot).paired = false →
    ∃ u x tag, exec (.claimExpiry c i) s = .next u ∧ ClaimFilled s u c i x ∧ x.full = true ∧ x.poison = true ∧
      x.tag = BitVec.ofNat 12 tag ∧ tag = 8 * 256 + (s.dv (c / 512)).logSeq.toNat % 256 ∧
      (u.dv (c / 512)).logSeq = (s.dv (c / 512)).logSeq + 1)

/-! ### Tokens (22) -/

/-- R351 to R353: `stt` mints the next FREE entry of its device's table and sends its store with the token; `stw`
sends its store with the tokens that it carries; `tokq` asks the origin's table. Each default form waits for its
answer. -/
def Obligations.TokenInstructionsAreSent : Prop :=
  (∀ (o : Opnd) (s t : State) (v : Vals) (e : Tlb) (pa i : Nat),
    let d := s.cur.1 / 512
    let tok : Word := BitVec.ofNat 64 (d * 2 ^ 26 + i * 2 ^ 12 + (t.token d i).gen.toNat)
    o.rlx = false → o.d.toNat < 128 → Issues (.stt o) s v t → Alone s → Quiet t → s.cur.2 ≠ 62 →
    RemoteDram (.stt o) t v e pa → t.nextToken d = some i →
    ∃ u a, exec (.stt o) s = .next u ∧ Sent t u a ∧ Awaits u a ∧ a.kind = .stt ∧ a.loc = .dram d pa ∧ a.val = v.c ∧
      a.aux = tok ∧ a.dst = .reg (t.here.sbase + o.d.toNat) ∧ (u.token d i).st = .inflight ∧
      (u.token d i).deadline = t.now s.cur.1 + 2 ^ 24 ∧ (u.token d i).gen = (t.token d i).gen ∧ (u.dv d).lastMint = i) ∧
  (∀ (o : Opnd) (s t : State) (v : Vals) (e : Tlb) (pa : Nat),
    o.rlx = false → Issues (.stw o) s v t → Alone s → Quiet t → s.cur.2 ≠ 62 → RemoteDram (.stw o) t v e pa →
    ∃ u a, exec (.stw o) s = .next u ∧ Sent t u a ∧ Awaits u a ∧ a.kind = .stw ∧ a.loc = .dram (s.cur.1 / 512) pa ∧
      a.val = v.c ∧ a.bulk = (if o.fn.toNat / 2 ^ 7 % 2 = 1 then [v.d.toNat % 2 ^ 32, v.d.toNat / 2 ^ 32]
        else [v.d.toNat % 2 ^ 32])) ∧
  (∀ (o : Opnd) (s t : State) (v : Vals), Issues (.tokq o) s v t → Alone s → Quiet t → s.cur.2 ≠ 62 →
    (v.a.toNat < 2 ^ 32 → ∃ u a, exec (.tokq o) s = .next u ∧ Sent t u a ∧ Awaits u a ∧ a.kind = .tokq ∧
      a.home = .tokens (v.a.toNat / 2 ^ 26 % 64) ∧ a.va = v.a.toNat ∧ a.dst = .pred o.d.toNat) ∧
    (2 ^ 32 ≤ v.a.toNat → exec (.tokq o) s = .next (s.takeTrap s.cur.1 s.cur.2 ⟨1, 5, v.a⟩)))

/-- The token that an access names: device, entry, generation (R349). -/
def NamesToken (a : Access) (d i g : Nat) : Prop :=
  a.val.toNat / 2 ^ 26 % 64 = d ∧ a.val.toNat / 2 ^ 12 % 2 ^ 14 = i ∧ a.val.toNat % 2 ^ 12 = g

/-- R354: a landed notice frees an INFLIGHT entry of its generation, a failed one expires it, and any other notice
changes no entry, nor does one from a device that does not reach its table (R345, R357); a deadline expires an INFLIGHT entry, and an EXPIRED one becomes FREE 2^24 cycles later. The other
entries stay. R352, R354, R356: an arriving store with tokens is held and one query for each token goes to its table;
a table answers a query from its entry's state by a message to the hold, or keeps it with the entry; an answer that arrives
is noted by its hold, whose release is due; a query of a fenced device is dropped, and one that does not reach its table is
answered "expired" (R345, R357; with no plane left that is the model's choice, assumption log 74); a held store all of whose tokens have
landed moves to the tail of its home's FIFO, and a default one with an expired token takes TOKEN_EXPIRED and is not
performed; that it does so at the first EXPIRED answer, before the other token's, is the model's choice (assumption log
26). -/
def Obligations.TokensLandAndExpire : Prop :=
  (let freed (e : Token) : Token := { st := .free, gen := e.gen + 1 }
  let only (s u : State) (d i : Nat) (e : Token) : Prop := u.token d i = e ∧ ∀ j, j ≠ i → u.token d j = s.token d j
  (∀ (id d i g : Nat) (ok : Bool) (s : State) (a : Access), s.atHead id = some a → a.kind = .notice ok → NamesToken a d i g →
    ∃ u, exec (.tokenNotice id) s = .next u ∧ (∀ b ∈ u.net, b.id ≠ id) ∧ SameMemory s u ∧
      (let e := s.token d i
       if s.reach (a.core / 512) d = true ∧ e.st = .inflight ∧ e.gen.toNat = g then
         (if ok then only s u d i (freed e) else only s u d i { e with st := .expired, deadline := (s.dv d).cycle + 2 ^ 24, waiting := [] })
       else only s u d i e)) ∧
  (∀ (d i : Nat) (s : State), (s.token d i).st = .inflight → (s.token d i).deadline ≤ (s.dv d).cycle →
    ∃ u, exec (.tokenDeadline d i) s = .next u ∧ SameMemory s u ∧
      only s u d i { s.token d i with st := .expired, deadline := (s.dv d).cycle + 2 ^ 24, waiting := [] }) ∧
  (∀ (d i : Nat) (s : State), (s.token d i).st = .expired → (s.token d i).deadline ≤ (s.dv d).cycle →
    ∃ u, exec (.tokenEntryFree d i) s = .next u ∧ only s u d i (freed (s.token d i)) ∧ u.cores = s.cores ∧ SameMemory s u)) ∧
  (∀ (id : Nat) (s : State) (a : Access), s.acc id = some a → a.kind = .stw → a.stage = .sent → a.aside = false →
    s.reach (a.core / 512) (holdDie a.home).1 = true →
    (s.net.filter (fun b => b.stage == .hold && holdDie b.home == holdDie a.home)).length < 256 →
    ∃ u qs, exec (.holdEnter id) s = .next u ∧ u.acc id = some { a with stage := .hold } ∧
      u.net = s.net.map (fun b => if b.id = a.id then { a with stage := .hold } else b) ++ qs ∧
      qs.length = a.bulk.length ∧ (∀ q ∈ qs, q.kind = .query a.id ∧ q.stage = .sent) ∧ SameMemory s u) ∧
  (∀ (id d i g hold : Nat) (s : State) (a h : Access), s.atHead id = some a → a.kind = .query hold → NamesToken a d i g →
    hold ≠ id → s.acc hold = some h → a.aux.toNat < 2 →
    let e := s.token d i
    let w := 2 * hold + a.aux.toNat
    let cut := a.core / 512 ≠ d ∧ (s.dv (a.core / 512)).fenced = true
    let lost := (s.dv d).fenced = true ∨ s.reach (a.core / 512) d = false
    ∃ u, exec (.holdQueryAnswer id) s = .next u ∧ SameMemory s u ∧
      (cut → u.token d i = e ∧ u.acc hold = some h) ∧
      (¬ cut → lost → u.token d i = e ∧
        ((∀ p ∈ h.answers, p.1 ≠ a.aux.toNat) → u.acc hold = some { h with answers := h.answers ++ [(a.aux.toNat, false)] })) ∧
      (¬ cut → ¬ lost → u.acc hold = some h ∧
        (if e.gen.toNat = g ∧ e.st = .inflight then u.token d i = { e with waiting := e.waiting ++ [w] }
         else u.token d i = e ∧ ∃ x ∈ u.net, x.kind = .answer (!(decide (e.gen.toNat = g) && decide (e.st = .expired))) ∧
          x.aux = BitVec.ofNat 64 w ∧ x.core = d * 512 ∧ x.home = .part (holdDie h.home).1 (holdDie h.home).2 ∧ x.stage = .sent))) ∧
  (∀ (id : Nat) (ok : Bool) (s : State) (a h : Access), s.acc id = some a → a.kind = .answer ok → a.stage = .sent → a.aside = false →
    a.elems = [] → a.aux.toNat / 2 ≠ id → s.acc (a.aux.toNat / 2) = some h → (∀ p ∈ h.answers, p.1 ≠ a.aux.toNat % 2) →
    s.reach (a.core / 512) a.home.dev = true →
    ∃ u, exec (.arrive id) s = .next u ∧ u.acc (a.aux.toNat / 2) = some { h with answers := h.answers ++ [(a.aux.toNat % 2, ok)] } ∧
      (∀ b ∈ u.net, b.id ≠ id) ∧ .event (.holdRelease h.id) ∈ u.agenda ∧ SameMemory s u) ∧
  (∀ (id : Nat) (s : State) (a : Access), s.acc id = some a → a.stage = .hold →
    ((∀ p ∈ a.answers, p.2 = true) → a.answers.length = a.bulk.length →
      ∃ u, exec (.holdRelease id) s = .next u ∧ u.fifo = s.fifo ++ [id] ∧ u.acc id = some { a with stage := .queued } ∧
        SameMemory s u) ∧
    (∀ tok, firstExpired a = some tok → a.relaxed = false →
      exec (.holdRelease id) s = .next (s.answer a { trap := some ⟨0x0F, 0, BitVec.ofNat 64 tok⟩ })))

/-! ### Messages, semaphores, kicks, active messages (07) -/

/-- R135, R137: `wmsg` pops the oldest message into d, `wmsg.count` writes how many wait; with none the slot waits.
R138, R140: a message to a task of the own core goes to the tail of its queue at once, a kick to the own core to the
tail of its kick queue; to another core each is sent and awaits its answer. R138, R140: a message port appends the
send at its head to the task's queue or refuses it, and a kick queue takes its head while it holds fewer than 32
notices; both answer the sender. -/
def Obligations.MessagesAndKicks : Prop :=
  (∀ (o : Opnd) (s t : State) (v : Vals),
    (Issues (.wmsg o) s v t → Alone s →
      (t.here.msgs = [] → exec (.wmsg o) s = .next (s.leave s.cur.1 s.cur.2 [.message])) ∧
      (∀ m r, t.here.msgs = m :: r →
        let u := t.modSlot s.cur.1 s.cur.2 (fun sl => { sl with msgs := r })
        TakesD (ctxOf (.wmsg o) s) m.word u → exec (.wmsg o) s = .next (u.storedD (ctxOf (.wmsg o) s) m.word))) ∧
    (Issues (.wmsgCount o) s v t → Alone s →
      (t.here.msgs = [] → exec (.wmsgCount o) s = .next (s.leave s.cur.1 s.cur.2 [.message])) ∧
      (t.here.msgs ≠ [] → TakesD (ctxOf (.wmsgCount o) s) (BitVec.ofNat 64 t.here.msgs.length) t →
        exec (.wmsgCount o) s = .next (t.storedD (ctxOf (.wmsgCount o) s) (BitVec.ofNat 64 t.here.msgs.length))))) ∧
  (∀ (o : Opnd) (s t : State) (v : Vals), Issues (.send o) s v t → Alone s → Quiet t → s.cur.2 ≠ 62 →
    0x8000 ≤ v.b.toNat / 2 ^ 48 → v.a.toNat / 2 ^ 32 % 2 ^ 11 = 0 →
    let n := v.a.toNat / 2 ^ 43 % 64
    (coreOf v.a = s.cur.1 → (t.slot s.cur.1 n).live = true → n ≠ 62 →
      (t.slot s.cur.1 n).taskw.toNat % 2 ^ 32 = v.a.toNat % 2 ^ 32 →
      ((t.slot s.cur.1 n).msgs.filter (fun m => !m.sys)).length < 8 →
      exec (.send o) s = .next (t.modSlot s.cur.1 n (fun sl => { sl with msgs := sl.msgs ++ [⟨v.b, false⟩] }))) ∧
    (coreOf v.a ≠ s.cur.1 → ∃ u a, exec (.send o) s = .next u ∧ Sent t u a ∧ Awaits u a ∧ a.kind = .send ∧
      a.home = .msgs (coreOf v.a) ∧ a.va = v.a.toNat ∧ a.val = v.b)) ∧
  (∀ (o : Opnd) (s t : State) (v : Vals), Issues (.sendAm o) s v t → Alone s → Quiet t → s.cur.2 ≠ 62 →
    v.a.toNat % 2 ^ 49 = 0 →
    ∃ u a, exec (.sendAm o) s = .next u ∧ Sent t u a ∧ a.kind = .am ∧ a.home = .memPort (coreOf v.a) ∧ a.val = v.b ∧
      a.aux = v.c ∧ (coreOf v.a = s.cur.1 → a.loose = true ∧ u.here = t.here) ∧ (coreOf v.a ≠ s.cur.1 → Awaits u a)) ∧
  (∀ (o : Opnd) (s t : State) (v : Vals), Issues (.kick o) s v t → Alone s → Quiet t → s.cur.2 ≠ 62 →
    v.a.toNat % 2 ^ 49 = 0 → t.here.sysUse < 8 →
    (coreOf v.a = s.cur.1 → (t.core s.cur.1).kicks.length < 32 → ∃ u, exec (.kick o) s = .next u ∧
      (u.core s.cur.1).kicks = (t.core s.cur.1).kicks ++ [⟨v.b, s.cur.1, s.cur.2, t.here.taskw⟩] ∧
      u.here.booked = t.here.booked + 1 ∧ SameMemory t u) ∧
    (coreOf v.a ≠ s.cur.1 → ∃ u a, exec (.kick o) s = .next u ∧ Sent t u a ∧ Awaits u a ∧ a.kind = .kick ∧
      a.home = .kicks (coreOf v.a) ∧ a.val = v.b ∧ u.here.booked = t.here.booked + 1)) ∧
  (∀ (id c n : Nat) (s : State) (a : Access), s.atHead id = some a → a.kind = .send →
    coreOf (BitVec.ofNat 64 a.va) = c → a.va / 2 ^ 43 % 64 = n → s.reach (a.core / 512) (c / 512) = true →
    (s.slot c n).live = true → n ≠ 62 → (s.slot c n).taskw.toNat % 2 ^ 32 = a.va % 2 ^ 32 →
    exec (.messageAccept id) s =
      (if ((s.slot c n).msgs.filter (fun m => !m.sys)).length < 8 then
        .next ((s.modSlot c n (fun sl => { sl with msgs := sl.msgs ++ [⟨a.val, false⟩] })).answer a {})
       else .next (s.answer a { trap := some ⟨0x17, 2, 256⟩ }))) ∧
  (∀ (id c : Nat) (s : State) (a : Access), s.atHead id = some a → a.kind = .kick → coreOf (BitVec.ofNat 64 a.va) = c →
    s.reach (a.core / 512) (c / 512) = true →
    ((s.core c).kicks.length < 32 → exec (.kickAccept id) s =
      .next ((s.modCore c (fun k => { k with kicks := k.kicks ++ [⟨a.val, a.core, a.slot, a.taskw⟩] })).answer a {})) ∧
    (32 ≤ (s.core c).kicks.length → ∃ t w, exec (.kickAccept id) s = .next (t.answer a { trap := some ⟨0x17, 2, w⟩ }) ∧
      t.cores = s.cores ∧ SameMemory s t))

/-- R130, R131: `sem.wait` takes a unit or joins the tail of the waiter list, `sem.post` raises the count or gives a
unit to the slot that has waited longest, and `sem.try` takes a unit if there is one and writes whether it did. -/
def Obligations.Semaphores : Prop :=
  ∀ (o : Opnd) (s t : State) (v : Vals),
    let m := o.fn.toNat % 16
    let c := s.cur.1
    let y := (t.core c).sem m
    (Issues (.semWait o) s v t → Alone s → exec (.semWait o) s = .next (
      if 0 < y.count then t.modCore c (fun k => k.setSem m { y with count := y.count - 1 })
      else ((t.modCore c (fun k => k.setSem m { y with waiters := y.waiters ++ [s.cur.2] })).leave c s.cur.2 [.sem m]).modSlot
        c s.cur.2 (fun sl => { sl with pc := s.here.pc }))) ∧
    (Issues (.semPost o) s v t → Alone s → y.waiters = [] → exec (.semPost o) s =
      .next (if y.count < 65535 then t.modCore c (fun k => k.setSem m { y with count := y.count + 1 })
        else s.takeTrap c s.cur.2 ⟨1, 5, 65535⟩)) ∧
    (∀ w r, Issues (.semPost o) s v t → Alone s → y.waiters = w :: r → y.count = 0 → (t.slot c w).paired = false →
      ∃ u, exec (.semPost o) s = .next u ∧ (u.core c).sem m = { count := 0, waiters := r } ∧
        (u.slot c w).run = .out [.over] ∧ (u.slot c w).pc = (t.slot c w).pc + 8 ∧ SameSlots c w t u ∧ SameMemory t u) ∧
    (Issues (.semTry o) s v t → Alone s → exec (.semTry o) s = .next (
      if 0 < y.count then (t.modCore c (fun k => k.setSem m { y with count := y.count - 1 })).storedP (ctxOf (.semTry o) s) true
      else t.storedP (ctxOf (.semTry o) s) false))

/-- R124, R125: the active message at the head of a memory port starts its handler on slot 62, in the sender's space,
with the argument, the sender's core and task in x0 to x2; a handler that has issued 256 instructions ends. That the low
two bits of the handler's pc are taken as zero is the model's choice (assumption log 25). R50, R128: the values that wait
at `runq` are placed at the tail of the priority that each names, in their order, as far as it has room, and the others
go on waiting in their order. -/
def Obligations.HandlersAndTheRunQueue : Prop :=
  (∀ (c : Nat) (s : State) (a : Access), s.headAt (.memPort c) = some a → a.kind = .am →
    s.reach (a.core / 512) (c / 512) = true → (s.core c).traceEn = false →
    ∃ u, exec (.activeMessageRun c) s = .next u ∧ (u.slot c 62).run = .ready ∧
      (u.slot c 62).pc = BitVec.ofNat 56 (a.val.toNat / 4 * 4) ∧ (u.slot c 62).space = a.space ∧
      (u.slot c 62).sbase = 2016 ∧ (u.slot c 62).scount = 32 ∧ ((u.core c).entry 2016).val = a.aux ∧
      ((u.core c).entry 2017).val = BitVec.ofNat 64 (if (s.dv (a.core / 512)).onPanel = true ∧ (s.dv (a.core / 512)).stage = 6 then
        Config.panel.toNat * 2 ^ 15 + a.core else a.core % 512) ∧
      ((u.core c).entry 2018).val = BitVec.ofNat 64 (a.taskw.toNat % 2 ^ 50) ∧
      (∀ e, 2019 ≤ e → (u.core c).entry e = {}) ∧ (∀ e, e < 2016 → (u.core c).entry e = (s.core c).entry e) ∧
      (u.core c).am = some ⟨a.core, a.taskw, 0, none⟩ ∧ SameMemory s u) ∧
  (∀ (c : Nat) (s : State) (m : Am), (s.core c).am = some m → 256 ≤ m.count →
    ∃ u, exec (.handlerAbort c) s = .next u ∧ (u.core c).am = none ∧ (u.slot c 62).run = .free ∧
      (∀ a ∈ u.net, a.core = c → a.slot = 62 → a.dead = true)) ∧
  (∀ (c : Nat) (s : State), let k := s.core c
    ∃ u, exec (.runqDeferredPlace c) s = .next u ∧ (u.core c).runqWait.Sublist k.runqWait ∧
      (∀ pr, pr < 4 →
        let mine := k.runqWait.filter (fun e => decide (e.val.toNat / 2 ^ 62 = pr))
        let room := 64 - (k.port (160 + pr)).length
        (u.core c).port (160 + pr) = k.port (160 + pr) ++ (mine.take room).map (fun e => { e with key := 0 }) ∧
        (u.core c).runqWait.filter (fun e => decide (e.val.toNat / 2 ^ 62 = pr)) = mine.drop room) ∧
      (∀ p, p < 160 ∨ 164 ≤ p → (u.core c).port p = k.port p) ∧ SameMemory s u ∧ SameCores c s u)

/-! ### Tasks, spawning and levels (11, 18) -/

/-- R213, R214, R241: `go` to device memory leaves a task within the radius where it is, sends one that may move on
its way with the hint and the radius, and takes MIGRATE for one held to its core. R211, R214: a task on its way is
seated within its radius of its hint as soon as it is first in turn: the slot holds what the task carried and rejoins
at the next round start, and the record names the seat. -/
def Obligations.GoMovesTheTask : Prop :=
  (∀ (o : Opnd) (s t : State) (v : Vals) (e : Tlb) (pa : Nat), Issues (.go o) s v t → Alone s →
    t.own s.cur.1 s.cur.2 = [] → t.waitOver s.cur.1 s.cur.2 .vectorIdle = true → t.waitOver s.cur.1 s.cur.2 .unitIdle = true →
    CardInDram t (v.a + v.b) e pa → e.tgt = 0 →
    let radius := o.fn.toNat % 8
    let hint := match e.owner with
      | some k => k
      | none => sliceCore (sliceOf pa)
    (HeldToCore t → exec (.go o) s = .next (s.takeTrap s.cur.1 s.cur.2 ⟨0x16, 0, v.a + v.b⟩)) ∧
    (¬ HeldToCore t → within radius hint (s.cur.1 % 512) = true →
      ∃ u, exec (.go o) s = .next u ∧ u.here = t.here ∧ u.devs = t.devs ∧ u.net = t.net ∧ SameMemory t u) ∧
    (∀ r, ¬ HeldToCore t → within radius hint (s.cur.1 % 512) = false → t.taskRec (s.cur.1 / 512) t.here.task = some r →
      ∃ u r' y, exec (.go o) s = .next u ∧ u.here.run = .free ∧ u.taskRec (s.cur.1 / 512) t.here.task = some r' ∧
        r'.st = .transit ∧ r'.carry = some y ∧ y.hint = hint ∧ y.radius = radius ∧ y.slot.pc = t.here.pc ∧ y.slot.trapEn = 0 ∧
        SameMemory t u)) ∧
  (∀ (d k : Nat) (s : State) (r : TaskRec) (y : Carry) (q : Seat), s.taskRec d k = some r → r.st = .transit →
    r.carry = some y → s.moveSeats d r = [q] → (∀ p ∈ (s.ranked d).takeWhile (fun p => p.1 != k), s.seatable d p.1 p.2 = false) →
    ∃ u, exec (.taskMigrateSeat d k) s = .next u ∧
      (let x := u.slot q.core q.slot
       x.run = .out [.over] ∧ x.pc = y.slot.pc ∧ x.preds = y.slot.preds ∧ x.trapEn = y.slot.trapEn ∧ x.tvec = y.slot.tvec ∧
         x.task = y.slot.task ∧ x.sbase = q.sbase ∧ x.scount = y.slot.scount) ∧
      (∀ n, n < y.regs.length → n < y.slot.scount → (u.core q.core).entry (q.sbase + n) = nth {} y.regs n) ∧
      (∃ r', u.taskRec d k = some r' ∧ r'.st = .seated ∧ r'.core = q.core ∧ r'.slot = q.slot ∧ r'.carry = none) ∧
      SameMemory s u)

/-- R215, R297, R311, R312, R314: `spawn`, `lvget` and `lvcommit` are sent to the partition that serves them and
awaited; the partition gives a spawned task the next number and its record; the board answers `lvget` with the item
that it names, and a commit advances the level, flips the buffer and keeps or takes the step, or, where live levels
would spread too far, leaves the block FROZEN and takes LEVEL_SPREAD. -/
def Obligations.SpawnAndLevels : Prop :=
  (∀ (o : Opnd) (s t : State) (v : Vals), Issues (.spawn o) s v t → Alone s → Quiet t → o.d.toNat < 128 →
    v.a.toNat < 2 ^ 12 → v.b.toNat % 8 = 0 →
    ∃ u a, exec (.spawn o) s = .next u ∧ Sent t u a ∧ Awaits u a ∧ a.kind = .spawn ∧
      a.home = .part (s.cur.1 / 512) (s.cur.1 % 512 / 128) ∧ a.val = v.a ∧ a.va = v.b.toNat ∧
      a.dst = .reg (t.here.sbase + o.d.toNat)) ∧
  (∀ (o : Opnd) (s t : State) (v : Vals), Issues (.lvget o) s v t → Alone s → Quiet t → o.d.toNat < 128 → s.cur.2 ≠ 62 →
    ∃ u a, exec (.lvget o) s = .next u ∧ Sent t u a ∧ Awaits u a ∧ a.kind = .lvget (o.fn.toNat % 16) ∧ a.va = v.b.toNat ∧
      a.dst = .reg (t.here.sbase + o.d.toNat)) ∧
  (∀ (o : Opnd) (s t : State) (v : Vals), Issues (.lvcommit o) s v t → Alone s → Quiet t → s.cur.2 ≠ 62 →
    t.unitsBusy s.cur.1 s.cur.2 = [] →
    let nd := t.gnode (s.cur.1 / 512) (t.here.taskw.toNat / 2 ^ 44 % 64) (t.here.taskw.toNat / 2 ^ 32 % 2 ^ 12)
    let b := nth {} nd.board (t.here.taskw.toNat % 2 ^ 16)
    (b.committed = false → b.spread = false → v.a.toNat ≤ nd.stepmax →
      ∃ u a, exec (.lvcommit o) s = .next u ∧ Sent t u a ∧ Awaits u a ∧ a.kind = .lvcommit ∧ a.val = v.a) ∧
    ((b.committed = true ∨ b.spread = true ∨ nd.stepmax < v.a.toNat) →
      exec (.lvcommit o) s = .next (s.takeTrap s.cur.1 s.cur.2 ⟨1, 5, v.a⟩))) ∧
  (∀ (id item w : Nat) (s : State) (a : Access), s.atHead id = some a → a.kind = .lvget item →
    let nd := s.gnode (a.core / 512) (a.taskw.toNat / 2 ^ 44 % 64) (a.taskw.toNat / 2 ^ 32 % 2 ^ 12)
    let b := a.taskw.toNat % 2 ^ 16
    (8 ≤ item → a.va < (nth {} nd.board b).nbrs.length) → levelItem nd b a.va item = some w →
    exec (.serve id) s = .next (s.answer a { val := BitVec.ofNat 64 w })) ∧
  (∀ (id lno : Nat) (s t : State) (a : Access) (rs : List Reply) (l : Launch), s.atHead id = some a → a.kind = .spawn →
    let d := a.core / 512
    let g := a.taskw.toNat / 2 ^ 44 % 64
    let node := a.val.toNat % 2 ^ 12
    s.unitLoads a.core a.slot a.space a.va 24 = (t, .ok rs) → a.aux.toNat = lno → (t.graph d g).launch lno = some l →
    node < (t.graph d g).nodes.length → (t.gnode d g node).kind = 0 → nth .waiting l.nodes node ≠ .complete →
    (t.dv d).tasks.length < 262144 →
    let num := (t.gnode d g node).count + nth 0 l.spawned node
    ∃ u : State, exec (.serve id) s = .next (u.answer a { val := BitVec.ofNat 64 (num % 2 ^ 32) }) ∧
      ∃ r, u.taskRec d (t.dv d).nextTask = some r ∧ r.st = .waiting ∧ r.graph = g ∧ r.node = node ∧ r.num = num ∧
        r.launch = lno ∧ r.regs.map (·.val) = rs.map (·.val)) ∧
  (∀ (id : Nat) (s : State) (a : Access), s.atHead id = some a → a.kind = .lvcommit →
    let d := a.core / 512
    let g := a.taskw.toNat / 2 ^ 44 % 64
    let n := a.taskw.toNat / 2 ^ 32 % 2 ^ 12
    let b := a.taskw.toNat % 2 ^ 16
    let x := s.block d g n b
    let new := x.level + x.step
    let far := ∃ q z, q ≠ b ∧ (s.gnode d g n).board[q]? = some z ∧ z.st ≠ .done ∧ 2 ^ 30 ≤ |(new - z.level).toInt|
    x.st = .running →
    (far → ∃ u : State, exec (.serve id) s = .next (u.answer a { trap := some ⟨0x14, 0, new.setWidth 64⟩ }) ∧
      (u.block d g n b).st = .frozen ∧ (u.block d g n b).level = x.level ∧ SameMemory s u) ∧
    (¬ far → ∃ u : State, exec (.serve id) s = .next (u.answer a {}) ∧ SameMemory s u ∧
      (let y := u.block d g n b
       y.level = new ∧ y.prev = x.level ∧ y.buf = !x.buf ∧ y.committed = true ∧
         y.step = if a.val = 0 then x.step else BitVec.ofNat 32 a.val.toNat)))

/-! ### Haulage (15) -/

/-- R256, R258: `hcopy` and `hstream` read their card as a default access; `hstream` takes ILLEGAL with subcode 0x05
for a bound stream or a slot without a task. R255, R257: `hpull` takes the oldest kick, writes its notice, books a
message entry and puts a raw copy of the bytes that the notice names into the sequencer; with no kick it waits. R259,
R260: `hsub` sends its join to the root of its tag and `hsub.leave` its leave; a join is refused as ILLEGAL with
subcode 0x05 where the core has the tag already; the root adds the core to the tag's members and an entry to the match
table of the core, or takes them away. -/
def Obligations.HaulageInstructions : Prop :=
  (∀ (o : Opnd) (s t : State) (v : Vals) (e : Tlb) (pa : Nat), Issues (.hcopy o) s v t → Alone s → Quiet t → o.d.toNat < 128 →
    CardInDram t v.a e pa → e.tgt = 0 → t.replyUse s.cur.1 < 256 →
    ∃ u a, exec (.hcopy o) s = .next u ∧ Sent t u a ∧ Awaits u a ∧ a.kind = .card false 0 false ∧
      a.loc = .dram (s.cur.1 / 512) pa ∧ a.va = v.a.toNat ∧ a.dst = .reg (t.here.sbase + o.d.toNat)) ∧
  (∀ (o : Opnd) (s t : State) (v : Vals) (e : Tlb) (pa : Nat), Issues (.hstream o) s v t → Alone s → Quiet t →
    136 ≤ o.d.toNat → o.d.toNat < 140 →
    let sm := o.d.toNat - 136
    (((t.core s.cur.1).stream sm).bound = false → v.b.toNat < 62 → (t.slot s.cur.1 v.b.toNat).live = true →
      CardInDram t v.a e pa → e.tgt = 0 → t.replyUse s.cur.1 < 256 →
      ∃ u a, exec (.hstream o) s = .next u ∧ Sent t u a ∧ Awaits u a ∧ a.kind = .card true sm (bitN o.fn.toNat 0) ∧
        a.loc = .dram (s.cur.1 / 512) pa ∧ a.va = v.a.toNat ∧ a.val = v.b) ∧
    (((t.core s.cur.1).stream sm).bound = true →
      exec (.hstream o) s = .next (s.takeTrap s.cur.1 s.cur.2 ⟨1, 5, BitVec.ofNat 64 o.d.toNat⟩)) ∧
    (((t.core s.cur.1).stream sm).bound = false → 61 < v.b.toNat ∨ (t.slot s.cur.1 v.b.toNat).live = false →
      exec (.hstream o) s = .next (s.takeTrap s.cur.1 s.cur.2 ⟨1, 5, v.b⟩))) ∧
  (∀ (o : Opnd) (s t : State) (v : Vals), Issues (.hpull o) s v t → Alone s →
    let c := s.cur.1
    let k := t.core c
    (k.kicks = [] → exec (.hpull o) s = .next (s.leave c s.cur.2 [.kickIn])) ∧
    (∀ q rest, k.kicks = q :: rest → t.here.sysUse < 8 → k.seq.length < 32 → 2 ^ 48 ≤ q.notice.toNat → o.d.toNat < 128 →
      ∃ u j, exec (.hpull o) s = .next u ∧ (u.core c).kicks = rest ∧ (u.core c).seq = k.seq ++ [j] ∧
        (u.core c).entry (t.here.sbase + o.d.toNat) = { val := q.notice } ∧ u.here.booked = t.here.booked + 1 ∧
        j.kind = 1 ∧ j.raw = true ∧ j.scope = 5 ∧ j.src = q.notice.toNat % 2 ^ 48 ∧ j.dst = (v.a + v.b).toNat ∧
        j.ex = q.notice.toNat / 2 ^ 48 * 64 ∧ j.ey = 1 ∧ j.ez = 1 ∧ j.kicker = some q ∧ j.going = false ∧
        .event (.jobGo c j.no) ∈ u.agenda ∧ SameMemory t u)) ∧
  (∀ (o : Opnd) (s t : State) (v : Vals), Issues (.hsub o) s v t → Alone s → Quiet t → v.a.toNat < 2 ^ 16 →
    v.b.toNat % 64 = 0 → v.c.toNat % 64 = 0 → v.c ≠ 0 → v.b.toNat + v.c.toNat ≤ 2 ^ 24 →
    ((∀ m ∈ (t.core s.cur.1).subs, m.tag ≠ v.a.toNat) → (t.core s.cur.1).subs.length < 32 →
      ∃ u a, exec (.hsub o) s = .next u ∧ Sent t u a ∧ Awaits u a ∧ a.kind = .hsub ∧
        a.home = .root (s.cur.1 / 512) (s.cur.1 % 512 / 128) v.a.toNat ∧ a.va = v.a.toNat ∧ a.val = v.b ∧ a.aux = v.c) ∧
    ((∃ m ∈ (t.core s.cur.1).subs, m.tag = v.a.toNat) →
      exec (.hsub o) s = .next (s.takeTrap s.cur.1 s.cur.2 ⟨1, 5, v.a⟩))) ∧
  (∀ (o : Opnd) (s t : State) (v : Vals), Issues (.hsubLeave o) s v t → Alone s → Quiet t →
    ∃ u a, exec (.hsubLeave o) s = .next u ∧ Sent t u a ∧ Awaits u a ∧ a.kind = .hleave ∧
      a.home = .root (s.cur.1 / 512) (s.cur.1 % 512 / 128) (v.a.toNat % 2 ^ 16) ∧ a.va = v.a.toNat) ∧
  (∀ (id : Nat) (s : State) (a : Access), s.atHead id = some a → a.kind = .hsub → a.dead = false →
    (s.dv (a.core / 512)).members.length < 256 → (s.core a.core).subs.length < 32 →
    ∃ u : State, exec (.serve id) s = .next (u.answer a {}) ∧
      (∃ path : List Nat, path.head? = some (a.core % 128 / 4) ∧ path.getLast? = some ((a.va ^^^ a.va / 32 ^^^ a.va / 1024) % 32) ∧
        (u.dv (a.core / 512)).members = (s.dv (a.core / 512)).members ++ [⟨a.va, a.core, path⟩]) ∧
      (u.core a.core).subs = (s.core a.core).subs ++ [⟨a.va, a.val.toNat, a.aux.toNat, a.space, true⟩] ∧ SameMemory s u) ∧
  (∀ (id : Nat) (s : State) (a : Access), s.atHead id = some a → a.kind = .hleave →
    ∃ u : State, exec (.serve id) s = .next (u.answer a {}) ∧ (∀ m ∈ (u.dv (a.core / 512)).members, ¬ (m.core = a.core ∧ m.tag = a.va)) ∧
      (∀ m ∈ (u.core a.core).subs, m.tag ≠ a.va) ∧ SameMemory s u)

/-- R209: a job begins when no job before it in the sequencer conflicts with it, and not before. R254, R264: it enters
the queue of one engine, beside DST's memory slice or engine [6:3] of the core; a full queue refuses it with a
back-off of 16 cycles for each job ahead. R209, R249 to R251, R258: an element of a raw copy is read by an access in a
channel, and once it has returned its bytes are posted as a write at their destination; an inbound stream gets its
next element at its tail. R209, R252: a job whose elements are done and whose writes are acknowledged has its STATUS
written, 0 without an error, and, once that is acknowledged, leaves the sequencer and its engine's queue; the notified
slot gets COPY_DONE. R259 to R261: a root puts a packet at the tail of the delivery FIFO of every member of its tag on
its die, and a member's interface writes the packet's bytes into its landing, up to its length, and nothing else. -/
def Obligations.JobsRun : Prop :=
  (∀ (c no : Nat) (s : State) (j : Job), (s.core c).job no = some j → j.going = false → j.backoff ≤ s.now c →
    let e := s.engineOf c j
    let q := (s.dv (c / 512)).engineQ e
    (j.kind = 6 ∨ j.dst < 2 ^ 24 → e = c % 512 / 128 * 16 + c % 512 / 8 % 16) ∧
    (∀ pa p, j.kind ≠ 6 → s.placeVia c j.space j.dst .store = .at (.dram (c / 512) pa) p → sliceOf pa / 16 = c % 512 / 128 →
      e = sliceOf pa) ∧
    ((∀ i ∈ (s.core c).seq.takeWhile (fun i => i.no != no), conflict i j = false) →
      (q.length < 32 → ∃ u, exec (.jobGo c no) s = .next u ∧ (u.core c).job no = some { j with going := true, engine := some e } ∧
        (u.dv (c / 512)).engineQ e = q ++ [(c, no)] ∧ u.net = s.net ∧ SameMemory s u) ∧
      (32 ≤ q.length → ∃ u, exec (.jobGo c no) s = .next u ∧
        (u.core c).job no = some { j with backoff := s.now c + 16 * q.length } ∧ u.devs = s.devs ∧ u.net = s.net ∧ SameMemory s u)) ∧
    ((∃ i ∈ (s.core c).seq.takeWhile (fun i => i.no != no), conflict i j = true) → exec (.jobGo c no) s = .next s)) ∧
  (∀ (c no k : Nat) (s : State) (j : Job), (s.core c).job no = some j → PlainRow j → j.stream = none → j.dst % 8 = 0 →
    j.src % 8 = 0 → 8 * k + 8 ≤ j.ex → k ∉ j.did → (∀ w ∈ j.work, w.elem ≠ k) → NearBytes s c j.space (j.src + 8 * k) 8 →
    NearBytes s c j.space (j.dst + 8 * k) 8 → inRegions j.reads (j.src + 8 * k) 8 = true →
    inRegions j.writes (j.dst + 8 * k) 8 = true →
    ∃ u a, exec (.jobAccess c no k) s = .next u ∧ ReadSent s u c (j.src + 8 * k) a ∧
      (u.core c).job no = some { j with work := j.work ++ [⟨k, .move, j.dst + 8 * k, [⟨a.id, 8, none⟩]⟩] }) ∧
  (∀ (s : State) (a : Access) (j : Job) (w : Work), ReadReturned s a j w → PlainRow j → j.stream = none → w.sort = .move →
    NearBytes s a.core j.space w.dst 8 →
    ∃ u b, exec (.complete a.id) s = .next u ∧ u.net = s.net.filter (fun x => x.id != a.id) ++ [b] ∧ b.kind = .jwrite ∧
      b.va = w.dst ∧ b.n = 8 ∧ b.loc = .pad a.core w.dst ∧ b.val = a.reply.val ∧
      b.aux = (if a.reply.poison then a.reply.tag.setWidth 64 else 0) ∧ SameMemory s u ∧
      (u.core a.core).job j.no = some { j with work := j.work.filter (fun x => x.elem != w.elem), did := j.did ++ [w.elem],
                                               posted := j.posted ++ [b.id] }) ∧
  (∀ (c sm : Nat) (s : State) (j : Job), let x := (s.core c).stream sm
    let k := j.did.length
    (s.core c).job x.job = some j → PlainRow j → j.stream = some sm → x.out = false → x.ents.length < 64 → j.work = [] →
    j.src % 8 = 0 → 8 * k + 8 ≤ j.ex → NearBytes s c j.space (j.src + 8 * k) 8 →
    (∃ r ∈ j.reads, r.base ≤ j.src + 8 * k ∧ j.src + 8 * k + 8 ≤ r.base + r.len) →
    ∃ u a, exec (.streamDeliver c sm) s = .next u ∧ ReadSent s u c (j.src + 8 * k) a ∧
      (u.core c).job x.job = some { j with work := [⟨k, .stream sm, 0, [⟨a.id, 8, none⟩]⟩] }) ∧
  (∀ (s : State) (a : Access) (j : Job) (w : Work) (sm : Nat), ReadReturned s a j w → PlainRow j → j.stream = some sm →
    w.sort = .stream sm → a.reply.poison = false →
    ∃ u, exec (.complete a.id) s = .next u ∧ u.net = s.net.filter (fun x => x.id != a.id) ∧ SameMemory s u ∧
      ((u.core a.core).stream sm).ents = ((s.core a.core).stream sm).ents ++ [{ val := a.reply.val }] ∧
      (u.core a.core).job j.no = some { j with work := j.work.filter (fun x => x.elem != w.elem), did := j.did ++ [w.elem] }) ∧
  (∀ (c no : Nat) (s : State) (j : Job), (s.core c).job no = some j → j.going = true → j.kicker = none → j.work = [] →
    (j.err = none → j.total ≤ j.did.length) → (∀ a ∈ s.net, a.id ∉ j.posted) →
    (j.statusDone = false → j.card + 56 < 2 ^ 24 →
      ∃ u a, exec (.jobComplete c no) s = .next u ∧ u.net = s.net ++ [a] ∧ a.kind = .jwrite ∧ a.loc = .pad c (j.card + 56) ∧
        a.n = 8 ∧ a.val = (match j.err with
          | none => 0
          | some (k, va) => BitVec.ofNat 64 (k * 2 ^ 56 + va % 2 ^ 56)) ∧
        (u.core c).job no = some { j with statusDone := true, statusId := a.id, posted := j.posted ++ [a.id] }) ∧
    (∀ e, j.statusDone = true → j.sem = none → j.stream = none → j.engine = some e → ∃ u, exec (.jobComplete c no) s = .next u ∧
      (j.notify = none → SameMemory s u) ∧ (u.core c).seq = (s.core c).seq.filter (fun i => i.no != no) ∧
      (c, no) ∉ (u.dv (c / 512)).engineQ e ∧
      (∀ n tw, j.notify = some (n, tw) → n ≠ 62 → (s.slot c n).live = true → 0 < (s.slot c n).booked →
        (s.slot c n).taskw.toNat % 2 ^ 50 = tw.toNat % 2 ^ 50 →
        (u.slot c n).msgs = (s.slot c n).msgs ++
          [⟨BitVec.ofNat 64 ((if j.err.isSome then 2 else 1) * 2 ^ 48 + j.card % 2 ^ 48), true⟩] ∧ SameMemory s u))) ∧
  (∀ (id : Nat) (s : State) (a : Access), s.atHead id = some a → a.kind = .mcast →
    ∃ u : State, exec (.mcastRootForward id) s = .next (u.answer a {}) ∧ SameMemory s u ∧
      (∀ c, (u.core c).deliver = (s.core c).deliver ++
        ((s.dv (a.core / 512)).members.filter (fun m => m.tag == a.n && m.core == c && m.core % 512 / 128 == a.core % 512 / 128)).map
          (fun _ => ⟨a.n, a.va, a.bulk.map (BitVec.ofNat 8), a.bulk.map (· / 256)⟩))) ∧
  (∀ (c tag : Nat) (s : State) (p : MPkt) (m : Sub), Memory.wf s.mem = true →
    (s.core c).deliver.find? (fun p => p.tag == tag) = some p → (s.core c).subs.find? (fun x => x.tag == tag) = some m →
    (∀ k, k < p.bytes.length → p.off + k < m.len → s.mayPad m.space (.pad c (m.base + p.off + k)) = true) →
    ∃ u, exec (.mcastDeliver c tag) s = .next u ∧ (u.core c).deliver = (s.core c).deliver.erase p ∧ u.net = s.net ∧
      (∀ o, o % 8 = 0 → m.base + p.off ≤ o → o + 8 ≤ m.base + p.off + p.bytes.length → o + 8 ≤ m.base + m.len →
        (∀ t ∈ p.tags, t = 0) → u.wordTag (keyOf (.pad c o)) = 0) ∧
      ∀ key, cellGet u.mem key = (let k := key - keyOf (.pad c (m.base + p.off))
        if keyOf (.pad c (m.base + p.off)) ≤ key ∧ k < p.bytes.length ∧ p.off + k < m.len then nth 0 p.bytes k
        else cellGet s.mem key))

/-! ### The sluice network, gangs and pairs (14, 11) -/

/-- R232, R233, R235: `slres` opens the lowest FREE entry for its accumulator, which becomes empty-pending, and books
a message entry; a chain that the core holds already takes ILLEGAL with subcode 0x05. R239, R240: `slwait` waits for
the task's chain to be DONE and then writes its CHAIN_DONE word, the chain's own message leaving the queue once and the
others keeping their order; with no entry it takes CHAIN. `slclose` frees the
task's entry, leaves an OPEN one's accumulator full, and does nothing where there is none. -/
def Obligations.ChainsOpenAndClose : Prop :=
  (∀ (o : Opnd) (s t : State) (v : Vals) (i : Nat), Issues (.slres o) s v t → Alone s → Quiet t → (∀ a ∈ t.net, a.stage ≠ .parked) →
    let c := s.cur.1
    let k := t.core c
    let d := o.d.toNat
    v.a.toNat < 2 ^ 16 → v.b ≠ 0 → v.b.toNat < 2 ^ 16 → (k.acc d).full = true → (k.acc d).unset = false →
    k.unitReads false d = false → t.here.sysUse < 8 → i < 16 → (k.chain i).st = .free → (∀ j, j < i → (k.chain j).st ≠ .free) →
    ((∀ j, j < 16 → (k.chain j).st = .free ∨ (k.chain j).chain ≠ v.a.toNat) →
      ∃ u, exec (.slres o) s = .next u ∧ (u.core c).chain i =
          { st := .opened, chain := v.a.toNat, acc := d, slot := s.cur.2, task := t.here.task, expected := v.b.toNat, received := 0,
            num := t.here.taskw.toNat % 2 ^ 50, serial := (k.chain i).serial + 1 } ∧
        (u.core c).acc d = { k.acc d with full := false, pend := true } ∧ u.here.booked = t.here.booked + 1 ∧
        (∀ j, j ≠ i → (u.core c).chain j = k.chain j) ∧ SameMemory t u) ∧
    ((∃ j, j < 16 ∧ (k.chain j).st ≠ .free ∧ (k.chain j).chain = v.a.toNat) →
      exec (.slres o) s = .next (s.takeTrap c s.cur.2 ⟨1, 5, v.a⟩))) ∧
  (∀ (o : Opnd) (s t : State) (v : Vals), Issues (.slwait o) s v t → Alone s → Quiet t → v.a.toNat < 2 ^ 16 →
    let k := t.core s.cur.1
    (k.ownChain v.a.toNat t.here.task = none → exec (.slwait o) s = .next (s.takeTrap s.cur.1 s.cur.2 ⟨0x10, 0, v.a⟩)) ∧
    (∀ i, k.ownChain v.a.toNat t.here.task = some i → (k.chain i).st = .opened →
      exec (.slwait o) s = .next (s.leave s.cur.1 s.cur.2 [.chain i])) ∧
    (∀ i, k.ownChain v.a.toNat t.here.task = some i → (k.chain i).st = .done → o.d.toNat < 128 ∨ o.d.toNat = 145 →
      ((k.chain i).taken = true → exec (.slwait o) s = .next (t.storedD (ctxOf (.slwait o) s) (k.chain i).word)) ∧
      ((k.chain i).taken = false →
        ∃ u ms, exec (.slwait o) s = .next (u.storedD (ctxOf (.slwait o) s) (k.chain i).word) ∧ SameMemory t u ∧
          u.core s.cur.1 = (k.setChain i { k.chain i with taken := true }).setSlot s.cur.2 { t.here with msgs := ms } ∧
          (⟨(k.chain i).word, true⟩ ∉ t.here.msgs → ms = t.here.msgs) ∧
          (∀ before after, t.here.msgs = before ++ ⟨(k.chain i).word, true⟩ :: after → ⟨(k.chain i).word, true⟩ ∉ after →
            ms = before ++ after)))) ∧
  (∀ (o : Opnd) (s t : State) (v : Vals), Issues (.slclose o) s v t → Alone s → Quiet t → v.a.toNat < 2 ^ 16 →
    let k := t.core s.cur.1
    (k.ownChain v.a.toNat t.here.task = none → exec (.slclose o) s = .next t) ∧
    (∀ i, k.ownChain v.a.toNat t.here.task = some i → ∃ u, exec (.slclose o) s = .next u ∧
      ((u.core s.cur.1).chain i).st = .free ∧ (∀ j, j ≠ i → (u.core s.cur.1).chain j = k.chain j) ∧ SameMemory t u ∧
      ((k.chain i).st = .opened → ((u.core s.cur.1).acc (k.chain i).acc).full = true ∧ u.here.booked = t.here.booked - 1)))

/-- R236, R237: `sljoin` and `slsend` to a core of the own device are sent to its chain table and awaited; a
contribution carries the rows it names and the next sequence number of its slot. R236, R248: a chain table answers a
join to an OPEN chain with its handle and refuses one to a DONE chain with CHAIN; a refused request is sent again. A join
to a chain that no entry holds is parked; that this holds for one served after its chain's close too, which R240 has
refused, is the model's choice (assumption log 72). -/
def Obligations.JoinsAndContributions : Prop :=
  (∀ (o : Opnd) (s t : State) (v : Vals), Issues (.sljoin o) s v t → Alone s → Quiet t → s.cur.2 ≠ 62 → o.d.toNat < 128 →
    v.a.toNat % 2 ^ 49 = 0 → v.a.toNat / 2 ^ 58 = s.cur.1 / 512 → v.b.toNat < 2 ^ 16 → t.replyUse s.cur.1 < 256 →
    ∃ u a, exec (.sljoin o) s = .next u ∧ Sent t u a ∧ Awaits u a ∧ a.kind = .sljoin ∧ a.home = .chains (coreOf v.a) ∧
      a.aux = v.b ∧ a.dst = .reg (t.here.sbase + o.d.toNat)) ∧
  (∀ (o : Opnd) (s t : State) (v : Vals), Issues (.slsend o) s v t → Alone s → Quiet t → s.cur.2 ≠ 62 →
    let acc := (t.core s.cur.1).acc o.c.toNat
    let n := o.fn.toNat % 64 + 1
    v.a.toNat / 2 ^ 58 = s.cur.1 / 512 → v.b.toNat + n ≤ 64 →
    ∃ u a, exec (.slsend o) s = .next u ∧ Sent t u a ∧ Awaits u a ∧ a.kind = .slsend ∧ a.home = .chains (coreOf v.a) ∧
      a.va = v.a.toNat ∧ a.n = tabGet 0 (t.core s.cur.1).seqNos s.cur.2 ∧
      (∀ x, x ∈ a.elems ↔ ∃ p ∈ acc.cells, v.b.toNat * 64 ≤ p.1 ∧ p.1 < (v.b.toNat + n) * 64 ∧
        x = { k := p.1, va := 0, loc := .pad 0 0, n := 10, dat := p.2.toNat })) ∧
  (∀ (id c i : Nat) (s : State) (a : Access), s.atHead id = some a → a.kind = .sljoin → a.home = .chains c →
    let k := s.core c
    let x := k.chain i
    (k.findChain a.aux.toNat = some i → x.st = .opened → exec (.sluiceJoinServe id) s = .next (s.answer a
      { val := BitVec.ofNat 64 (c / 512 * 2 ^ 58 + c % 512 * 2 ^ 49 + i * 2 ^ 45 + x.serial.toNat * 2 ^ 16 + x.chain) })) ∧
    (k.findChain a.aux.toNat = some i → x.st = .done →
      exec (.sluiceJoinServe id) s = .next (s.answer a { trap := some ⟨0x10, 0, a.aux⟩ })) ∧
    (k.findChain a.aux.toNat = none → a.dead = false → (s.parked c).length < 64 →
      ∃ u, exec (.sluiceJoinServe id) s = .next u ∧ u.acc id = some { a with stage := .parked } ∧ u.fifo = s.fifo ∧
        u.cores = s.cores ∧ SameMemory s u)) ∧
  (∀ (id : Nat) (s : State) (a : Access), s.acc id = some a → a.stage = .refused →
    ∃ u x, exec (.requestResend id) s = .next u ∧ u.acc id = some { a with stage := .sent, aside := x } ∧
      u.agenda = s.agenda ++ [.event (.arrive id)] ∧ u.cores = s.cores ∧ SameMemory s u)

/-- R237, R238, R242: a contribution to an OPEN entry that its handle names is added once to its accumulator; the last
one makes the entry DONE and the accumulator full; a stale handle takes CHAIN. -/
def Obligations.ContributionsAdd : Prop :=
  ∀ (id c : Nat) (s : State) (a : Access), s.atHead id = some a → a.kind = .slsend → a.home = .chains c →
    let k := s.core c
    let i := a.va / 2 ^ 45 % 16
    let e := k.chain i
    let who := (a.core, a.slot, a.taskw.toNat % 2 ^ 32, a.n)
    let acc := k.acc e.acc
    let named := e.st = .opened ∧ e.chain = a.va % 2 ^ 16 ∧ e.serial.toNat = a.va / 2 ^ 16 % 2 ^ 16
    (¬ named → exec (.sluiceContribution id) s =
      .next (s.answer a { trap := some ⟨0x10, 0, BitVec.ofNat 64 (a.va % 2 ^ 16)⟩ })) ∧
    (named → who ∈ e.idents → exec (.sluiceContribution id) s = .next (s.answer a {})) ∧
    (named → who ∉ e.idents → ∃ u : State, exec (.sluiceContribution id) s = .next (u.answer a {}) ∧
      ((u.core c).chain i).received = e.received + 1 ∧ ((u.core c).chain i).idents = e.idents ++ [who] ∧
      (e.received + 1 = e.expected → ((u.core c).chain i).st = .done ∧ ((u.core c).acc e.acc).full = true) ∧
      (e.received + 1 ≠ e.expected → ((u.core c).chain i).st = .opened ∧ ((u.core c).acc e.acc).full = acc.full) ∧
      (a.aux.toNat / 2 ^ 13 % 2 = 0 → Int.bmod (a.aux.toNat % 2 ^ 10) (2 ^ 10) = acc.anchor → (a.elems.map (·.k)).Nodup →
        (∀ x ∈ a.elems, x.dat < 2 ^ 80 ∧ x.dat ≠ 2 ^ 79) →
        ∀ n, tabGet 0 ((u.core c).acc e.acc).cells n = (match a.elems.find? (fun x => x.k == n) with
          | some x => tabGet 0 acc.cells n + BitVec.ofNat 80 x.dat
          | none => tabGet 0 acc.cells n)))

/-- R231: `gsync` waits with its gang until its last live member has arrived, and then all go on past it. R218, R219:
two equal pushes at the heads of a pair's queues are made once, by the leading slot, when the port has room; effects
that differ kill both slots of the pair, once nothing of theirs is outstanding, with one record in the node's error
queue. -/
def Obligations.GangsAndPairs : Prop :=
  (∀ (o : Opnd) (s t : State) (v : Vals), Issues (.gsync o) s v t → Alone s →
    let c := s.cur.1
    let n := s.cur.2
    let others := (List.range 4).map (c / 4 * 4 + ·) |>.filter (fun x => x != c && (t.slot x n).live && (t.slot x n).gang)
    (∀ a ∈ t.own c n, inScope c 2 a.home = false) → t.jobsIn c n 2 = [] → t.unitsBusy c n = [] →
    ((∃ x ∈ others, (t.slot x n).arrived = false) → ∃ u, exec (.gsync o) s = .next u ∧ u.here.arrived = true ∧
      u.here.run = .out [.barrier] ∧ u.here.pc = s.here.pc ∧ SameCores c t u ∧ SameMemory t u) ∧
    ((∀ x ∈ others, (t.slot x n).arrived = true) → ∃ u, exec (.gsync o) s = .next u ∧ u.here.arrived = false ∧
      u.here.run = .ready ∧ u.here.pc = s.here.pc + 8 ∧ SameMemory t u ∧
      ∀ x ∈ others, (u.slot x n).arrived = false ∧ (u.slot x n).run = .out [.over] ∧ (u.slot x n).pc = (t.slot x n).pc + 8)) ∧
  (∀ (c p : Nat) (s : State) (e f : Effect) (es fs : List Effect),
    let n := 2 * p
    (s.slot c n).paired = true → (s.slot c n).kill = none → ((s.core c).pair p).cmp = e :: es → ((s.core c).pair p).trail = f :: fs →
    (e.same f = true → e.trap = none → e.kind = 98 → 128 ≤ e.addr.toNat → e.addr.toNat < 136 →
      (s.core c).hasRoom n e.addr.toNat = true → ∃ u : State, exec (.pairedEffectCompare c p) s = .next u ∧ SameMemory s u ∧
        ((u.core c).pair p).cmp = es ∧ ((u.core c).pair p).trail = fs ∧
        (u.core c).port e.addr.toNat = (s.core c).port e.addr.toNat ++ [⟨e.val, true, e.poison, e.tag, 0, n, none⟩]) ∧
    (e.same f = false → (s.slot c n).gang = false →
      (∀ m ∈ [n, n + 1], (∀ a ∈ s.own c m, a.stage = .parked ∨ a.stage = .placing) ∧ ∀ o ∈ (s.core c).vops, o.slot ≠ m) →
      ∃ u : State, exec (.pairedEffectCompare c p) s = .next u ∧
        (u.slot c n).run = .free ∧ (u.slot c (n + 1)).run = .free ∧ (u.core c).pair p = {} ∧
        (∀ r, s.taskRec (c / 512) (s.slot c n).task = some r → (tabFind (s.dv (c / 512)).graphs r.graph).isSome = true →
          r.node < (s.graph (c / 512) r.graph).nodes.length → (s.gnode (c / 512) r.graph r.node).kind ≠ 2 →
          (u.gnode (c / 512) r.graph r.node).errs = (s.gnode (c / 512) r.graph r.node).errs + 1)))

/-! ### Translation and system calls (17) -/

/-- R281, R284: `tlbi` waits for the removal of its range; the removal takes every translation of its range out of
every buffer and cache of the device, and no other; a walk's end puts the leaf into them. R283, R285, R287:
`sysc.gquery` writes the state of a granule, `sysc.gfree` zeroes a granule of the space and makes it FREE, and
`sysc.elog` reads a dword of a record of the space and 0 of another's. -/
def Obligations.TranslationAndSystemCalls : Prop :=
  (∀ (o : Opnd) (s t : State) (v : Vals), Issues (.tlbi o) s v t → Alone s → t.own s.cur.1 s.cur.2 = [] →
    (v.a.toNat + v.b.toNat ≤ 2 ^ 56 → ∃ u, exec (.tlbi o) s = .next u ∧ u.here.tlbi = some (v.a.toNat, v.b.toNat) ∧
      u.here.run = .out [.tlbRemoval] ∧ .event (.tlbiRemovalDone s.cur.1 s.cur.2) ∈ u.agenda ∧ u.devs = t.devs ∧ SameMemory t u) ∧
    (2 ^ 56 < v.a.toNat + v.b.toNat → exec (.tlbi o) s = .next (s.takeTrap s.cur.1 s.cur.2 ⟨1, 5, v.a⟩))) ∧
  (∀ (c n a len : Nat) (s : State), (s.slot c n).tlbi = some (a, len) →
    let gone (e : Tlb) : Prop := e.space = (s.slot c n).space ∧ (len = 0 ∨ (e.page < a + len ∧ a < e.page + e.size ∧ 0 < e.size))
    ∃ u, exec (.tlbiRemovalDone c n) s = .next u ∧ (u.slot c n).tlbi = none ∧ SameMemory s u ∧
      (∀ c', c' / 512 = c / 512 → ∀ e, (e ∈ (u.core c').tlb ↔ e ∈ (s.core c').tlb ∧ ¬ gone e)) ∧
      (∀ c', c' / 512 ≠ c / 512 → (u.core c').tlb = (s.core c').tlb) ∧
      (∀ die e, (e ∈ u.dieCache (c / 512) die ↔ e ∈ s.dieCache (c / 512) die ∧ ¬ gone e))) ∧
  (∀ (c space va : Nat) (s : State) (e : Tlb), s.walk (c / 512) space va = .leaf e → e.covers space va = true →
    ∃ u, exec (.walkComplete c space va) s = .next u ∧ u.look c space va = .hit e ∧ SameMemory s u) ∧
  (∀ (o : Opnd) (s t : State) (v : Vals) (off : Nat), Issues (.syscGquery o) s v t → Alone s → Quiet t →
    ownPlace s.cur.1 v.a = some off →
    let own := t.ownerOf (.pad s.cur.1 off)
    let w : Word := if own = 0 then 0x800 else BitVec.ofNat 64 (own - 1)
    TakesD (ctxOf (.syscGquery o) s) w t → exec (.syscGquery o) s = .next (t.storedD (ctxOf (.syscGquery o) s) w)) ∧
  (∀ (o : Opnd) (s t : State) (v : Vals) (off : Nat), Issues (.syscGfree o) s v t → Alone s → Quiet t →
    Memory.wf t.mem = true → ownPlace s.cur.1 v.a = some off →
    let own := t.ownerOf (.pad s.cur.1 off)
    let g := keyOf (.pad s.cur.1 off) / 65536
    (own = t.here.space + 1 → ∃ u, exec (.syscGfree o) s = .next u ∧ u.ownerOf (.pad s.cur.1 off) = 0 ∧ SameButMemory t u ∧
      ∀ k, cellGet u.mem k = if k / 65536 = g then 0 else cellGet t.mem k) ∧
    (own = 0 → exec (.syscGfree o) s = .next t) ∧
    (own ≠ 0 → own ≠ t.here.space + 1 → exec (.syscGfree o) s = .next (s.takeTrap s.cur.1 s.cur.2 ⟨0x0A, 4, v.a⟩))) ∧
  (∀ (o : Opnd) (s t : State) (v : Vals), Issues (.syscElog o) s v t → Alone s →
    let r := (t.dv (s.cur.1 / 512)).record (v.a.toNat % 256)
    let w := if r.space = t.here.space then r.dword (v.a.toNat / 256 % 4) else 0
    (v.a.toNat < 2 ^ 10 → TakesD (ctxOf (.syscElog o) s) w t → exec (.syscElog o) s = .next (t.storedD (ctxOf (.syscElog o) s) w)) ∧
    (2 ^ 10 ≤ v.a.toNat → exec (.syscElog o) s = .next (s.takeTrap s.cur.1 s.cur.2 ⟨1, 5, v.a⟩)))

/-! ### Vector instructions (09) -/

/-- R163, R167, R171 to R173, R175, R176: an element-wise instruction is to write, at its result's cycle, the result
of each element of the active tile into its place and nothing else of its register, with the flags of all elements; a
shape too wide for the type takes ILLEGAL with subcode 0x05. R162, R174, R176 to R180: conversions and the
instructions that move elements: `vcvt` converts each, `vbcast.row` repeats one row, `vperm` picks by index and gives
0 outside, `vtrn` exchanges rows and columns, `vext` and `vins` read and write the element of a physical index, `vmov`
copies the register. The conversions of `vcvt` by value: between integers the low bits or the clamped value, from an
integer and between floats the value rounded once, to an integer the rounded value clamped with NV, and 0 with NV for a
NaN. -/
def Obligations.VectorLanes : Prop :=
  (∀ (i : Instr) (s t : State) (v : Vals) (f : Nat → Nat → Nat → Nat × Flags),
    let fn := (opndOfInstr i).fn.toNat
    let e := laneBytes (fn % 8)
    (∀ a b c, laneRule i (t.here.mode (fn / 8 % 8)) v a b c = some (f a b c)) → Issues i s v t →
    let at' (p q : Nat) : Nat × Flags :=
      f (elemAt e v.va (64 * p + q * e)) (elemAt e v.vb (64 * p + q * e)) (elemAt e v.vc (64 * p + q * e))
    (ShapeFits t e → ∃ u o, exec i s = .next u ∧ Piped t u o ∧ IntoVector i t u o ∧
      LaneResult (oldOf i t) o.vval t.here.rows t.here.cols e (fun p q => (at' p q).1) ∧
      o.flags = (List.range t.here.rows).foldl (fun x p => (List.range t.here.cols).foldl (fun x q => x ||| (at' p q).2) x) 0) ∧
    (64 < t.here.cols * e → exec i s = .next ((s.rewound t).takeTrap s.cur.1 s.cur.2 ⟨1, 5, t.here.vshape⟩))) ∧
  (∀ (i : Instr) (s t : State) (v : Vals), Issues i s v t →
    let fn := (opndOfInstr i).fn.toNat
    let ty := fn % 8
    let e := laneBytes ty
    let rows := t.here.rows
    let cols := t.here.cols
    let a (w p q : Nat) : Nat := elemAt w v.va (64 * p + q * w)
    let place (k : Nat) : Nat := k / (64 / e) * 64 + k % (64 / e) * e
    let gives (r c w : Nat) (f : Nat → Nat → Nat) : Prop :=
      ∃ u o, exec i s = .next u ∧ Piped t u o ∧ IntoVector i t u o ∧ LaneResult (oldOf i t) o.vval r c w f
    (∀ o, i = .vcvt o → let src := fn / 2 ^ 6 % 8
      ShapeFits t (max e (laneBytes src)) →
      gives rows cols e (fun p q => (cvtElem fn ty src (t.here.mode (fn / 8 % 8)) (a (laneBytes src) p q)).1)) ∧
    (∀ o, i = .vbcastRow o → ShapeFits t e → gives rows cols e (fun _ q => a e (fn / 2 ^ 10 % 8) q)) ∧
    (∀ o, i = .vperm o → ShapeFits t e → gives rows cols e (fun p q =>
      let k := elemAt e v.vb (64 * p + q * e)
      if fn.testBit 6 then (if k < rows * cols then a e (k / cols) (k % cols) else 0)
      else (if k < cols then a e p k else 0))) ∧
    (∀ o, i = .vtrn o → ShapeFits t e → cols ≤ 8 → o.d ≠ o.a → gives cols rows e (fun q p => a e p q)) ∧
    (∀ o, i = .vmov o → ∃ u r, exec i s = .next u ∧ Piped t u r ∧ IntoVector i t u r ∧ r.vval = v.va ∧ r.flags = 0) ∧
    (∀ o, i = .vins o →
      (v.b.toNat < 64 / e * 8 → ∃ u r, exec i s = .next u ∧ Piped t u r ∧ IntoVector i t u r ∧
        elemAt e r.vval (place v.b.toNat) = v.a.toNat % 2 ^ (8 * e) ∧
        (∀ k, k < 64 / e * 8 → k ≠ v.b.toNat → elemAt e r.vval (place k) = elemAt e v.vd (place k))) ∧
      (64 / e * 8 ≤ v.b.toNat → exec i s = .next ((s.rewound t).takeTrap s.cur.1 s.cur.2 ⟨1, 5, v.b⟩))) ∧
    (∀ o, i = .vext o →
      (v.b.toNat < 64 / e * 8 → o.d.toNat < 128 → ∃ u r, exec i s = .next u ∧ Piped t u r ∧ r.vdst = none ∧
        r.sdst = .reg (t.here.sbase + o.d.toNat) ∧
        r.sval = (let x := elemAt e v.va (place v.b.toNat)
          if 4 ≤ ty ∨ fn.testBit 6 = true then BitVec.ofNat 64 x else BitVec.ofInt 64 (laneInt (8 * e) x))) ∧
      (64 / e * 8 ≤ v.b.toNat → exec i s = .next ((s.rewound t).takeTrap s.cur.1 s.cur.2 ⟨1, 5, v.b⟩)))) ∧
  (∀ (fn ty src x : Nat) (md : RMode), ty < 8 → src < 8 → fn / 2 ^ 10 % 2 ^ 4 = 0 →
    let W := 8 * laneBytes ty
    let n := laneInt (8 * laneBytes src) x
    let lo : Int := -(2 ^ (W - 1))
    let hi : Int := 2 ^ (W - 1) - 1
    let r := cvtElem fn ty src md x
    (ty < 4 → src < 4 → r = plainLane W (if fn.testBit 9 then clampTo lo hi n else n)) ∧
    (4 ≤ ty → src < 4 → InRange (vFmt ty) n → RoundedOnce (vFmt ty).val md n r) ∧
    (∀ q, 4 ≤ src → (vFmt src).val x = some q →
      (4 ≤ ty → InRange (vFmt ty) q → RoundedOnce (vFmt ty).val md q r) ∧
      (ty < 4 → r = (let k := roundInt md q
        if k < lo then (laneOf W lo, flNV) else if hi < k then (laneOf W hi, flNV)
        else (laneOf W k, if (k : ℚ) = q then 0 else flNX)))) ∧
    (ty < 4 → 4 ≤ src → (fdecode (vFmt src) x).isNan = true → r = (0, flNV)))

/-- R181, R182, R187 to R189: reductions, scans and distances of integers combine their elements in the exact integers
kept on the width of the result; `vtopk` puts a best score with its identifier first; `vquant` codes each block of 64. -/
def Obligations.VectorReductions : Prop :=
  ∀ (i : Instr) (s t : State) (v : Vals), Issues i s v t →
    let fn := (opndOfInstr i).fn.toNat
    let ty := fn % 8
    let e := laneBytes ty
    let W := 8 * e
    let op := fn / 2 ^ 6 % 16
    let rows := t.here.rows
    let cols := t.here.cols
    let a (p q : Nat) : Nat := elemAt e v.va (64 * p + q * e)
    let line (p : Nat) : List Nat := (List.range cols).map (a p)
    let gives (r c w : Nat) (f : Nat → Nat → Nat) : Prop :=
      ∃ u o, exec i s = .next u ∧ Piped t u o ∧ IntoVector i t u o ∧ LaneResult (oldOf i t) o.vval r c w f
    (∀ o, i = .vred o → ty < 4 → op < 8 → ShapeFits t e →
      (fn / 2 ^ 10 % 4 = 0 → o.d.toNat < 128 → ∃ u r, exec i s = .next u ∧ Piped t u r ∧ r.vdst = none ∧
        r.sdst = .reg (t.here.sbase + o.d.toNat) ∧
        r.sval = BitVec.ofInt 64 (laneInt W (reduceList W op ((List.range rows).flatMap line)))) ∧
      (fn / 2 ^ 10 % 4 = 1 → gives rows 1 e (fun p _ => reduceList W op (line p))) ∧
      (fn / 2 ^ 10 % 4 = 2 → gives 1 cols e (fun _ q => reduceList W op ((List.range rows).map (a · q))))) ∧
    (∀ o, i = .vscan o → ty < 4 → op < 8 → ShapeFits t e → gives rows cols e (fun p q =>
      if fn.testBit 10 then (if q = 0 then scanIdentity W op else reduceList W op ((List.range q).map (a p)))
      else reduceList W op ((List.range (q + 1)).map (a p)))) ∧
    (∀ o, i = .vdist o → ty < 4 → op < 4 → ShapeFits t e → gives 1 rows 8 (fun _ p => laneOf 64
      (((List.range cols).map (fun q => distLane W op (a (if fn.testBit 10 then p else 0) q) (elemAt e v.vb (64 * p + q * e)))).sum +
        (if fn.testBit 11 then (elemAt 8 (oldOf i t) (8 * p) : Int) else 0)))) ∧
    (∀ o, i = .vtopk o → ty < 4 → e ≤ 4 → fn.testBit 7 = false → 1 ≤ rows → rows ≤ 8 →
      let sc (p : Nat) : Nat := elemAt e v.va (p * e)
      ∃ u r p, exec i s = .next u ∧ Piped t u r ∧ IntoVector i t u r ∧ p < rows ∧ elemAt e r.vval 0 = sc p ∧
        elemAt 4 r.vval 64 = (v.b.toNat + p) % 2 ^ 32 ∧ (∀ q, q < rows →
          if fn.testBit 6 then laneInt W (sc p) ≤ laneInt W (sc q) else laneInt W (sc q) ≤ laneInt W (sc p))) ∧
    (∀ o sm se, i = .vquant o → 4 ≤ ty → ShapeFits t e → fdecode fp32 v.b.toNat = .fin false sm se → 0 < sm →
      (rows * cols % 64 = 0 → ∃ u r, exec i s = .next u ∧ Piped t u r ∧ IntoVector i t u r ∧ (∀ n, n < rows * cols / 64 →
        let blk := (List.range 64).map (fun k => fdecode (vFmt ty) (a ((64 * n + k) / cols) ((64 * n + k) % cols)))
        let q := quantQ blk sm se
        elemAt 1 r.vval (64 * n + 32) = q ∧
          (∀ k, k < 64 → bitsN r.vval (512 * n + 4 * k) 4 = quantElem q sm se (nth (.fin false 0 0) blk k)))) ∧
      (rows * cols % 64 ≠ 0 → exec i s = .next ((s.rewound t).takeTrap s.cur.1 s.cur.2 ⟨1, 5, t.here.vshape⟩)))

/-- R164, R168, R186: a result's cycle writes the register whole and raises the flags, sticky, in %flags and on their
way to %qflags, or with one of them enabled leaves the register and the flags as they were and gives its slot FP_TRAP;
the last part of a raw vector load puts each element in its place. -/
def Obligations.VectorResultsAreWritten : Prop :=
  (∀ (c id e : Nat) (s : State) (o : VOp), (s.core c).vops.find? (fun o => o.id == id) = some o → o.dead = false →
    o.vdst = some e → (s.slot c o.slot).kill = none →
    ∃ u, exec (.vectorComplete c id) s = .next u ∧ (∀ p ∈ (u.core c).vops, p.id ≠ id) ∧ SameMemory s u ∧
      (o.flags &&& o.en = 0 → (u.core c).vreg e = { val := o.vval, full := true, pend := false } ∧
        (u.slot c o.slot).hit = (s.slot c o.slot).hit ∧ (u.slot c o.slot).flags = (s.slot c o.slot).flags ||| o.flags ∧
        (o.flags ≠ 0 → (c % 512 / 32, o.flags, s.now c) ∈ (u.dv (c / 512)).raises)) ∧
      (o.flags &&& o.en ≠ 0 → (u.slot c o.slot).flags = (s.slot c o.slot).flags ∧ (u.core c).vreg e = { val := ((s.core c).vreg e).val, full := true, pend := false } ∧
        (u.slot c o.slot).hit = some ⟨7, 0, o.flags.setWidth 64⟩ ∧ (u.slot c o.slot).pc = o.pc)) ∧
  (∀ (c id e : Nat) (s : State) (o : VOp), (s.core c).vops.find? (fun o => o.id == id) = some o → o.dead = false →
    o.vdst = none → o.sdst = .reg e → o.flags = 0 →
    ∃ u, exec (.vectorComplete c id) s = .next u ∧ (u.core c).entry e = { val := o.sval } ∧ SameMemory s u) ∧
  (∀ (id : Nat) (s : State) (a : Access) (m : VMem), s.acc id = some a → a.stage = .replied → a.kind = .vread → a.slot ≠ 64 →
    a.aside = false → a.dst = .none → (s.slot a.core a.slot).kill = none → (s.core a.core).vmems.find? (fun o => o.id == a.par) = some m →
    (∀ b ∈ s.net, b.id ≠ id → ¬ (b.core = a.core ∧ b.par = a.par ∧ b.slot = a.slot)) → m.sort = 0 → m.fmt = 0 → m.dead = false →
    m.trap = none → m.poison = 0 → m.scale = [] → a.reply.trap = none → a.reply.poison = false →
    let got := m.got ++ a.reply.elems
    let e := laneBytes m.etype
    (got.map (·.k)).Nodup → (∀ g ∈ got, g.k / m.cols < 8 ∧ (g.k % m.cols + 1) * e ≤ 64) →
    ∃ u, exec (.complete id) s = .next u ∧ SameMemory s u ∧ ((u.core a.core).vreg m.dst).full = true ∧
      (∀ g ∈ got, elemAt e ((u.core a.core).vreg m.dst).val (64 * (g.k / m.cols) + g.k % m.cols * e) = g.dat % 2 ^ (8 * e)))

/-- R183, R184, R186, R200, R201: a raw vector, tile or accumulator access to the near window sends every element to
its address, with its data where it stores, and its slot waits for all of them; a load's register is empty-pending. -/
def Obligations.VectorAndTileAccesses : Prop :=
  (∀ (i : Instr) (s t : State) (v : Vals), Issues i s v t → Quiet t →
    let e := laneBytes ((opndOfInstr i).fn.toNat % 8)
    let rows := t.here.rows
    let cols := t.here.cols
    RawAccess i rows cols → ShapeFits t e → NearElements t (rows * cols) e (vecAddr i v cols) →
    ((∃ o, i = .vld o ∨ i = .vgather o) → ∃ u, exec i s = .next u ∧
      ElementsSent t u .vread (rows * cols) e (vecAddr i v cols) (fun _ => none) ∧
      (let r := (u.core s.cur.1).vreg (vecDst i t); r.full = false ∧ r.pend = true)) ∧
    ((∃ o, i = .vst o ∨ i = .vscatter o) → ∃ u, exec i s = .next u ∧
      ElementsSent t u .vwrite (rows * cols) e (vecAddr i v cols) (fun k => some (elemAt e v.vc (64 * (k / cols) + k % cols * e))))) ∧
  (∀ (o : Opnd) (s t : State) (v : Vals), Issues (.tld o) s v t → Quiet t → o.fn.toNat.testBit 0 = true →
    let k := t.core s.cur.1
    let w := k.tcfgAt o.d.toNat
    let n := tileBytes (.tld o) w
    let addr := tileAddr v (strideIn o.c v.c (cfgCols w)) (cfgCols w) n
    badExtent w = false → (k.tile o.d.toNat).pend = false → k.unitReads true o.d.toNat = false →
    NearElements t (cfgRows w * cfgCols w) n addr → ∃ u, exec (.tld o) s = .next u ∧
      ElementsSent t u .vread (cfgRows w * cfgCols w) n addr (fun _ => none) ∧ ((u.core s.cur.1).tile o.d.toNat).full = false) ∧
  (∀ (o : Opnd) (s t : State) (v : Vals), Issues (.tldAcc o) s v t → Quiet t →
    let k := t.core s.cur.1
    let addr := tileAddr v (strideIn o.c v.c 64) 64 16
    (k.acc o.d.toNat).unset = false → (k.acc o.d.toNat).pend = false → k.unitReads false o.d.toNat = false →
    NearElements t 4096 16 addr → ∃ u, exec (.tldAcc o) s = .next u ∧ ElementsSent t u .vread 4096 16 addr (fun _ => none) ∧
      ((u.core s.cur.1).acc o.d.toNat).full = false) ∧
  (∀ (o : Opnd) (s t : State) (v : Vals), Issues (.tst o) s v t → Quiet t → o.fn.toNat.testBit 0 = true →
    let k := t.core s.cur.1
    let w := k.tcfgAt o.c.toNat
    let n := tileBytes (.tst o) w
    let addr := tileAddr v (strideIn o.d v.d (cfgCols w)) (cfgCols w) n
    badExtent w = false → NearElements t (cfgRows w * cfgCols w) n addr → ∃ u, exec (.tst o) s = .next u ∧
      ElementsSent t u .vwrite (cfgRows w * cfgCols w) n addr (fun q =>
        some ((tabGet 0 (k.tile o.c.toNat).cells (q / cfgCols w * 64 + q % cfgCols w)).toNat % (if cfgI8 w then 2 ^ 8 else 2 ^ 19)))) ∧
  (∀ (o : Opnd) (s t : State) (v : Vals), Issues (.tstAcc o) s v t → Quiet t →
    let addr := tileAddr v (strideIn o.d v.d 64) 64 16
    NearElements t 4096 16 addr → ∃ u, exec (.tstAcc o) s = .next u ∧
      ElementsSent t u .vwrite 4096 16 addr (fun q =>
        some (laneOf 128 (tabGet 0 ((t.core s.cur.1).acc o.c.toNat).cells q).toInt)))

/-! ### The matrix unit (10) -/

/-- R194, R198, R199, R203 to R206: a unit instruction that may run enters the empty waiting place with its slot and
pc, its tiles, accumulators and vector register empty-pending, and its start is due. R159, R160, R194, R202 to R204:
the waiting instruction starts when the running place is empty. `tanch` then gives an UNSET accumulator its anchor and
realigns a set one, `tanch.rd` reads the state word, `tanch.clr` clears OVF, `tzero.acc` makes its accumulator UNSET, and `tmma` sets the anchor of an UNSET
accumulator: 0 for I8 tiles, by the largest elements under `.auto`. R157, R158, R161, R202 to R206: the running one
ends with its result: `tzero` clears the cells and OVF, and the accumulator stays UNSET; `tmma` adds to every cell of its region the exact sum of its placed products and
touches no other cell; `tcvt`, `tcvt.tile`, `tvec` and `tvec.in` write each cell's or element's exact value rounded
once; `tanch.rd` writes its word. -/
def Obligations.MatrixUnit : Prop :=
  (∀ (i : Instr) (s t : State) (v : Vals), Issues i s v t → (t.core s.cur.1).mwait = none → UnitMayRun i v t →
    ∃ u p, exec i s = .next u ∧ (u.core s.cur.1).mwait = some p ∧ (u.core s.cur.1).munit = (t.core s.cur.1).munit ∧ p.ins = i ∧
      p.slot = s.cur.2 ∧ p.pc = s.here.pc ∧ .event (.matrixStart s.cur.1) ∈ u.agenda ∧ SameMemory t u ∧
      (∀ n ∈ p.wT, ((u.core s.cur.1).tile n).full = false) ∧ (∀ n ∈ p.wA, ((u.core s.cur.1).acc n).full = false) ∧
      (∀ n, p.vdst = some n → ((u.core s.cur.1).vreg n).full = false ∧ n = vecDst i t) ∧
      ((∃ o, i = .tmma o ∨ i = .tanch o ∨ i = .tanchClr o) → p.wA = [(opndOfInstr i).d.toNat]) ∧
      ((∃ o, i = .tcvtTile o ∨ i = .tvecIn o) → p.wT = [(opndOfInstr i).d.toNat]) ∧
      ((∃ o, i = .tcvt o ∨ i = .tvec o) → p.vdst = some (vecDst i t)) ∧
      (∀ o, i = .tanchRd o → o.d.toNat < 128 → p.sdst = .reg (t.here.sbase + o.d.toNat)) ∧
      (t.here.trapEn = 0 → u.here.run = t.here.run)) ∧
  (∀ (c : Nat) (s : State) (p : MOp), (s.core c).munit = none → (s.core c).mwait = some p →
    (∀ n, (c, 2, n) ∉ s.badRegs ∧ (c, 3, n) ∉ s.badRegs) →
    ∃ u q, exec (.matrixStart c) s = .next u ∧ (u.core c).mwait = none ∧ (u.core c).munit = some q ∧ q.ins = p.ins ∧
      q.slot = p.slot ∧ .event (.matrixComplete c) ∈ u.agenda ∧ SameMemory s u ∧
      (∀ o w, p.ins = .tanch o → p.vals = [w] →
        let a := (s.core c).acc o.d.toNat
        let r := (u.core c).acc o.d.toNat
        (a.unset = true → r = { a with anchor := w.toInt, unset := false }) ∧
        (a.unset = false → r.anchor = w.toInt ∧ r.unset = false ∧ r.full = a.full ∧
          (∀ n, tabGet 0 r.cells n = BitVec.ofInt 80 (moved (tabGet 0 a.cells n).toInt a.anchor w.toInt).1) ∧
          (r.ovf = true ↔ a.ovf = true ∨ ∃ q ∈ a.cells, (moved q.2.toInt a.anchor w.toInt).2 = true))) ∧
      (∀ o, p.ins = .tanchClr o → (u.core c).acc o.d.toNat = { (s.core c).acc o.d.toNat with ovf := false }) ∧
      (∀ o, p.ins = .tzero o → bit o.fn 0 = true → (u.core c).acc o.d.toNat = { (s.core c).acc o.d.toNat with unset := true }) ∧
      (∀ o, p.ins = .tanchRd o → q.vals = [BitVec.ofNat 64 (let a := (s.core c).acc o.a.toNat
        (if a.full then 2 ^ 15 else 0) + (if a.ovf then 2 ^ 14 else 0) + (if a.unset then 2 ^ 13 else 0) +
          (a.anchor % 2 ^ 10).toNat)]) ∧
      (∀ o wa wb, p.ins = .tmma o → p.vals = [wa, wb] → ((s.core c).acc o.d.toNat).unset = true →
        let a := (s.core c).acc o.d.toNat
        let r := (u.core c).acc o.d.toNat
        (cfgI8 wa = true → r = { a with anchor := 0, unset := false }) ∧
        (cfgI8 wa = false → o.fn.toNat.testBit 1 = true → ∀ x y, LargestExp (s.core c) o.a.toNat wa x →
          LargestExp (s.core c) o.b.toNat wb y → r = { a with anchor := x + y - 60, unset := false }))) ∧
  (∀ (c : Nat) (s : State) (p : MOp) (o : Opnd), (s.core c).munit = some p → (s.core c).mwait = none → p.ins = .tzero o →
    p.vdst = none → p.sdst = .none → p.wT = (if bit o.fn 0 then [] else [o.d.toNat]) → p.wA = (if bit o.fn 0 then [o.d.toNat] else []) →
    ∃ u, exec (.matrixComplete c) s = .next u ∧ (u.core c).munit = none ∧ SameMemory s u ∧
      (if bit o.fn 0 then (let a := (u.core c).acc o.d.toNat; a.full = true ∧ a.ovf = false ∧ a.unset = ((s.core c).acc o.d.toNat).unset ∧
          ∀ k, tabGet 0 a.cells k = 0)
       else (let r := (u.core c).tile o.d.toNat; r.full = true ∧ ∀ k, tabGet 0 r.cells k = 0))) ∧
  (∀ (c : Nat) (s : State) (p : MOp) (o : Opnd) (wa wb : Word), (s.core c).munit = some p → (s.core c).mwait = none →
    p.ins = .tmma o → p.vals = [wa, wb] → p.vdst = none → p.sdst = .none → p.wT = [] → p.wA = [o.d.toNat] →
    badExtent wa = false → badExtent wb = false → cfgI8 wa = true →
    let k := s.core c
    let d := k.acc o.d.toNat
    d.unset = false → d.anchor = 0 →
    let M := cfgRows wa
    let K := cfgCols wa
    let N := if bit o.fn 0 then cfgCols wb else cfgRows wb
    ∃ u, exec (.matrixComplete c) s = .next u ∧ (u.core c).munit = none ∧ SameMemory s u ∧
      (let r := (u.core c).acc o.d.toNat
       r.full = true ∧ r.anchor = 0 ∧ r.ovf = d.ovf ∧
       (∀ x y, x < M → y < N → tabGet 0 r.cells (64 * x + y) = tabGet 0 d.cells (64 * x + y) + BitVec.ofInt 80
         ((List.range K).map (fun q => cellInt k o.a.toNat x q *
           (if bit o.fn 0 then cellInt k o.b.toNat q y else cellInt k o.b.toNat y q))).sum) ∧
       (∀ n, ¬ (n / 64 < M ∧ n % 64 < N) → tabGet 0 r.cells n = tabGet 0 d.cells n))) ∧
  (∀ (c : Nat) (s : State) (p : MOp) (o : Opnd) (wa wb : Word), Running s c p → p.ins = .tmma o → p.vals = [wa, wb] →
    p.vdst = none → p.sdst = .none → p.wT = [] → p.wA = [o.d.toNat] →
    badExtent wa = false → badExtent wb = false → cfgI8 wa = false →
    let k := s.core c
    let d := k.acc o.d.toNat
    d.unset = false →
    let M := cfgRows wa
    let K := cfgCols wa
    let N := if bit o.fn 0 then cfgCols wb else cfgRows wb
    let prod (x y q : Nat) : Int × Bool := placedProd d.anchor (cellX k o.a.toNat x q)
      (if bit o.fn 0 then cellX k o.b.toNat q y else cellX k o.b.toNat y q)
    ∃ u, exec (.matrixComplete c) s = .next u ∧ (u.core c).munit = none ∧ SameMemory s u ∧
      (let r := (u.core c).acc o.d.toNat
       r.full = true ∧ r.anchor = d.anchor ∧
       (r.ovf = true ↔ d.ovf = true ∨ ∃ x y q, x < M ∧ y < N ∧ q < K ∧ (prod x y q).2 = true) ∧
       (∀ x y, x < M → y < N → tabGet 0 r.cells (64 * x + y) = tabGet 0 d.cells (64 * x + y) + BitVec.ofInt 80
         ((List.range K).map (fun q => (prod x y q).1)).sum) ∧
       (∀ n, ¬ (n / 64 < M ∧ n % 64 < N) → tabGet 0 r.cells n = tabGet 0 d.cells n))) ∧
  (∀ (c e : Nat) (s : State) (p : MOp), Running s c p → p.vdst = some e → p.sdst = .none → p.wT = [] → p.wA = [] → p.en = 0 →
    let rows := p.vshape.toNat % 2 ^ 4
    let cols := p.vshape.toNat / 2 ^ 8 % 2 ^ 7
    let at' (b : Word) (i j : Nat) : Nat := (b.toNat % 2 ^ 6 + i) * 64 + (b.toNat / 2 ^ 8 % 2 ^ 6 + j)
    let gives (w : Nat) (g : Nat → Nat → Nat × Flags) : Prop :=
      rows ≤ 8 → cols * w ≤ 64 → ∃ u d, exec (.matrixComplete c) s = .next u ∧ (u.core c).munit = none ∧ SameMemory s u ∧
        (u.core c).vreg e = { val := d } ∧ LaneResult ((s.core c).vreg e).val d rows cols w (fun i j => (g i j).1) ∧
        (u.slot c p.slot).flags = (s.slot c p.slot).flags |||
          (List.range rows).foldl (fun x i => (List.range cols).foldl (fun x j => x ||| (g i j).2) x) 0
    (∀ o b, p.ins = .tcvt o → p.vals = [b] → 1 ≤ o.fn.toNat % 4 →
      let f := mFmt (o.fn.toNat % 4)
      let a := (s.core c).acc o.a.toNat
      ∃ g, gives (unitBytes (o.fn.toNat % 4)) g ∧ ∀ i j, (a.unset = true → g i j = (0, 0)) ∧
        (a.unset = false → let q := ((tabGet 0 a.cells (at' b i j)).toInt : ℚ) * (2 : ℚ) ^ a.anchor
          InRange f q → RoundedOnce f.val p.rmode q (g i j))) ∧
    (∀ o b, p.ins = .tvec o → p.vals = [b] →
      let f := mFmt (o.fn.toNat % 4)
      let x (i j : Nat) : Nat := (tabGet 0 ((s.core c).tile o.a.toNat).cells (at' b i j)).toNat
      ∃ g, gives (unitBytes (o.fn.toNat % 4)) g ∧ ∀ i j, (o.fn.toNat % 4 = 0 → g i j = (x i j % 2 ^ 8, 0)) ∧
        (1 ≤ o.fn.toNat % 4 → (∀ q, x19.val (x i j % 2 ^ 19) = some q → InRange f q → RoundedOnce f.val p.rmode q (g i j)) ∧
          ((fdecode x19 (x i j % 2 ^ 19)).isNan = true → g i j = (f.nanBits, 0))))) ∧
  (∀ (c : Nat) (s : State) (p : MOp), Running s c p → p.vdst = none → p.wA = [] →
    (∀ o e w, p.ins = .tanchRd o → p.wT = [] → p.sdst = .reg e → p.vals = [w] → ∃ u, exec (.matrixComplete c) s = .next u ∧
      (u.core c).munit = none ∧ (u.core c).entry e = { val := w } ∧ (u.core c).accs = (s.core c).accs ∧ SameMemory s u) ∧
    (∀ o, p.ins = .tcvtTile o → p.sdst = .none → p.wT = [o.d.toNat] →
      let a := (s.core c).acc o.a.toNat
      ∃ u, exec (.matrixComplete c) s = .next u ∧ (u.core c).munit = none ∧ SameMemory s u ∧
        (let r := (u.core c).tile o.d.toNat
         r.full = true ∧ (a.unset = true → ∀ n, tabGet 0 r.cells n = 0) ∧
           (a.unset = false → ∀ n, let q := ((tabGet 0 a.cells n).toInt : ℚ) * (2 : ℚ) ^ a.anchor
             InRange x19 q → RoundsIn x19.val p.rmode q (tabGet 0 r.cells n).toNat))) ∧
    (∀ o b, p.ins = .tvecIn o → p.sdst = .none → p.wT = [o.d.toNat] → p.vals = [b] →
      let rows := p.vshape.toNat % 2 ^ 4
      let cols := p.vshape.toNat / 2 ^ 8 % 2 ^ 7
      let t := o.fn.toNat % 4
      let row0 := b.toNat % 2 ^ 6
      let col0 := b.toNat / 2 ^ 8 % 2 ^ 6
      let old := (s.core c).tile o.d.toNat
      row0 + rows ≤ 64 → col0 + cols ≤ 64 →
      ∃ u, exec (.matrixComplete c) s = .next u ∧ (u.core c).munit = none ∧ SameMemory s u ∧
        (let r := (u.core c).tile o.d.toNat
         r.full = true ∧
         (∀ i j, i < rows → j < cols →
           let x := elemAt (unitBytes t) p.vsrc (64 * i + j * unitBytes t)
           let y := (tabGet 0 r.cells ((row0 + i) * 64 + (col0 + j))).toNat
           (t = 0 → y = x) ∧
           (1 ≤ t → (∀ q, (mFmt t).val x = some q → InRange x19 q → RoundsIn x19.val .rne q y) ∧
             ((fdecode (mFmt t) x).isNan = true → y = x19.nanBits))) ∧
         (∀ n, ¬ (row0 ≤ n / 64 ∧ n / 64 < row0 + rows ∧ col0 ≤ n % 64 ∧ n % 64 < col0 + cols) →
           tabGet 0 r.cells n = tabGet 0 old.cells n))))

/-! ### Rounds, seats, spills and launches (02, 06, 18) -/

/-- R25, R27, R35: a round starts once the turns of the last are taken: the slots whose waits are all over rejoin, the
order is that of the slots in rotation, and its length is the larger of 8 and their number; a timer that has run out
takes TIMER. R117, R301, R304, R358: a watchdog that runs out, and a task of priority 3 that has waited 65,536 cycles,
stop a slot to be spilled; the spill of the slot whose request the spill engine serves, with nothing outstanding and a
usable save area, frees it, and its task is then parked, quiesced or waits to be restored. R118: the save area then holds
the slot's state, its registers and STATUS 1. -/
def Obligations.RoundsAndSpills : Prop :=
  (∀ (c : Nat) (s : State),
    let k := s.core c
    let t := k.start + k.len
    (k.pos < k.order.length → exec (.roundStart c) s = .next s) ∧
    (k.order.length ≤ k.pos → ∃ u : State, exec (.roundStart c) s = .next u ∧
      (let k' := u.core c
       k'.order = k'.rotation ∧ k'.pos = 0 ∧ k'.start = t ∧ k'.len = max 8 k'.order.length) ∧
      ((∀ p ∈ k.claims, p.2.valid = true → ∀ x, p.2.deadline = some x → t < x) → SameMemory s u ∧
        (∀ n ws, n < 64 → n ≠ 62 → (s.slot c n).run = .out ws → (s.slot c n).spill = none → (∀ w ∈ ws, s.waitOver c n w = true) →
          (u.slot c n).run = .ready ∧ (u.slot c n).timerFrom = t) ∧
        (∀ n, (s.slot c n).run = .ready → (u.slot c n).run = .ready)))) ∧
  (∀ (c n : Nat) (s : State), (s.slot c n).run = .ready → (s.slot c n).hmode = false →
    (s.slot c n).timerDue (s.now c) = true →
    exec (.timerExpiry c n) s = .next ((s.modSlot c n (fun sl =>
      { sl with timer := 0, timerFrom := s.now c, timerHit := false })).takeTrap c n ⟨0x11, 0, 0⟩)) ∧
  (∀ (c n : Nat) (s : State), s.dogOut c n = true → (s.slot c n).gang = false → (s.slot c n).paired = false →
    ∃ u : State, exec (.watchdogFire c n) s = .next u ∧ StoppedFor u c n .watchdog ∧ SameMemory s u) ∧
  (∀ (d t k : Nat) (s : State) (r x : TaskRec), s.taskRec d t = some r → t ∈ (s.dv d).arrivals →
    (s.gnode d r.graph r.node).prio = 3 → s.seeks d r = true → max r.since r.lastPreempt + 65536 ≤ (s.dv d).cycle → s.victims d r = [(k, x)] →
    (s.slot x.core x.slot).gang = false → (s.slot x.core x.slot).paired = false →
    ∃ u : State, exec (.taskPreemptPriority d t) s = .next u ∧ StoppedFor u x.core x.slot .priority ∧
      (u.taskRec d t).map (·.lastPreempt) = some (s.dv d).cycle ∧ SameMemory s u) ∧
  (∀ (c n : Nat) (s t : State) (why : SpillWhy) (r : TaskRec), (s.slot c n).spill = some why → why ≠ .discard →
    (s.slot c n).live = true → (s.slot c n).gang = false → (s.slot c n).kill = none → (s.core c).spilling = some n →
    s.spillReady c n = .inr t →
    let sl := t.slot c n
    let area := sl.savearea.toNat
    t.spillFail (c / 512) sl.space area = none → t.taskRec (c / 512) sl.task = some r →
    ∃ u : State, exec (.spill c n) s = .next u ∧ (u.slot c n).run = .free ∧ (sl.paired = true → (u.slot c (n + 1)).run = .free) ∧
      (∃ r', u.taskRec (c / 512) sl.task = some r' ∧ r'.st = awayState why ∧ r'.core = c ∧ r'.slot = n ∧
        r'.savearea = sl.savearea) ∧
      (∀ e, AreaIn t (c / 512) sl.space area e → Memory.wf t.mem = true → why ≠ .watchdog → sl.msgs.length ≤ 16 →
        ((t.core c).boundClaims n sl.sbase).length ≤ 128 → sl.scount ≤ 128 → sl.vcount ≤ 32 →
        AreaHolds t u c n (e.frame + area % 65536)))

/-- R17, R119, R120, R211, R216, R301, R306: the first in turn of the tasks that wait takes its seat: a new one starts
at its node's entry with its launch record and the rest of its windows zero, both slots of a pair alike, a LEVEL block
then running; and a spilled one goes on with what its save area holds, bits that a register reserves apart, the
trailing slot of a pair where it stood. What the save area has no room for is kept in the task's record (assumption
log 51). A restore that stops leaves the seat free, and the task of a node that is not idempotent is lost. -/
def Obligations.TasksAreSeated : Prop :=
  (∀ (d t a : Nat) (s : State) (r : TaskRec) (q : Seat), s.taskRec d t = some r → s.startPlan d t r = some [((t, q), a)] →
    FirstInTurn s d t →
    let nd := s.gnode d r.graph r.node
    (nd.runahead = true → t < (s.dv d).nextTask) → ∃ u : State, exec (.taskPlace d t) s = .next u ∧ SeatedAt u d t q ∧ SameMemory s u ∧
      (let x := u.slot q.core q.slot
       (∃ w, x.run = .out [w]) ∧ x.pc = BitVec.ofNat 56 nd.entry ∧ x.taskw = BitVec.ofNat 64 r.word ∧
         x.space = (s.graph d r.graph).space ∧ x.sbase = q.sbase ∧ x.scount = nd.scount ∧ x.vbase = q.vbase ∧
         x.vcount = nd.vcount ∧ x.preds = 1 ∧ x.trapEn = 0 ∧ x.tvec = 0 ∧ x.hmode = false ∧ x.msgs = [] ∧ x.vshape = 0x0808 ∧
         x.savearea = BitVec.ofNat 64 ((s.graph d r.graph).areaAddr a % 2 ^ 56 / 2 ^ 12 * 2 ^ 12) ∧
         (nd.paired = true → u.slot q.core (q.slot + 1) = { x with sbase := q.sbase2 } ∧
           ∀ i, i < nd.scount → (u.core q.core).entry (q.sbase2 + i) = if i < 24 then nth {} r.regs i else {})) ∧
      (∀ i, i < nd.scount → (u.core q.core).entry (q.sbase + i) = if i < 24 then nth {} r.regs i else {}) ∧
      (∀ i, i < nd.vcount → (u.core q.core).vreg (q.vbase + i) = {}) ∧
      (nd.kind = 2 → (s.block d r.graph r.node (r.num % 65536)).st = .ready →
        (u.block d r.graph r.node (r.num % 65536)).st = .running)) ∧
  (∀ (d t : Nat) (s : State) (r : TaskRec) (q : Seat), s.taskRec d t = some r → s.restoreSeats d r = some [q] →
    FirstInTurn s d t → (s.gnode d r.graph r.node).gang = false → (s.core q.core).spilling = none →
    s.restoreFail d (s.graph d r.graph).space r.savearea.toNat = none →
    let nd := s.gnode d r.graph r.node
    let num (off n : Nat) : Nat := s.vnum d (s.graph d r.graph).space (r.savearea.toNat + off) n
    let rd (off : Nat) : Nat := num off 8
    let sb := rd 0x58 % 2 ^ 8
    let vb := rd 0x58 / 2 ^ 32 % 2 ^ 8
    ∃ u : State, exec (.restore d t) s = .next u ∧ SeatedAt u d t q ∧
      (let x := u.slot q.core q.slot
       x.run = .out [.over] ∧ x.pc = BitVec.ofNat 56 (rd 0 / 4 * 4) ∧ x.preds = BitVec.ofNat 64 (rd 8 % 2 ^ 16) ∧
         x.trapEn = BitVec.ofNat 5 (rd 0x10 / 2 ^ 8) ∧ x.tvec = BitVec.ofNat 64 (rd 0x18 / 4 * 4) ∧
         x.tcause = BitVec.ofNat 64 (rd 0x20 % 2 ^ 16) ∧ x.tepc = BitVec.ofNat 64 (rd 0x28 / 4 * 4) ∧
         x.tval = BitVec.ofNat 64 (rd 0x30) ∧ x.timer = BitVec.ofNat 64 (rd 0x38) ∧
         x.vshape = BitVec.ofNat 64 (rd 0x40 % 2 ^ 4 + rd 0x40 / 2 ^ 8 % 2 ^ 7 * 2 ^ 8) ∧
         x.hmode = decide (rd 0x48 % 2 = 1) ∧ x.taskw = BitVec.ofNat 64 (rd 0x50 / 2 ^ 56 * 2 ^ 56 + rd 0x50 % 2 ^ 50) ∧
         x.scount = sb ∧ x.sbase = q.sbase ∧ x.vcount = vb ∧ x.vbase = q.vbase ∧ x.savearea = r.savearea ∧
         x.timerHit = r.timerHit ∧ x.handover = r.handover ∧ x.booked = rd 0x60 / 2 ^ 16 % 2 ^ 4 ∧
         x.msgs.map (·.word) = (List.range (rd 0x60 % 2 ^ 5)).map (fun i => BitVec.ofNat 64 (rd (0x80 + 8 * i)))) ∧
      (nd.paired = false →
        (∀ i, i < sb →
          let m := num (0x900 + 2 * i) 2
          let x := (u.core q.core).entry (q.sbase + i)
          x.val = BitVec.ofNat 64 (rd (0x500 + 8 * i)) ∧ x.full = (m.testBit 15 && !m.testBit 13) ∧ x.pend = m.testBit 13 ∧
            x.poison = m.testBit 14 ∧ x.tag = if m.testBit 14 then BitVec.ofNat 12 m else 0) ∧
        (∀ i, i < vb → (u.core q.core).vreg (q.vbase + i) =
          { val := BitVec.ofNat 4096 (num (0x1000 + 512 * i) 512), full := (rd 0xA00).testBit i })) ∧
      (nd.paired = true → (u.slot q.core (q.slot + 1)).run = .out [.over] ∧
        ∀ w es, r.trail = some (w, es) → (u.slot q.core (q.slot + 1)).pc = w.pc)) ∧
  (∀ (d t : Nat) (s : State) (r : TaskRec) (q : Seat) (f : Nat × Nat × Nat), s.taskRec d t = some r → s.restoreSeats d r = some [q] →
    FirstInTurn s d t → (s.core q.core).spilling = none →
    s.restoreFail d (s.graph d r.graph).space r.savearea.toNat = some f →
    let nd := s.gnode d r.graph r.node
    nd.gang = false → nd.idemp = false → nd.kind ≠ 2 →
    ∃ u : State, exec (.restore d t) s = .next u ∧ u.slot q.core q.slot = s.slot q.core q.slot ∧
      (u.taskRec d t).map (·.st) = some .lost)

/-- A write of the headframe in a scratchpad window, whose granule the space owns or finds FREE, has left a dword there; in a
granule of another space it has left the dword as it was (R283, assumption log 12). -/
def PutInPad (s u : State) (space c off x : Nat) : Prop :=
  padNum u c off 8 = if s.mayPad space (.pad c off) = true then x else padNum s c off 8

/-- R295, R296, R298, R328: a trigger word of eight bytes enters the FIFO of a device at READY that has room and a
graph for it, and is discarded with a record of class HEADFRAME where it has not; the oldest word launches its graph,
whose nodes, where none conflicts and none is LEVEL, are all eligible, and their tasks wait with the node's launch
record. R299, R302: a node that is eligible, with no task left or to be made and no write within its scope in flight,
completes; a launch whose nodes are complete ends, and its completion entry in a scratchpad window holds its number,
its lost tasks and its STATUS, unless another space owns the granule (R283); a launch whose patch list is misaligned ends at
once with STATUS 2. That the owner check holds for the headframe with the graph's space is the model's choice (assumption log
12). R316, R319: a LEVEL
node with a FROZEN block, no block running or provisional and no FROZEN task seated becomes FROZEN, with one more
record in its error queue, once no READY block finds a free seat; a node that is not so stays as it is. -/
def Obligations.LaunchesRun : Prop :=
  (∀ (d r : Nat) (s : State) (p : Posted), s.headPost d r = some p → p.bar2 = false → 0x1000 ≤ p.off → p.off < 0x1080 →
    p.bytes.length = 8 → p.off % 8 = 0 →
    let v := s.dv d
    let w : Word := BitVec.ofNat 64 (numOf p.bytes)
    let good := v.stage = 6 ∧ v.trig.length < 64 ∧ w.toNat / 2 ^ 56 % 4 = 0 ∧
      ∃ g, tabFind v.graphs (w.toNat / 2 ^ 58) = some g ∧ g.quiesced = false
    ∃ u : State, exec (.triggerWrite d r) s = .next u ∧ TookPost s u d r ∧ SameMemory s u ∧
      (good → (u.dv d).trig = v.trig ++ [w] ∧ .eventAt d .launch ∈ u.agenda) ∧
      (¬ good → (u.dv d).trig = v.trig) ∧
      (v.stage = 6 → ¬ good → (u.dv d).logSeq = v.logSeq + 1 ∧ ((u.dv d).record (v.logSeq.toNat % 256)).cls = 9)) ∧
  (∀ (s : State) (w : Word) (ws : List Word) (g : Graph),
    let d := s.dev
    let gi := w.toNat / 2 ^ 58
    (s.dv d).trig = w :: ws → w.toNat % 2 ^ 58 = 0 → tabFind (s.dv d).graphs gi = some g → g.quiesced = false →
    g.launches = [] → (∀ nd ∈ g.nodes, nd.kind ≠ 2 ∧ nth 0 nd.raw 3 = 0) →
    ∃ u : State, exec .launch s = .next u ∧ (u.dv d).trig = ws ∧ (u.graph d gi).next = (g.next + 1) % 2 ^ 32 ∧ SameMemory s u ∧
      (∃ l, (u.graph d gi).launches = [l] ∧ l.no = g.next ∧ l.nodes = g.nodes.map (fun _ => .eligible)) ∧
      (∀ nd, g.nodes = [nd] → 0 < nd.count → (s.dv d).tasks.length < 262144 →
        ∃ r, u.taskRec d (s.dv d).nextTask = some r ∧ r.st = .waiting ∧ r.graph = gi ∧ r.node = 0 ∧ r.num = 0 ∧
          r.launch = g.next ∧ r.regs = nd.regs.map entryOf)) ∧
  (∀ (cid off : Nat) (s : State) (w : Word) (ws : List Word) (g : Graph),
    let d := s.dev
    let gi := w.toNat / 2 ^ 58
    (s.dv d).trig = w :: ws → w.toNat / 2 ^ 56 % 4 = 0 → tabFind (s.dv d).graphs gi = some g → g.quiesced = false →
    w.toNat % 8 ≠ 0 → g.compl + 16 * (g.next % 64) = 0x10000000000 + cid * 2 ^ 24 + off → cid < 512 → off + 16 ≤ 2 ^ 24 →
    g.next < 2 ^ 32 → Memory.wf s.mem = true →
    ∃ u : State, exec .launch s = .next u ∧ (u.dv d).trig = ws ∧ (u.graph d gi).next = (g.next + 1) % 2 ^ 32 ∧
      (u.graph d gi).launches = g.launches ∧ PutInPad s u g.space (512 * d + cid) off (g.next * 2 ^ 32) ∧
      PutInPad s u g.space (512 * d + cid) (off + 8) 2) ∧
  (∀ (d g lno n : Nat) (s : State) (l : Launch), s.makeMore d = s → (s.graph d g).launch lno = some l →
    (s.gnode d g n).openN = false → (s.gnode d g n).kind ≠ 2 → n < (s.graph d g).nodes.length →
    nth .waiting l.nodes n = .eligible → s.tasksOver d g l n = true → s.releasePending d g lno n = false →
    ∃ u : State, exec (.nodeComplete d g lno n) s = .next u ∧ SameMemory s u ∧ .event (.launchComplete d g lno) ∈ u.agenda ∧
      (∃ l', (u.graph d g).launch lno = some l' ∧ nth .waiting l'.nodes n = .complete)) ∧
  (∀ (d g lno cid off : Nat) (s : State) (l : Launch), (s.graph d g).launch lno = some l → (∀ x ∈ l.nodes, x = .complete) →
    s.launchPending d g lno = false → (∀ p ∈ (s.dv d).tasks, ¬ (p.2.graph = g ∧ p.2.launch = lno)) →
    (s.graph d g).compl + 16 * (lno % 64) = 0x10000000000 + cid * 2 ^ 24 + off → cid < 512 → off + 16 ≤ 2 ^ 24 →
    Memory.wf s.mem = true → lno < 2 ^ 32 → l.status < 2 ^ 32 →
    ∃ u : State, exec (.launchComplete d g lno) s = .next u ∧ (u.graph d g).launch lno = none ∧
      PutInPad s u (s.graph d g).space (512 * d + cid) off (lno * 2 ^ 32 + l.lost % 2 ^ 32) ∧
      PutInPad s u (s.graph d g).space (512 * d + cid) (off + 8) l.status) ∧
  (∀ (d g n : Nat) (s : State), s.evalBlocks d g n = s →
    let nd := s.gnode d g n
    let due := nd.kind = 2 ∧ nd.frozen = false ∧ (∃ b ∈ nd.board, b.st = .frozen) ∧
      (∀ b ∈ nd.board, b.st ≠ .running ∧ b.st ≠ .provisional) ∧ s.frozenSeated d g n = false
    (due → s.readySeat d g n = none → ∃ u : State, exec (.nodeFreeze d g n) s = .next u ∧ (u.gnode d g n).frozen = true ∧
      (u.gnode d g n).errs = nd.errs + 1 ∧ u.cores = s.cores) ∧
    (∀ t, due → s.readySeat d g n = some t → ∃ u : State, exec (.nodeFreeze d g n) s = .next u ∧ SameMemory s u ∧
      (u.gnode d g n).frozen = false ∧ .event (.taskPlace d t) ∈ u.agenda ∧ .event (.nodeFreeze d g n) ∈ u.agenda) ∧
    (¬ due → exec (.nodeFreeze d g n) s = .next s))

/-! ### The host interface (21) -/

/-- R325, R326, R328, R332, R333, R338: the writes of BAR 0: a doorbell takes the command, or sets OVERRUN while one
is served; CMDBUF holds what is written; DONE and OVERRUN clear by a 1; the power limit lies between 600 and 1,800 W.
That a command that is not listed is answered in the doorbell's own step is the model's choice (assumption log 64).
R327, R328, R330: a posted write through an aperture leaves its bytes at its place and touches no other byte, and one
that fails writes a record of class HOST; a read gives the bytes at its place, ones where it fails, with a record, and
the registers of BAR 0 as R325 lists them, once the requester's posted writes are performed; a posted write that
arrives enters its requester's queue, or waits for credits while that holds 512. R324: a read of the configuration
space gives the identifier, the class and the kinds of the BARs, at the offsets of PCI (assumption log 65). -/
def Obligations.HostAccesses : Prop :=
  (∀ (d r : Nat) (s : State) (w : Posted), s.headPost d r = some w → w.bar2 = false → w.bytes.length = 8 → w.off % 8 = 0 →
    let v := s.dv d
    let x := numOf w.bytes
    (w.off = 0x3000 → v.busy = false → ∃ u : State, exec (.bar0RegisterWrite d r) s = .next u ∧ SameMemory s u ∧ TookPost s u d r ∧
      (∀ k, v.command = some k → (u.dv d).busy = true ∧ .eventAt d (commandStep k) ∈ u.agenda) ∧
      (v.command = none → (u.dv d).busy = false ∧ (u.dv d).done = true ∧ (u.dv d).cmdw 0 % 2 ^ 32 = 1)) ∧
    (w.off = 0x3000 → v.busy = true → ∃ u : State, exec (.cmddbOverrun d r) s = .next u ∧ SameMemory s u ∧
      (u.dv d).overrun = true ∧ (u.dv d).cmdbuf = v.cmdbuf ∧ (u.dv d).busy = true ∧ TookPost s u d r) ∧
    (∀ i, w.off = 0x2000 + 8 * i → i < 512 → ∃ u : State, exec (.bar0RegisterWrite d r) s = .next u ∧ SameMemory s u ∧
      TookPost s u d r ∧ (u.dv d).cmdw i = x ∧ (∀ j, j ≠ i → (u.dv d).cmdw j = v.cmdw j)) ∧
    (w.off = 0x3008 → ∃ u : State, exec (.bar0RegisterWrite d r) s = .next u ∧ SameMemory s u ∧ TookPost s u d r ∧
      (u.dv d).done = (v.done && !x.testBit 1) ∧ (u.dv d).overrun = (v.overrun && !x.testBit 2) ∧ (u.dv d).busy = v.busy) ∧
    (w.off = 0x4000 → ∃ u : State, exec (.plimitWrite d r) s = .next u ∧ SameMemory s u ∧ TookPost s u d r ∧
      (u.dv d).plimit = min 1800 (max 600 (x % 2 ^ 16)))) ∧
  (∀ (d r : Nat) (s : State) (w : Posted), s.headPost d r = some w → w.bar2 = true →
    (∀ space pa, ApertureAt s d w.off true space pa → OneKey s d space → Memory.wf s.mem = true →
      ∃ u : State, exec (.hostBar2Write d r) s = .next u ∧ TookPost s u d r ∧ u.cores = s.cores ∧
        (space = 0 → 0x2F00000000 < pa + w.bytes.length → SameMemory s u) ∧
        (space ≠ 0 ∨ pa + w.bytes.length ≤ 0x2F00000000 →
          ∀ k, cellGet u.mem k = (let a := d * 2 ^ 48 + pa
            if a ≤ k ∧ k < a + w.bytes.length then nth 0 w.bytes (k - a) else cellGet s.mem k))) ∧
    ((∀ space pa, ¬ ApertureAt s d w.off true space pa) → ∃ u : State, exec (.hostBar2Write d r) s = .next u ∧ SameMemory s u ∧
      TookPost s u d r ∧ HostFails s u d)) ∧
  (∀ (d r off n : Nat) (s : State), (s.dv d).queue r = [] →
    ∃ u : State, exec (.hostBar2Read d r off n) s = .next u ∧ SameMemory s u ∧
      (let got := tabGet [] (u.dv d).hostRead r
       (∀ space pa, off < 2 ^ 32 → ApertureAt s d off false space pa → got = s.readBytes space (.dram d pa) n) ∧
       (off < 2 ^ 32 → (∀ space pa, ¬ ApertureAt s d off false space pa) → got = List.replicate n 0xFF ∧ HostFails s u d) ∧
       (∀ i, off = 2 ^ 32 + 8 * i → off < 2 ^ 33 → n = 8 → Bar0Reads (s.dv d) (8 * i) (numOf got)) ∧
       (n = 4 → (off = 2 ^ 33 → numOf got / 2 ^ 16 = 0x4C33) ∧ (off = 2 ^ 33 + 8 → numOf got / 2 ^ 16 = 0x1200) ∧
         (off = 2 ^ 33 + 0x10 → numOf got % 2 ^ 24 = 4) ∧ (off = 2 ^ 33 + 0x18 → numOf got = 0xC)))) ∧
  (∀ (d r off n : Nat) (s : State), (s.dv d).queue r ≠ [] →
    exec (.hostBar2Read d r off n) s = .next (s.later (.hostBar2Read d r off n))) ∧
  (∀ (d r : Nat) (s : State) (w : Posted), ∃ u : State, s.choose (.post d r w) = .next u ∧ SameMemory s u ∧
    (((s.dv d).queue r).length < 512 → (u.dv d).queue r = (s.dv d).queue r ++ [w]) ∧
    (512 ≤ ((s.dv d).queue r).length → (u.dv d).queue r = (s.dv d).queue r ∧
      (u.dv d).waitingPosts r = (s.dv d).waitingPosts r ++ [w]))

/-- R283, R286, R335, R337: a fundamental reset takes its device to stage 0 with no graph, task, trigger or token and
its cores as after reset, and keeps the nonvolatile store; every other core is as before. Then one stage after another
does its work and is recorded, up to READY: stage 1 makes the stored image active when its check passes, stage 3
clears the space-0 region, stage 4 zeroes the scratchpads, frees their granules, clears the error log and draws a new
key, and the device is reached again after stage 5; a stage that fails leaves STAGE 15 with its number in FAILCODE.
The steps in which the stages end are the model's choice (assumption log 36). R329, R338, R344, R357: a heartbeat
heard restarts the silence count, and one is sent on every port once a millisecond; a device that is silent for 16 ms
or reports a fatal fault is fenced, and every other one records it; the oldest egress write leaves; each millisecond
the clock steps by 25 MHz toward the power limit. -/
def Obligations.DevicesResetAndFence : Prop :=
  (∀ s : State,
    let d := s.dev
    let v := s.dv d
    v.boot = none → ∃ u : State, exec .reset s = .next u ∧ .eventAt d .reset ∈ u.agenda ∧
      (let x := u.dv d
       x.stage = 0 ∧ x.boot.isSome = true ∧ x.graphs = [] ∧ x.tasks = [] ∧ x.trig = [] ∧ x.tokens = [] ∧ x.roots = [] ∧
         x.apertures = [] ∧ x.busy = false ∧ x.plimit = 1800 ∧ x.romonly = true ∧ x.extActive = none ∧
         x.extStored = v.extStored ∧ x.minVersion = v.minVersion ∧ x.sigUsed = v.sigUsed) ∧
      (∀ c, c / 512 = d → u.core c = {}) ∧ (∀ c, c / 512 ≠ d → u.core c = s.core c)) ∧
  (∀ (s : State) (k : Nat),
    let d := s.dev
    let v := s.dv d
    v.boot = some k →
    (v.stage = k → ∃ u : State, exec .reset s = .next u ∧ SameMemory s u ∧ (u.dv d).stage = 15 ∧ (u.dv d).failcode = k ∧
      (u.dv d).boot = none) ∧
    (v.stage ≠ k → v.stage < 6 → ∃ u : State, exec .reset s = .next u ∧ u.cores = s.cores ∧
      (let x := u.dv d
       x.stage = v.stage + 1 ∧ x.extStored = v.extStored ∧ (v.stage ≠ 1 → x.minVersion = v.minVersion) ∧ x.sigUsed = v.sigUsed ∧
         (v.stage < 5 → x.boot = v.boot ∧ .eventAt d .reset ∈ u.agenda) ∧ (v.stage = 5 → x.boot = none ∧ x.fenced = false) ∧
         (v.stage = 1 → match v.extStored with
           | some img =>
             if Config.imageVerifies img = true ∧ v.minVersion.toNat ≤ (Config.imageVersion img).toNat then
               x.romonly = false ∧ x.extActive = some img ∧ x.minVersion = Config.imageVersion img
             else x.romonly = v.romonly ∧ x.extActive = v.extActive ∧ x.minVersion = v.minVersion
           | none => x.romonly = v.romonly ∧ x.extActive = v.extActive ∧ x.minVersion = v.minVersion) ∧
         (v.stage = 3 → ∀ pa, 0x2F00000000 ≤ pa → pa < 0x3000000000 → cellGet u.mem (d * 2 ^ 48 + pa) = 0) ∧
         (v.stage = 4 → x.log = [] ∧ x.logSeq = 0 ∧ x.counters = [] ∧ x.keys = [] ∧ x.keyBase = v.nextKey ∧
           ∀ c off, c / 512 = d → off < 2 ^ 24 → cellGet u.mem (keyOf (.pad c off)) = 0 ∧ u.ownerOf (.pad c off) = 0) ∧
         (v.stage ≠ 4 → x.log = v.log ∧ x.logSeq = v.logSeq ∧ x.keys = v.keys ∧ x.keyBase = v.keyBase)) ∧
      (Memory.wf s.mem = true → ∀ a, a / 2 ^ 48 ≠ d → cellGet u.mem a = cellGet s.mem a))) ∧
  (∀ (d plane : Nat) (s : State), plane < 32 → ((s.dv d).link (8 + plane)).retired = false →
    ∃ u : State, exec (.heartbeatReceive d plane) s = .next u ∧ (u.dv d).heard = s.panelMs ∧ u.cores = s.cores) ∧
  (∀ s : State, (s.dv s.dev).beatSent < (s.dv s.dev).ms →
    ∃ u : State, exec .heartbeatSend s = .next u ∧ (u.dv s.dev).beatSent = (s.dv s.dev).ms ∧
      ∀ p, p < 32 → .event (.heartbeatReceive s.dev p) ∈ u.agenda) ∧
  (∀ s : State, (s.dv s.dev).beatSent = (s.dv s.dev).ms → exec .heartbeatSend s = .next s) ∧
  (∀ s : State,
    let d := s.dev
    let v := s.dv d
    let due := v.onPanel = true ∧ v.fenced = false ∧ (v.fatal = true ∨ v.heard + 16 ≤ s.panelMs)
    (¬ due → exec .deviceFence s = .next s) ∧
    (due → ∃ u : State, exec .deviceFence s = .next u ∧ (u.dv d).fenced = true ∧ SameMemory s u ∧
      ∀ e, e < 64 → e ≠ d → (s.dv e).onPanel = true → (s.dv e).fenced = false →
        (u.dv e).logSeq = (s.dv e).logSeq + 1 ∧ ((u.dv e).record ((s.dv e).logSeq.toNat % 256)).cls = 6)) ∧
  (∀ (s : State) (e : Egress) (r : List Egress), (s.dv s.dev).egress = e :: r →
    ∃ u : State, exec .egressPost s = .next u ∧ (u.dv s.dev).egress = r ∧ (u.dv s.dev).sentOut = (s.dv s.dev).sentOut ++ [e]) ∧
  (∀ s : State,
    let v := s.dv s.dev
    let p := Config.power s.dev (v.ms + 1)
    ∃ u : State, exec .powerTick s = .next u ∧ (u.dv s.dev).power = p ∧ (u.dv s.dev).ms = v.ms + 1 ∧
      (v.plimit < p → 400 < v.clock → (u.dv s.dev).clock = v.clock - 25 ∧ (u.dv s.dev).pevtn = v.pevtn + 1) ∧
      (p * 100 < 97 * v.plimit → v.clock < 1600 → (u.dv s.dev).clock = v.clock + 25 ∧ (u.dv s.dev).pevtn = v.pevtn + 1) ∧
      (p ≤ v.plimit → 97 * v.plimit ≤ p * 100 → (u.dv s.dev).clock = v.clock ∧ (u.dv s.dev).pevtn = v.pevtn))

/-- R270, R271, R341: a flit that fails its check counts as resent; calibration goes round the lanes of a group; a
first lane that fails leaves its group's rotation, and a second, or eight failed resends in a row, retire the link or
port. R222, R272, R274, R288, R289: the scrubber leaves memory as it was, and counts corrected errors; an
uncorrectable scratchpad word is poisoned with the tag of its record, and one of headframe memory is recorded, which
the model reaches by offsets from 16 MiB on (assumption log 63); a multi-bit error of device memory poisons the eight
words of its unit; an uncorrectable error of the scalar file poisons its entry, and one of another file is remembered
until a full write. -/
def Obligations.LinksAndErrors : Prop :=
  (∀ (d l : Nat) (s : State),
    let x := (s.dv d).link l
    (isDieLink l = true ∨ isPort l = true) → x.retired = false →
    (∃ u : State, exec (.flitResend d l) s = .next u ∧ SameMemory s u ∧
      (let y := (u.dv d).link l
       (x.row ≤ 8 → (y.row = 1 ∨ y.row = x.row + 1) ∧ (y.row ≤ 8 → y.resends = x.resends + 1) ∧ (9 ≤ y.row → y.resends = x.resends)) ∧
         (9 ≤ x.row → y.row = x.row) ∧ (9 ≤ y.row → .event (retireStep d l) ∈ u.agenda))) ∧
    (∀ g, g < groupCount l → (x.group g).out = none →
      (∃ u : State, exec (.laneCalibrationRotate d l g) s = .next u ∧
        (((u.dv d).link l).group g).cal = ((x.group g).cal + 1) % (if l < 6 then 17 else 5)) ∧
      (∀ lane, lane < (if l < 6 then 17 else 5) → ∃ u : State, exec (.laneFailure d l g lane) s = .next u ∧
        (((u.dv d).link l).group g).out = some lane ∧ (u.dv d).logSeq = (s.dv d).logSeq + 1)) ∧
    (∀ g a b, g < groupCount l → (x.group g).out = some a → b ≠ a → b < (if l < 6 then 17 else 5) →
      ∃ u : State, exec (.laneFailure d l g b) s = .next u ∧ (((u.dv d).link l).group g).second = true ∧
        .event (retireStep d l) ∈ u.agenda)) ∧
  (∀ (d l : Nat) (s : State),
    let x := (s.dv d).link l
    (¬ (x.retired = false ∧ (9 ≤ x.row ∨ ∃ p ∈ x.groups, p.2.second = true)) →
      exec (.linkRetire d l) s = .next s ∧ (8 ≤ l → exec (.portRetire d (l - 8)) s = .next s)) ∧
    (x.retired = false → (9 ≤ x.row ∨ ∃ p ∈ x.groups, p.2.second = true) →
    (l < 6 → ∃ u : State, exec (.linkRetire d l) s = .next u ∧ ((u.dv d).link l).retired = true ∧
      (u.dv d).logSeq = (s.dv d).logSeq + 1) ∧
    (8 ≤ l → l < 40 → ∃ u : State, exec (.portRetire d (l - 8)) s = .next u ∧ ((u.dv d).link l).retired = true ∧
      (u.dv d).logSeq = (s.dv d).logSeq + 1))) ∧
  (∀ (c off : Nat) (s : State), ∃ u : State, exec (.sramScrub c off) s = .next u ∧ SameMemory s u ∧ u.cores = s.cores ∧
    ∀ k, (tabGet 0 (u.dv (c / 512)).counters k).toNat = (tabGet 0 (s.dv (c / 512)).counters k).toNat ∨
      (k ∈ [1, 2, 3, 9] ∧ (tabGet 0 (u.dv (c / 512)).counters k).toNat = min 0xFFFFFFFF ((tabGet 0 (s.dv (c / 512)).counters k).toNat + 1))) ∧
  (∀ (c off : Nat) (s : State), off < 2 ^ 24 →
    ∃ u : State, exec (.sramUncorrectable c off) s = .next u ∧ u.mem = s.mem ∧
      u.wordTag (keyOf (.pad c off)) = 2 * 2 ^ 8 + (s.dv (c / 512)).logSeq.toNat % 2 ^ 8 ∧
      (∀ a, a / 8 ≠ keyOf (.pad c off) / 8 → u.wordTag a = s.wordTag a) ∧
      ((u.dv (c / 512)).record ((s.dv (c / 512)).logSeq.toNat % 256)).cls = 2) ∧
  (∀ (c off : Nat) (s : State), 2 ^ 24 ≤ off → ∃ u : State, exec (.sramUncorrectable c off) s = .next u ∧ SameMemory s u ∧
    u.cores = s.cores ∧ ((u.dv (c / 512)).record ((s.dv (c / 512)).logSeq.toNat % 256)).cls = 9) ∧
  (∀ (d pa : Nat) (s : State), pa < dramSize →
    let a := d * 2 ^ 48 + pa
    ∃ u : State, exec (.gddr7MultibitError d pa) s = .next u ∧ u.mem = s.mem ∧
      (s.unitTag (a / 8) = 0 → ∀ k, k / 64 = a / 64 → u.wordTag k = 2 ^ 8 + (s.dv d).logSeq.toNat % 2 ^ 8) ∧
      (∀ k, k / 64 ≠ a / 64 → u.wordTag k = s.wordTag k)) ∧
  (∀ (c i : Nat) (s : State), i < 2048 →
    ∃ u : State, exec (.regfileUncorrectable c 0 i) s = .next u ∧ SameMemory s u ∧
      (u.core c).entry i = { (s.core c).entry i with poison := true, tag := BitVec.ofNat 12 (3 * 256 + (s.dv (c / 512)).logSeq.toNat % 256) } ∧
      (∀ j, j ≠ i → (u.core c).entry j = (s.core c).entry j)) ∧
  (∀ (c f i : Nat) (s : State), (f = 1 ∧ i < 256) ∨ (f = 2 ∧ i < 16) ∨ (f = 3 ∧ i < 4) →
    ∃ u : State, exec (.regfileUncorrectable c f i) s = .next u ∧ (c, f, i) ∈ u.badRegs ∧ u.cores = s.cores ∧ SameMemory s u)

/-! ### The command set (21) -/

/-- R332, R333, R334: a step of the command set does nothing unless BUSY is set; a command that is not listed or whose
length is wrong is answered BAD_COMMAND, one before READY other than IDENTIFY and LINK_STATUS STATE, and one with a
reserved header bit set BAD_ARGUMENT. The order of these checks is the model's choice (NOTES.md). R286, R287, R289,
R330, R334 to R336: IDENTIFY, ATTEST, LOAD_FIRMWARE, KEY_SET, ERROR_LOG_READ, WATCH_CONFIG, LINK_STATUS and MAP of an
aperture: their results, the state that they change and the arguments that they refuse. A watch of space 0 by a
physical address, the refusal of an aperture's address with bits [63:56] set, and the computation of ATTEST's digests,
which R336 only names, are the model's choice (assumption logs 43, 67, 66); the lane groups that LINK_STATUS lists for
both directions are its reading (log 18). -/
def Obligations.Commands : Prop :=
  (∀ p ∈ commandSteps, ∀ s : State,
    let v := s.dv s.dev
    (v.busy = false → exec p.2 s = .next s) ∧
    (v.busy = true → v.command = none → Answers p.2 s 1 []) ∧
    (v.busy = true → v.command = some p.1 → v.stage ≠ 6 → p.1 ≠ 4 → p.1 ≠ 48 → Answers p.2 s 7 []) ∧
    (v.busy = true → v.command = some p.1 → (v.stage = 6 ∨ p.1 = 4 ∨ p.1 = 48) → v.cmdw 0 / 2 ^ 24 % 2 ^ 8 ≠ 0 →
      Answers p.2 s 2 [])) ∧
  (∀ s : State,
    let d := s.dev
    let v := s.dv d
    let a := s.arg
    let id := if v.onPanel then d % 64 + Config.panel.toNat * 2 ^ 6 + 2 ^ 12 else 0
    (Commanded s 4 → Answers .identify s 0 ([(Config.romVersion d).toNat +
      (v.extActive.map (fun img => (Config.imageVersion img).toNat)).getD 0 * 2 ^ 32, id, (Config.serial d).toNat] ++ (List.range 8).map (fun i => (Config.identityKey d i).toNat) ++ [v.sigUsed])) ∧
    (Commanded s 8 →
      (2 ^ 20 ≤ v.sigUsed → Answers .attest s 8 []) ∧
      (v.sigUsed < 2 ^ 20 → ∃ (u : State) (res : List Nat), exec .attest s = .next u ∧ Responded s u 0 res ∧
        (u.dv d).sigUsed = v.sigUsed + 1 ∧ res.length = 370 ∧ res.take 4 = [a 1, a 2, a 3, a 4] ∧
        (res.drop 4).take 4 = (List.range 4).map (fun i => (Config.romDigest d i).toNat) ∧
        (v.extActive = none → (res.drop 8).take 4 = [0, 0, 0, 0]) ∧
        (∀ img, v.extActive = some img → (res.drop 8).take 4 = shakeDigest img) ∧
        (res.drop 12).take 4 = shakeDigest ([id, (Config.serial d).toNat, 6 + (if v.romonly then 2 ^ 17 else 0), v.plimit].flatMap
          (bytesOf 8)) ∧
        nth 0 res 16 = v.sigUsed ∧ nth 0 res 17 % 2 ^ 32 = v.sigUsed)) ∧
    (Commanded s 12 → ∀ img, s.argBytes d (a 1) (a 2) = some img →
      let ver := Config.imageVersion img
      if Config.imageVerifies img = true ∧ v.minVersion.toNat ≤ ver.toNat then
        ∃ u : State, exec .loadFirmware s = .next u ∧ Responded s u 0 [ver.toNat] ∧ (u.dv d).extStored = some img ∧
          (u.dv d).minVersion = ver ∧ (u.dv d).extActive = v.extActive
      else Answers .loadFirmware s 5 []) ∧
    (Commanded s 20 →
      let space := a 1 % 2 ^ 11
      if a 1 < 2 ^ 11 ∧ space ≠ 0 ∧ [a 2, a 3, a 4, a 5] ≠ [a 6, a 7, a 8, a 9] then
        ∃ u : State, exec .keySet s = .next u ∧ Responded s u 0 [] ∧ u.keyId d space = pairIdentity ((List.range 8).map (fun k => a (k + 2))) ∧
          (∀ x, x ≠ space → u.keyId d x = s.keyId d x) ∧ SameMemory s u
      else Answers .keySet s 2 []) ∧
    (∀ x y : List Nat, x.length = 8 → y.length = 8 → (∀ w ∈ x ++ y, w < 2 ^ 64) → pairIdentity x = pairIdentity y → x = y) ∧
    (Commanded s 40 →
      let n := a 1 / 2 ^ 8 % 2 ^ 7
      if a 1 < 2 ^ 16 ∧ n ≤ 120 then ∃ (u : State) (res : List Nat), exec .errorLogRead s = .next u ∧ Responded s u 0 res ∧
        res.length = 8 + 4 * n ∧ (u.dv d).counters = (if (a 1).testBit 15 then [] else v.counters) ∧
        (∀ i, i < 8 → nth 0 res i = (tabGet 0 v.counters (2 * i)).toNat + (tabGet 0 v.counters (2 * i + 1)).toNat * 2 ^ 32) ∧
        (∀ i j, i < n → j < 4 → nth 0 res (8 + 4 * i + j) = ((v.record ((a 1 % 2 ^ 8 + i) % 256)).dword j).toNat)
      else Answers .errorLogRead s 2 []) ∧
    (Commanded s 44 → a 1 < 2 ^ 27 → a 1 / 2 ^ 13 % 2 ^ 3 = 0 → a 2 % 8 = 0 → a 3 % 64 = 0 →
      let i := a 1 % 2 ^ 12
      ((a 1).testBit 12 = false → ∃ u : State, exec .watchConfig s = .next u ∧ Responded s u 0 [] ∧
        (tabGet {} (u.dv d).wtab i).en = false) ∧
      ((a 1).testBit 12 = true → a 1 / 2 ^ 16 = 0 →
        if a 2 + 8 ≤ dramSize then ∃ u : State, exec .watchConfig s = .next u ∧ Responded s u 0 [] ∧
          tabGet {} (u.dv d).wtab i = { en := true, space := 0, pa := a 2, line := BitVec.ofNat 64 (a 3) }
        else Answers .watchConfig s 2 []) ∧
      ((a 1).testBit 12 = true → ∀ space, space = a 1 / 2 ^ 16 → space ≠ 0 →
        (∀ e, areaOf (a 2) = .xlat → s.walk d space (a 2) = .leaf e → e.tgt = 0 →
          ∃ u : State, exec .watchConfig s = .next u ∧ Responded s u 0 [] ∧ tabGet {} (u.dv d).wtab i =
            { en := true, space := space, pa := e.frame + a 2 % e.size, line := BitVec.ofNat 64 (a 3) }) ∧
        ((∀ e, areaOf (a 2) = .xlat → s.walk d space (a 2) = .leaf e → e.tgt ≠ 0) → Answers .watchConfig s 2 []))) ∧
    (Commanded s 48 →
      if isDieLink (a 1) = true ∨ isPort (a 1) = true then
        let x := v.link (a 1)
        Answers .linkStatus s 0 ((List.range (if a 1 < 6 then 32 else 2)).map (fun g =>
          (x.group g).cal % 32 + (if (x.group g).out.isSome then 2 ^ 5 else 0) + (x.group g).out.getD 0 % 32 * 2 ^ 6 +
            (if x.retired then 2 ^ 11 else 0) + x.resends.toNat * 2 ^ 32))
      else Answers .linkStatus s 2 []) ∧
    (Commanded s 18 →
      if a 1 / 2 ^ 11 % 2 ^ 5 = 0 ∧ a 1 / 2 ^ 20 % 2 ^ 12 = 0 ∧ a 2 % 2 ^ 21 = 0 ∧ a 2 < 2 ^ 56 ∧ a 3 < 2048 then
        ∃ u : State, exec .mapAperture s = .next u ∧ Responded s u 0 [] ∧ SameMemory s u ∧
          tabFind (u.dv d).apertures (a 3) = some (a 1 % 2 ^ 11, a 2) ∧
          (∀ k, k ≠ a 3 → tabFind (u.dv d).apertures k = tabFind v.apertures k)
      else Answers .mapAperture s 2 []))

/-- R277 to R279, R282, R334: MAP of one 64 KiB page whose tables stand writes the leaf, and a walk of the page then
gives the translation that the entry says; the immediate mode leaves no buffer of the device an old entry of it, the
deferred mode changes no buffer. -/
def Obligations.MapWritesALeaf : Prop :=
  ∀ (s : State) (i : Instr) (leaf e0 e1 : Nat),
    let d := s.dev
    let space := s.arg 1 % 2 ^ 11
    let va := s.arg 2
    (i = .map ∧ Commanded s 16 ∨ i = .mapDeferred ∧ Commanded s 17) →
    s.arg 1 / 2 ^ 32 = 1 → s.arg 1 / 2 ^ 11 % 2 ^ 5 = 0 → s.arg 1 / 2 ^ 18 % 2 ^ 14 = 0 → space ≠ 0 →
    va % 65536 = 0 → 2 ^ 44 ≤ va → va < 2 ^ 52 → s.argWords d (s.arg 3) 2 = some [e0, e1] → e0 / 2 ^ 62 = 3 →
    badEntry 65536 e0 e1 = false → TablesTo s d space va leaf → OneKey s d 0 → Memory.wf s.mem = true →
    s.rangeInUse d space va 65536 = false →
    ∃ u : State, exec i s = .next u ∧ Responded s u 0 [] ∧ u.walk d space va = .leaf (leafOf space va 65536 e0 e1) ∧
      (∀ k, ¬ (d * 2 ^ 48 + leaf ≤ k ∧ k < d * 2 ^ 48 + leaf + 16) → cellGet u.mem k = cellGet s.mem k) ∧
      (i = .map → ∀ c, c / 512 = d → ∀ x ∈ (u.core c).tlb, ¬ (x.space = space ∧ x.page = va ∧ 0 < x.size)) ∧
      (i = .mapDeferred → ∀ c, (u.core c).tlb = (s.core c).tlb)

/-- R216, R228, R290 to R293, R334: GRAPH_LOAD makes a graph that passes its checks resident under its identifier,
with the header's fields, and refuses one in use or out of range, one whose header is bad, and one whose first node's
record is; GRAPH_UNLOAD removes a graph with no launch in progress. The answer BAD_ARGUMENT to GRAPH_UNLOAD of a graph
that is not resident is the model's choice (assumption log 15), and that the image must be as long as its header's
counts say is an inference from R333 and R334 (the same log). R304, R334: NODE_RESUME in the CONTINUE mode
restores the parked task of a node, in the RERUN mode starts a lost task again from its launch record; with no such
task it answers STATE. -/
def Obligations.GraphsAndResumption : Prop :=
  (∀ s : State,
    let d := s.dev
    let g := s.arg 1
    (Commanded s 24 →
      (64 ≤ g → Answers .graphLoad s 2 []) ∧
      (g < 64 → (tabFind (s.dv d).graphs g).isSome = true → Answers .graphLoad s 3 []) ∧
      (∀ x, g < 64 → tabFind (s.dv d).graphs g = none → s.loadGraph d (s.arg 2) (s.arg 3) = .inl x →
        ∃ u : State, exec .graphLoad s = .next u ∧ Responded s u 0 [0] ∧ tabFind (u.dv d).graphs g = some x ∧ SameMemory s u ∧
          (∀ k, k ≠ g → tabFind (u.dv d).graphs k = tabFind (s.dv d).graphs k)) ∧
      (∀ h, g < 64 → tabFind (s.dv d).graphs g = none → s.argWords d (s.arg 2) 8 = some h →
        (HeaderBad h (s.arg 3) → ∃ r, r / 2 ^ 26 = 1 ∧ Answers .graphLoad s 2 [r]) ∧
        (∀ ws, ¬ HeaderBad h (s.arg 3) → s.argWords d (s.arg 2 + 64) 16 = some ws → nth 0 ws 0 / 2 ^ 62 ≠ 2 → nth 0 ws 3 = 0 →
          RecordBad ws → ∃ r, r % 2 ^ 12 = 0 ∧ r < 2 ^ 26 ∧ Answers .graphLoad s 2 [r]) ∧
        (∀ x, s.loadGraph d (s.arg 2) (s.arg 3) = .inl x → ¬ HeaderBad h (s.arg 3) ∧ x.space = nth 0 h 0 % 2 ^ 11 ∧
          x.nodes.length = nth 0 h 0 / 2 ^ 32 ∧ x.compl = nth 0 h 1 ∧ x.errq = nth 0 h 2 ∧ x.save = nth 0 h 3 ∧ x.saven = nth 0 h 4 ∧
          x.launches = [] ∧ x.next = 0)) ∧
      (∀ st res, g < 64 → tabFind (s.dv d).graphs g = none → s.loadGraph d (s.arg 2) (s.arg 3) = .inr (st, res) →
        st < 2 ^ 32 → Answers .graphLoad s st res)) ∧
    (Commanded s 28 →
      (tabFind (s.dv d).graphs g = none → Answers .graphUnload s 2 []) ∧
      (∀ x, tabFind (s.dv d).graphs g = some x → x.launches ≠ [] → Answers .graphUnload s 3 []) ∧
      (∀ x, tabFind (s.dv d).graphs g = some x → x.launches = [] →
        ∃ u : State, exec .graphUnload s = .next u ∧ Responded s u 0 [] ∧ (u.graph d g).nodes = [] ∧ SameMemory s u ∧
          (∀ k, k ≠ g → tabFind (u.dv d).graphs k = tabFind (s.dv d).graphs k)))) ∧
  (∀ s : State,
    let d := s.dev
    let g := s.arg 1 % 2 ^ 6
    let n := s.arg 1 / 2 ^ 6 % 2 ^ 12
    s.arg 1 < 2 ^ 19 → n < (s.graph d g).nodes.length → (s.gnode d g n).kind ≠ 2 →
    (Commanded s 32 →
      (∀ t r, (s.nodeTasks d g n).filter (fun p => p.2.st == .parked) = [(t, r)] →
        ∃ u : State, exec .nodeResumeContinue s = .next u ∧ Responded s u 0 [1] ∧ SameMemory s u ∧
          (u.taskRec d t).map (·.st) = some .spilled ∧ t ∈ (u.dv d).arrivals ∧ .event (.restore d t) ∈ u.agenda) ∧
      ((s.nodeTasks d g n).filter (fun p => p.2.st == .parked) = [] → Answers .nodeResumeContinue s 7 [])) ∧
    (Commanded s 33 →
      (∀ t r, (s.nodeTasks d g n).filter (fun p => p.2.st == .parked || p.2.st == .lost) = [(t, r)] → r.st = .lost →
        t < (s.dv d).nextTask → ∃ u : State, exec .nodeResumeRerun s = .next u ∧ Responded s u 0 [1] ∧ SameMemory s u ∧
          u.taskRec d t = none ∧ ∃ r', u.taskRec d (s.dv d).nextTask = some r' ∧ r'.st = .waiting ∧ r'.graph = r.graph ∧
            r'.node = r.node ∧ r'.num = r.num ∧ r'.launch = r.launch ∧ r'.regs = r.regs) ∧
      ((s.nodeTasks d g n).filter (fun p => p.2.st == .parked || p.2.st == .lost) = [] → Answers .nodeResumeRerun s 7 [])))

/-- R299, R334: RESET_SCOPE sets aside the tasks and launches that its scope names, the launches of a graph ending
with STATUS 1, discards the tasks without a seat and stops the others to be spilled, and is answered with the number
of its tasks once they are all gone. R358, R359: QUIESCE stops a graph and its seated tasks and, once the graph is
still, writes its descriptor; RELEASE lets it go on with its tasks waiting to be restored; ADOPT makes the launch of a
descriptor go on here. What the descriptor lists beyond the spilled tasks is the model's choice (assumption log 39). -/
def Obligations.ScopesAndCheckpoints : Prop :=
  (∀ s : State,
    let d := s.dev
    let scope := s.arg 1 % 4
    let g := s.arg 1 / 4 % 2 ^ 6
    Commanded s 36 →
    (∀ k ts ls, (s.dv d).pending = some (k, ts, ls) → (∀ t ∈ ts, s.taskRec d t = none) →
      (∀ p ∈ ls, (s.graph d p.1).launch p.2 = none) → Answers .resetScope s 0 [k]) ∧
    ((s.dv d).pending = none → s.arg 1 < 2 ^ 20 → scope = 3 → Answers .resetScope s 2 []) ∧
    ((s.dv d).pending = none → s.arg 1 < 2 ^ 20 → scope = 1 → ∃ u : State, exec .resetScope s = .next u ∧
      .eventAt d .resetScope ∈ u.agenda ∧ (∀ l ∈ (u.graph d g).launches, l.status = 1) ∧
      (let ts := ((s.dv d).tasks.filter (fun p => p.2.graph == g)).map (·.1)
       (u.dv d).pending = some (ts.length, ts, s.scopeLaunches d (s.arg 1))) ∧
      ((∀ p ∈ (s.dv d).tasks, p.2.st = .seated → (s.slot p.2.core (s.leadOf p.2.core p.2.slot)).savearea ≠ 0) →
        ∀ t r, s.taskRec d t = some r → r.graph = g →
          (r.st ≠ .seated → u.taskRec d t = none) ∧
          (r.st = .seated →
            let x := s.slot r.core r.slot
            x.live = true → x.spill = none → x.kill = none → x.gang = false → x.paired = false →
            StoppedFor u r.core r.slot .discard)))) ∧
  (∀ s : State,
    let d := s.dev
    let g := s.arg 1 % 2 ^ 6
    let pa := s.arg 2
    let gr := s.graph d g
    (tabFind (s.dv d).graphs g).isSome = true → pa < sloelmBase →
    (Commanded s 52 → s.arg 1 = g →
      ((s.dv d).pending = none → gr.quiesced = true → Answers .checkpointQuiesce s 7 []) ∧
      ((s.dv d).pending = none → gr.quiesced = false → gr.launches.length ≤ 1 → s.seatedBare d g = false →
        ∃ u : State, exec .checkpointQuiesce s = .next u ∧ (u.graph d g).quiesced = true ∧
          .eventAt d .checkpointQuiesce ∈ u.agenda ∧
          (∀ p ∈ (s.dv d).tasks, p.2.graph = g → p.2.st = .seated → (s.gnode d g p.2.node).kind ≠ 2 →
            (let x := s.slot p.2.core p.2.slot
             x.live = true → x.spill = none → x.kill = none → x.gang = false → x.paired = false →
             StoppedFor u p.2.core p.2.slot .checkpoint))) ∧
      ((s.dv d).pending ≠ none → (∀ p ∈ (s.dv d).tasks, p.2.graph ≠ g) → s.quiescent d g = true →
        (∀ nd ∈ gr.nodes, nd.kind ≠ 2) → OneKey s d 0 → Memory.wf s.mem = true →
        let n := 64 + 8 * statesLen gr.nodes.length
        pa + n ≤ sloelmBase → ∃ u : State, exec .checkpointQuiesce s = .next u ∧ Responded s u 0 [n] ∧
          u.readNum 0 (.dram d pa) 8 = g * 2 ^ 32 ∧
          u.readNum 0 (.dram d (pa + 8)) 8 = gr.atLaunch.1 % 2 ^ 64)) ∧
    (Commanded s 53 → s.arg 1 = g + 64 →
      (gr.quiesced = false → Answers .checkpointRelease s 7 []) ∧
      (gr.quiesced = true → (∀ nd ∈ gr.nodes, nd.kind ≠ 2) → ∃ (u : State) (n : Nat), exec .checkpointRelease s = .next u ∧
        Responded s u 0 [n] ∧ (u.graph d g).quiesced = false ∧ SameMemory s u ∧
        (∀ t r, s.taskRec d t = some r → r.graph = g → r.st = .quiesced →
          (u.taskRec d t).map (·.st) = some .spilled ∧ t ∈ (u.dv d).arrivals))) ∧
    (Commanded s 54 → s.arg 1 = g + 128 →
      (gr.launches ≠ [] → Answers .checkpointAdopt s 7 []) ∧
      (∀ x, gr.launches = [] → gr.quiesced = false → s.readDescr d g pa gr = .ok x →
        ∃ u : State, exec .checkpointAdopt s = .next u ∧ Responded s u 0 [x.size] ∧
          (u.graph d g).next = (x.lno + 1) % 2 ^ 32 ∧
          ((∃ n ∈ x.nodes, n ≠ .complete) → (u.graph d g).launches.map (·.no) = [x.lno]))))
end

