-- ==== Sys2Proof/Laws/State.lean ====
section
/-! SUPPORT. The small lemmas of the finite tables and of the updates of State and Core: one per field per
update, so that no later proof unfolds a record update. -/

namespace Sys2Proof.Machine

/-! ### Tables -/

@[simp] theorem tabGet_tabPut_same {α : Type} (d : α) (m : SMap α) (k : Nat) (v : α) :
    tabGet d (tabPut m k v) k = v := by
  induction m with
  | nil => simp [tabPut, tabGet]
  | cons p r ih =>
    obtain ⟨k', v'⟩ := p
    by_cases h : k = k'
    · subst h; simp [tabPut, tabGet]
    · by_cases h2 : k < k' <;> simp [tabPut, tabGet, h, h2, ih]

@[simp] theorem tabGet_tabPut_other {α : Type} (d : α) (m : SMap α) {k j : Nat} (v : α) (h : j ≠ k) :
    tabGet d (tabPut m k v) j = tabGet d m j := by
  induction m with
  | nil => simp [tabPut, tabGet, h]
  | cons p r ih =>
    obtain ⟨k', v'⟩ := p
    by_cases h1 : k = k'
    · subst h1; simp [tabPut, tabGet, h]
    · by_cases h2 : k < k'
      · simp [tabPut, tabGet, h1, h2, h]
      · simp [tabPut, tabGet, h1, h2, ih]

theorem tabPut_same {α : Type} (m : SMap α) (k : Nat) (v w : α) : tabPut (tabPut m k v) k w = tabPut m k w := by
  induction m with
  | nil => simp [tabPut]
  | cons p r ih =>
    obtain ⟨k', v'⟩ := p
    by_cases h : k = k'
    · subst h; simp [tabPut]
    · by_cases h2 : k < k' <;> simp [tabPut, h, h2, ih]

/-! ### Updates of the whole state -/

@[simp] theorem State.setCore_devs (s : State) (c : Nat) (k : Core) : (s.setCore c k).devs = s.devs := rfl
@[simp] theorem State.setCore_mem (s : State) (c : Nat) (k : Core) : (s.setCore c k).mem = s.mem := rfl
@[simp] theorem State.setCore_poison (s : State) (c : Nat) (k : Core) : (s.setCore c k).poison = s.poison := rfl
@[simp] theorem State.setCore_unitKey (s : State) (c : Nat) (k : Core) : (s.setCore c k).unitKey = s.unitKey := rfl
@[simp] theorem State.setCore_owner (s : State) (c : Nat) (k : Core) : (s.setCore c k).owner = s.owner := rfl
@[simp] theorem State.setCore_net (s : State) (c : Nat) (k : Core) : (s.setCore c k).net = s.net := rfl
@[simp] theorem State.setCore_fifo (s : State) (c : Nat) (k : Core) : (s.setCore c k).fifo = s.fifo := rfl
@[simp] theorem State.setCore_nextId (s : State) (c : Nat) (k : Core) : (s.setCore c k).nextId = s.nextId := rfl
@[simp] theorem State.setCore_badRegs (s : State) (c : Nat) (k : Core) : (s.setCore c k).badRegs = s.badRegs := rfl
@[simp] theorem State.setCore_flows (s : State) (c : Nat) (k : Core) : (s.setCore c k).flows = s.flows := rfl
@[simp] theorem State.setCore_inbox (s : State) (c : Nat) (k : Core) : (s.setCore c k).inbox = s.inbox := rfl
@[simp] theorem State.setCore_agenda (s : State) (c : Nat) (k : Core) : (s.setCore c k).agenda = s.agenda := rfl
@[simp] theorem State.setCore_cur (s : State) (c : Nat) (k : Core) : (s.setCore c k).cur = s.cur := rfl
@[simp] theorem State.setCore_dev (s : State) (c : Nat) (k : Core) : (s.setCore c k).dev = s.dev := rfl
@[simp] theorem State.setCore_focus (s : State) (c : Nat) (k : Core) : (s.setCore c k).focus = s.focus := rfl
@[simp] theorem State.setCore_drawn (s : State) (c : Nat) (k : Core) : (s.setCore c k).drawn = s.drawn := rfl

@[simp] theorem State.setDev_cores (s : State) (d : Nat) (v : Dev) : (s.setDev d v).cores = s.cores := rfl
@[simp] theorem State.setDev_mem (s : State) (d : Nat) (v : Dev) : (s.setDev d v).mem = s.mem := rfl
@[simp] theorem State.setDev_poison (s : State) (d : Nat) (v : Dev) : (s.setDev d v).poison = s.poison := rfl
@[simp] theorem State.setDev_unitKey (s : State) (d : Nat) (v : Dev) : (s.setDev d v).unitKey = s.unitKey := rfl
@[simp] theorem State.setDev_owner (s : State) (d : Nat) (v : Dev) : (s.setDev d v).owner = s.owner := rfl
@[simp] theorem State.setDev_net (s : State) (d : Nat) (v : Dev) : (s.setDev d v).net = s.net := rfl
@[simp] theorem State.setDev_fifo (s : State) (d : Nat) (v : Dev) : (s.setDev d v).fifo = s.fifo := rfl
@[simp] theorem State.setDev_nextId (s : State) (d : Nat) (v : Dev) : (s.setDev d v).nextId = s.nextId := rfl
@[simp] theorem State.setDev_badRegs (s : State) (d : Nat) (v : Dev) : (s.setDev d v).badRegs = s.badRegs := rfl
@[simp] theorem State.setDev_flows (s : State) (d : Nat) (v : Dev) : (s.setDev d v).flows = s.flows := rfl
@[simp] theorem State.setDev_inbox (s : State) (d : Nat) (v : Dev) : (s.setDev d v).inbox = s.inbox := rfl
@[simp] theorem State.setDev_agenda (s : State) (d : Nat) (v : Dev) : (s.setDev d v).agenda = s.agenda := rfl
@[simp] theorem State.setDev_cur (s : State) (d : Nat) (v : Dev) : (s.setDev d v).cur = s.cur := rfl
@[simp] theorem State.setDev_dev (s : State) (d : Nat) (v : Dev) : (s.setDev d v).dev = s.dev := rfl
@[simp] theorem State.setDev_focus (s : State) (d : Nat) (v : Dev) : (s.setDev d v).focus = s.focus := rfl
@[simp] theorem State.setDev_drawn (s : State) (d : Nat) (v : Dev) : (s.setDev d v).drawn = s.drawn := rfl

@[simp] theorem State.due_cores (s : State) (x : Choice) : (s.due x).cores = s.cores := rfl
@[simp] theorem State.due_devs (s : State) (x : Choice) : (s.due x).devs = s.devs := rfl
@[simp] theorem State.due_mem (s : State) (x : Choice) : (s.due x).mem = s.mem := rfl
@[simp] theorem State.due_poison (s : State) (x : Choice) : (s.due x).poison = s.poison := rfl
@[simp] theorem State.due_unitKey (s : State) (x : Choice) : (s.due x).unitKey = s.unitKey := rfl
@[simp] theorem State.due_owner (s : State) (x : Choice) : (s.due x).owner = s.owner := rfl
@[simp] theorem State.due_net (s : State) (x : Choice) : (s.due x).net = s.net := rfl
@[simp] theorem State.due_fifo (s : State) (x : Choice) : (s.due x).fifo = s.fifo := rfl
@[simp] theorem State.due_nextId (s : State) (x : Choice) : (s.due x).nextId = s.nextId := rfl
@[simp] theorem State.due_badRegs (s : State) (x : Choice) : (s.due x).badRegs = s.badRegs := rfl
@[simp] theorem State.due_flows (s : State) (x : Choice) : (s.due x).flows = s.flows := rfl
@[simp] theorem State.due_inbox (s : State) (x : Choice) : (s.due x).inbox = s.inbox := rfl
@[simp] theorem State.due_cur (s : State) (x : Choice) : (s.due x).cur = s.cur := rfl
@[simp] theorem State.due_dev (s : State) (x : Choice) : (s.due x).dev = s.dev := rfl
@[simp] theorem State.due_focus (s : State) (x : Choice) : (s.due x).focus = s.focus := rfl
@[simp] theorem State.due_drawn (s : State) (x : Choice) : (s.due x).drawn = s.drawn := rfl

@[simp] theorem State.later_cores (s : State) (i : Instr) : (s.later i).cores = s.cores := rfl
@[simp] theorem State.later_devs (s : State) (i : Instr) : (s.later i).devs = s.devs := rfl
@[simp] theorem State.later_mem (s : State) (i : Instr) : (s.later i).mem = s.mem := rfl
@[simp] theorem State.later_poison (s : State) (i : Instr) : (s.later i).poison = s.poison := rfl
@[simp] theorem State.later_unitKey (s : State) (i : Instr) : (s.later i).unitKey = s.unitKey := rfl
@[simp] theorem State.later_owner (s : State) (i : Instr) : (s.later i).owner = s.owner := rfl
@[simp] theorem State.later_net (s : State) (i : Instr) : (s.later i).net = s.net := rfl
@[simp] theorem State.later_fifo (s : State) (i : Instr) : (s.later i).fifo = s.fifo := rfl
@[simp] theorem State.later_nextId (s : State) (i : Instr) : (s.later i).nextId = s.nextId := rfl
@[simp] theorem State.later_badRegs (s : State) (i : Instr) : (s.later i).badRegs = s.badRegs := rfl
@[simp] theorem State.later_flows (s : State) (i : Instr) : (s.later i).flows = s.flows := rfl
@[simp] theorem State.later_inbox (s : State) (i : Instr) : (s.later i).inbox = s.inbox := rfl
@[simp] theorem State.later_cur (s : State) (i : Instr) : (s.later i).cur = s.cur := rfl
@[simp] theorem State.later_dev (s : State) (i : Instr) : (s.later i).dev = s.dev := rfl
@[simp] theorem State.later_focus (s : State) (i : Instr) : (s.later i).focus = s.focus := rfl
@[simp] theorem State.later_drawn (s : State) (i : Instr) : (s.later i).drawn = s.drawn := rfl

@[simp] theorem State.laterAt_cores (s : State) (d : Nat) (i : Instr) : (s.laterAt d i).cores = s.cores := rfl
@[simp] theorem State.laterAt_devs (s : State) (d : Nat) (i : Instr) : (s.laterAt d i).devs = s.devs := rfl
@[simp] theorem State.laterAt_mem (s : State) (d : Nat) (i : Instr) : (s.laterAt d i).mem = s.mem := rfl
@[simp] theorem State.laterAt_poison (s : State) (d : Nat) (i : Instr) : (s.laterAt d i).poison = s.poison := rfl
@[simp] theorem State.laterAt_unitKey (s : State) (d : Nat) (i : Instr) : (s.laterAt d i).unitKey = s.unitKey := rfl
@[simp] theorem State.laterAt_owner (s : State) (d : Nat) (i : Instr) : (s.laterAt d i).owner = s.owner := rfl
@[simp] theorem State.laterAt_net (s : State) (d : Nat) (i : Instr) : (s.laterAt d i).net = s.net := rfl
@[simp] theorem State.laterAt_fifo (s : State) (d : Nat) (i : Instr) : (s.laterAt d i).fifo = s.fifo := rfl
@[simp] theorem State.laterAt_nextId (s : State) (d : Nat) (i : Instr) : (s.laterAt d i).nextId = s.nextId := rfl
@[simp] theorem State.laterAt_badRegs (s : State) (d : Nat) (i : Instr) : (s.laterAt d i).badRegs = s.badRegs := rfl
@[simp] theorem State.laterAt_flows (s : State) (d : Nat) (i : Instr) : (s.laterAt d i).flows = s.flows := rfl
@[simp] theorem State.laterAt_inbox (s : State) (d : Nat) (i : Instr) : (s.laterAt d i).inbox = s.inbox := rfl
@[simp] theorem State.laterAt_cur (s : State) (d : Nat) (i : Instr) : (s.laterAt d i).cur = s.cur := rfl
@[simp] theorem State.laterAt_dev (s : State) (d : Nat) (i : Instr) : (s.laterAt d i).dev = s.dev := rfl
@[simp] theorem State.laterAt_focus (s : State) (d : Nat) (i : Instr) : (s.laterAt d i).focus = s.focus := rfl
@[simp] theorem State.laterAt_drawn (s : State) (d : Nat) (i : Instr) : (s.laterAt d i).drawn = s.drawn := rfl

@[simp] theorem State.modCore_devs (s : State) (c : Nat) (f : Core → Core) : (s.modCore c f).devs = s.devs := rfl
@[simp] theorem State.modCore_mem (s : State) (c : Nat) (f : Core → Core) : (s.modCore c f).mem = s.mem := rfl
@[simp] theorem State.modCore_poison (s : State) (c : Nat) (f : Core → Core) : (s.modCore c f).poison = s.poison := rfl
@[simp] theorem State.modCore_unitKey (s : State) (c : Nat) (f : Core → Core) : (s.modCore c f).unitKey = s.unitKey := rfl
@[simp] theorem State.modCore_owner (s : State) (c : Nat) (f : Core → Core) : (s.modCore c f).owner = s.owner := rfl
@[simp] theorem State.modCore_net (s : State) (c : Nat) (f : Core → Core) : (s.modCore c f).net = s.net := rfl
@[simp] theorem State.modCore_fifo (s : State) (c : Nat) (f : Core → Core) : (s.modCore c f).fifo = s.fifo := rfl
@[simp] theorem State.modCore_nextId (s : State) (c : Nat) (f : Core → Core) : (s.modCore c f).nextId = s.nextId := rfl
@[simp] theorem State.modCore_badRegs (s : State) (c : Nat) (f : Core → Core) : (s.modCore c f).badRegs = s.badRegs := rfl
@[simp] theorem State.modCore_flows (s : State) (c : Nat) (f : Core → Core) : (s.modCore c f).flows = s.flows := rfl
@[simp] theorem State.modCore_inbox (s : State) (c : Nat) (f : Core → Core) : (s.modCore c f).inbox = s.inbox := rfl
@[simp] theorem State.modCore_agenda (s : State) (c : Nat) (f : Core → Core) : (s.modCore c f).agenda = s.agenda := rfl
@[simp] theorem State.modCore_cur (s : State) (c : Nat) (f : Core → Core) : (s.modCore c f).cur = s.cur := rfl
@[simp] theorem State.modCore_dev (s : State) (c : Nat) (f : Core → Core) : (s.modCore c f).dev = s.dev := rfl
@[simp] theorem State.modCore_focus (s : State) (c : Nat) (f : Core → Core) : (s.modCore c f).focus = s.focus := rfl
@[simp] theorem State.modCore_drawn (s : State) (c : Nat) (f : Core → Core) : (s.modCore c f).drawn = s.drawn := rfl

@[simp] theorem State.modDev_cores (s : State) (d : Nat) (f : Dev → Dev) : (s.modDev d f).cores = s.cores := rfl
@[simp] theorem State.modDev_mem (s : State) (d : Nat) (f : Dev → Dev) : (s.modDev d f).mem = s.mem := rfl
@[simp] theorem State.modDev_poison (s : State) (d : Nat) (f : Dev → Dev) : (s.modDev d f).poison = s.poison := rfl
@[simp] theorem State.modDev_unitKey (s : State) (d : Nat) (f : Dev → Dev) : (s.modDev d f).unitKey = s.unitKey := rfl
@[simp] theorem State.modDev_owner (s : State) (d : Nat) (f : Dev → Dev) : (s.modDev d f).owner = s.owner := rfl
@[simp] theorem State.modDev_net (s : State) (d : Nat) (f : Dev → Dev) : (s.modDev d f).net = s.net := rfl
@[simp] theorem State.modDev_fifo (s : State) (d : Nat) (f : Dev → Dev) : (s.modDev d f).fifo = s.fifo := rfl
@[simp] theorem State.modDev_nextId (s : State) (d : Nat) (f : Dev → Dev) : (s.modDev d f).nextId = s.nextId := rfl
@[simp] theorem State.modDev_badRegs (s : State) (d : Nat) (f : Dev → Dev) : (s.modDev d f).badRegs = s.badRegs := rfl
@[simp] theorem State.modDev_flows (s : State) (d : Nat) (f : Dev → Dev) : (s.modDev d f).flows = s.flows := rfl
@[simp] theorem State.modDev_inbox (s : State) (d : Nat) (f : Dev → Dev) : (s.modDev d f).inbox = s.inbox := rfl
@[simp] theorem State.modDev_agenda (s : State) (d : Nat) (f : Dev → Dev) : (s.modDev d f).agenda = s.agenda := rfl
@[simp] theorem State.modDev_cur (s : State) (d : Nat) (f : Dev → Dev) : (s.modDev d f).cur = s.cur := rfl
@[simp] theorem State.modDev_dev (s : State) (d : Nat) (f : Dev → Dev) : (s.modDev d f).dev = s.dev := rfl
@[simp] theorem State.modDev_focus (s : State) (d : Nat) (f : Dev → Dev) : (s.modDev d f).focus = s.focus := rfl
@[simp] theorem State.modDev_drawn (s : State) (d : Nat) (f : Dev → Dev) : (s.modDev d f).drawn = s.drawn := rfl

@[simp] theorem State.setSlot_devs (s : State) (c n : Nat) (v : Slot) : (s.setSlot c n v).devs = s.devs := rfl
@[simp] theorem State.setSlot_mem (s : State) (c n : Nat) (v : Slot) : (s.setSlot c n v).mem = s.mem := rfl
@[simp] theorem State.setSlot_poison (s : State) (c n : Nat) (v : Slot) : (s.setSlot c n v).poison = s.poison := rfl
@[simp] theorem State.setSlot_unitKey (s : State) (c n : Nat) (v : Slot) : (s.setSlot c n v).unitKey = s.unitKey := rfl
@[simp] theorem State.setSlot_owner (s : State) (c n : Nat) (v : Slot) : (s.setSlot c n v).owner = s.owner := rfl
@[simp] theorem State.setSlot_net (s : State) (c n : Nat) (v : Slot) : (s.setSlot c n v).net = s.net := rfl
@[simp] theorem State.setSlot_fifo (s : State) (c n : Nat) (v : Slot) : (s.setSlot c n v).fifo = s.fifo := rfl
@[simp] theorem State.setSlot_nextId (s : State) (c n : Nat) (v : Slot) : (s.setSlot c n v).nextId = s.nextId := rfl
@[simp] theorem State.setSlot_badRegs (s : State) (c n : Nat) (v : Slot) : (s.setSlot c n v).badRegs = s.badRegs := rfl
@[simp] theorem State.setSlot_flows (s : State) (c n : Nat) (v : Slot) : (s.setSlot c n v).flows = s.flows := rfl
@[simp] theorem State.setSlot_inbox (s : State) (c n : Nat) (v : Slot) : (s.setSlot c n v).inbox = s.inbox := rfl
@[simp] theorem State.setSlot_agenda (s : State) (c n : Nat) (v : Slot) : (s.setSlot c n v).agenda = s.agenda := rfl
@[simp] theorem State.setSlot_cur (s : State) (c n : Nat) (v : Slot) : (s.setSlot c n v).cur = s.cur := rfl
@[simp] theorem State.setSlot_dev (s : State) (c n : Nat) (v : Slot) : (s.setSlot c n v).dev = s.dev := rfl
@[simp] theorem State.setSlot_focus (s : State) (c n : Nat) (v : Slot) : (s.setSlot c n v).focus = s.focus := rfl
@[simp] theorem State.setSlot_drawn (s : State) (c n : Nat) (v : Slot) : (s.setSlot c n v).drawn = s.drawn := rfl

@[simp] theorem State.modSlot_devs (s : State) (c n : Nat) (f : Slot → Slot) : (s.modSlot c n f).devs = s.devs := rfl
@[simp] theorem State.modSlot_mem (s : State) (c n : Nat) (f : Slot → Slot) : (s.modSlot c n f).mem = s.mem := rfl
@[simp] theorem State.modSlot_poison (s : State) (c n : Nat) (f : Slot → Slot) : (s.modSlot c n f).poison = s.poison := rfl
@[simp] theorem State.modSlot_unitKey (s : State) (c n : Nat) (f : Slot → Slot) : (s.modSlot c n f).unitKey = s.unitKey := rfl
@[simp] theorem State.modSlot_owner (s : State) (c n : Nat) (f : Slot → Slot) : (s.modSlot c n f).owner = s.owner := rfl
@[simp] theorem State.modSlot_net (s : State) (c n : Nat) (f : Slot → Slot) : (s.modSlot c n f).net = s.net := rfl
@[simp] theorem State.modSlot_fifo (s : State) (c n : Nat) (f : Slot → Slot) : (s.modSlot c n f).fifo = s.fifo := rfl
@[simp] theorem State.modSlot_nextId (s : State) (c n : Nat) (f : Slot → Slot) : (s.modSlot c n f).nextId = s.nextId := rfl
@[simp] theorem State.modSlot_badRegs (s : State) (c n : Nat) (f : Slot → Slot) : (s.modSlot c n f).badRegs = s.badRegs := rfl
@[simp] theorem State.modSlot_flows (s : State) (c n : Nat) (f : Slot → Slot) : (s.modSlot c n f).flows = s.flows := rfl
@[simp] theorem State.modSlot_inbox (s : State) (c n : Nat) (f : Slot → Slot) : (s.modSlot c n f).inbox = s.inbox := rfl
@[simp] theorem State.modSlot_agenda (s : State) (c n : Nat) (f : Slot → Slot) : (s.modSlot c n f).agenda = s.agenda := rfl
@[simp] theorem State.modSlot_cur (s : State) (c n : Nat) (f : Slot → Slot) : (s.modSlot c n f).cur = s.cur := rfl
@[simp] theorem State.modSlot_dev (s : State) (c n : Nat) (f : Slot → Slot) : (s.modSlot c n f).dev = s.dev := rfl
@[simp] theorem State.modSlot_focus (s : State) (c n : Nat) (f : Slot → Slot) : (s.modSlot c n f).focus = s.focus := rfl
@[simp] theorem State.modSlot_drawn (s : State) (c n : Nat) (f : Slot → Slot) : (s.modSlot c n f).drawn = s.drawn := rfl

@[simp] theorem State.advance_devs (s : State) (c n len : Nat) : (s.advance c n len).devs = s.devs := rfl
@[simp] theorem State.advance_mem (s : State) (c n len : Nat) : (s.advance c n len).mem = s.mem := rfl
@[simp] theorem State.advance_poison (s : State) (c n len : Nat) : (s.advance c n len).poison = s.poison := rfl
@[simp] theorem State.advance_unitKey (s : State) (c n len : Nat) : (s.advance c n len).unitKey = s.unitKey := rfl
@[simp] theorem State.advance_owner (s : State) (c n len : Nat) : (s.advance c n len).owner = s.owner := rfl
@[simp] theorem State.advance_net (s : State) (c n len : Nat) : (s.advance c n len).net = s.net := rfl
@[simp] theorem State.advance_fifo (s : State) (c n len : Nat) : (s.advance c n len).fifo = s.fifo := rfl
@[simp] theorem State.advance_nextId (s : State) (c n len : Nat) : (s.advance c n len).nextId = s.nextId := rfl
@[simp] theorem State.advance_badRegs (s : State) (c n len : Nat) : (s.advance c n len).badRegs = s.badRegs := rfl
@[simp] theorem State.advance_flows (s : State) (c n len : Nat) : (s.advance c n len).flows = s.flows := rfl
@[simp] theorem State.advance_inbox (s : State) (c n len : Nat) : (s.advance c n len).inbox = s.inbox := rfl
@[simp] theorem State.advance_agenda (s : State) (c n len : Nat) : (s.advance c n len).agenda = s.agenda := rfl
@[simp] theorem State.advance_cur (s : State) (c n len : Nat) : (s.advance c n len).cur = s.cur := rfl
@[simp] theorem State.advance_dev (s : State) (c n len : Nat) : (s.advance c n len).dev = s.dev := rfl
@[simp] theorem State.advance_focus (s : State) (c n len : Nat) : (s.advance c n len).focus = s.focus := rfl
@[simp] theorem State.advance_drawn (s : State) (c n len : Nat) : (s.advance c n len).drawn = s.drawn := rfl

@[simp] theorem State.setAcc_cores (s : State) (a : Access) : (s.setAcc a).cores = s.cores := rfl
@[simp] theorem State.setAcc_devs (s : State) (a : Access) : (s.setAcc a).devs = s.devs := rfl
@[simp] theorem State.setAcc_mem (s : State) (a : Access) : (s.setAcc a).mem = s.mem := rfl
@[simp] theorem State.setAcc_poison (s : State) (a : Access) : (s.setAcc a).poison = s.poison := rfl
@[simp] theorem State.setAcc_unitKey (s : State) (a : Access) : (s.setAcc a).unitKey = s.unitKey := rfl
@[simp] theorem State.setAcc_owner (s : State) (a : Access) : (s.setAcc a).owner = s.owner := rfl
@[simp] theorem State.setAcc_fifo (s : State) (a : Access) : (s.setAcc a).fifo = s.fifo := rfl
@[simp] theorem State.setAcc_nextId (s : State) (a : Access) : (s.setAcc a).nextId = s.nextId := rfl
@[simp] theorem State.setAcc_badRegs (s : State) (a : Access) : (s.setAcc a).badRegs = s.badRegs := rfl
@[simp] theorem State.setAcc_flows (s : State) (a : Access) : (s.setAcc a).flows = s.flows := rfl
@[simp] theorem State.setAcc_inbox (s : State) (a : Access) : (s.setAcc a).inbox = s.inbox := rfl
@[simp] theorem State.setAcc_agenda (s : State) (a : Access) : (s.setAcc a).agenda = s.agenda := rfl
@[simp] theorem State.setAcc_cur (s : State) (a : Access) : (s.setAcc a).cur = s.cur := rfl
@[simp] theorem State.setAcc_dev (s : State) (a : Access) : (s.setAcc a).dev = s.dev := rfl
@[simp] theorem State.setAcc_focus (s : State) (a : Access) : (s.setAcc a).focus = s.focus := rfl
@[simp] theorem State.setAcc_drawn (s : State) (a : Access) : (s.setAcc a).drawn = s.drawn := rfl

@[simp] theorem State.clearWords_cores (s : State) (a n : Nat) : (s.clearWords a n).cores = s.cores := rfl
@[simp] theorem State.clearWords_devs (s : State) (a n : Nat) : (s.clearWords a n).devs = s.devs := rfl
@[simp] theorem State.clearWords_mem (s : State) (a n : Nat) : (s.clearWords a n).mem = s.mem := rfl
@[simp] theorem State.clearWords_unitKey (s : State) (a n : Nat) : (s.clearWords a n).unitKey = s.unitKey := rfl
@[simp] theorem State.clearWords_owner (s : State) (a n : Nat) : (s.clearWords a n).owner = s.owner := rfl
@[simp] theorem State.clearWords_net (s : State) (a n : Nat) : (s.clearWords a n).net = s.net := rfl
@[simp] theorem State.clearWords_fifo (s : State) (a n : Nat) : (s.clearWords a n).fifo = s.fifo := rfl
@[simp] theorem State.clearWords_nextId (s : State) (a n : Nat) : (s.clearWords a n).nextId = s.nextId := rfl
@[simp] theorem State.clearWords_badRegs (s : State) (a n : Nat) : (s.clearWords a n).badRegs = s.badRegs := rfl
@[simp] theorem State.clearWords_flows (s : State) (a n : Nat) : (s.clearWords a n).flows = s.flows := rfl
@[simp] theorem State.clearWords_inbox (s : State) (a n : Nat) : (s.clearWords a n).inbox = s.inbox := rfl
@[simp] theorem State.clearWords_agenda (s : State) (a n : Nat) : (s.clearWords a n).agenda = s.agenda := rfl
@[simp] theorem State.clearWords_cur (s : State) (a n : Nat) : (s.clearWords a n).cur = s.cur := rfl
@[simp] theorem State.clearWords_dev (s : State) (a n : Nat) : (s.clearWords a n).dev = s.dev := rfl
@[simp] theorem State.clearWords_focus (s : State) (a n : Nat) : (s.clearWords a n).focus = s.focus := rfl
@[simp] theorem State.clearWords_drawn (s : State) (a n : Nat) : (s.clearWords a n).drawn = s.drawn := rfl

@[simp] theorem State.mend_cores (s : State) (c file idx : Nat) : (s.mend c file idx).cores = s.cores := rfl
@[simp] theorem State.mend_devs (s : State) (c file idx : Nat) : (s.mend c file idx).devs = s.devs := rfl
@[simp] theorem State.mend_mem (s : State) (c file idx : Nat) : (s.mend c file idx).mem = s.mem := rfl
@[simp] theorem State.mend_poison (s : State) (c file idx : Nat) : (s.mend c file idx).poison = s.poison := rfl
@[simp] theorem State.mend_unitKey (s : State) (c file idx : Nat) : (s.mend c file idx).unitKey = s.unitKey := rfl
@[simp] theorem State.mend_owner (s : State) (c file idx : Nat) : (s.mend c file idx).owner = s.owner := rfl
@[simp] theorem State.mend_net (s : State) (c file idx : Nat) : (s.mend c file idx).net = s.net := rfl
@[simp] theorem State.mend_fifo (s : State) (c file idx : Nat) : (s.mend c file idx).fifo = s.fifo := rfl
@[simp] theorem State.mend_nextId (s : State) (c file idx : Nat) : (s.mend c file idx).nextId = s.nextId := rfl
@[simp] theorem State.mend_inbox (s : State) (c file idx : Nat) : (s.mend c file idx).inbox = s.inbox := rfl
@[simp] theorem State.mend_agenda (s : State) (c file idx : Nat) : (s.mend c file idx).agenda = s.agenda := rfl
@[simp] theorem State.mend_cur (s : State) (c file idx : Nat) : (s.mend c file idx).cur = s.cur := rfl
@[simp] theorem State.mend_dev (s : State) (c file idx : Nat) : (s.mend c file idx).dev = s.dev := rfl
@[simp] theorem State.mend_focus (s : State) (c file idx : Nat) : (s.mend c file idx).focus = s.focus := rfl
@[simp] theorem State.mend_drawn (s : State) (c file idx : Nat) : (s.mend c file idx).drawn = s.drawn := rfl

@[simp] theorem State.due_agenda (s : State) (x : Choice) : (s.due x).agenda = s.agenda ++ [x] := rfl
@[simp] theorem State.later_agenda (s : State) (i : Instr) : (s.later i).agenda = s.agenda ++ [.event i] := rfl
@[simp] theorem State.laterAt_agenda (s : State) (d : Nat) (i : Instr) : (s.laterAt d i).agenda = s.agenda ++ [.eventAt d i] := rfl

/-! ### Cores, slots and devices of an updated state -/

@[simp] theorem State.core_setCore_same (s : State) (c : Nat) (k : Core) : (s.setCore c k).core c = k := by
  simp [State.core, State.setCore]
@[simp] theorem State.core_setCore_other (s : State) {c c' : Nat} (k : Core) (h : c' ≠ c) : (s.setCore c k).core c' = s.core c' := by
  simp [State.core, State.setCore, h]
@[simp] theorem State.core_modCore_same (s : State) (c : Nat) (f : Core → Core) : (s.modCore c f).core c = f (s.core c) := by
  simp [State.modCore]
@[simp] theorem State.core_modCore_other (s : State) {c c' : Nat} (f : Core → Core) (h : c' ≠ c) : (s.modCore c f).core c' = s.core c' := by
  simp [State.modCore, h]
@[simp] theorem State.dv_setDev_same (s : State) (d : Nat) (v : Dev) : (s.setDev d v).dv d = v := by
  simp [State.dv, State.setDev]
@[simp] theorem State.dv_setDev_other (s : State) {d d' : Nat} (v : Dev) (h : d' ≠ d) : (s.setDev d v).dv d' = s.dv d' := by
  simp [State.dv, State.setDev, h]
@[simp] theorem State.dv_modDev_same (s : State) (d : Nat) (f : Dev → Dev) : (s.modDev d f).dv d = f (s.dv d) := by
  simp [State.modDev]
@[simp] theorem State.dv_modDev_other (s : State) {d d' : Nat} (f : Dev → Dev) (h : d' ≠ d) : (s.modDev d f).dv d' = s.dv d' := by
  simp [State.modDev, h]
@[simp] theorem State.core_setDev (s : State) (d : Nat) (v : Dev) (c : Nat) : (s.setDev d v).core c = s.core c := rfl
@[simp] theorem State.core_modDev (s : State) (d : Nat) (f : Dev → Dev) (c : Nat) : (s.modDev d f).core c = s.core c := rfl
@[simp] theorem State.dv_setCore (s : State) (c : Nat) (k : Core) (d : Nat) : (s.setCore c k).dv d = s.dv d := rfl
@[simp] theorem State.dv_modCore (s : State) (c : Nat) (f : Core → Core) (d : Nat) : (s.modCore c f).dv d = s.dv d := rfl
@[simp] theorem State.core_due (s : State) (x : Choice) (c : Nat) : (s.due x).core c = s.core c := rfl
@[simp] theorem State.core_later (s : State) (i : Instr) (c : Nat) : (s.later i).core c = s.core c := rfl
@[simp] theorem State.dv_due (s : State) (x : Choice) (d : Nat) : (s.due x).dv d = s.dv d := rfl
@[simp] theorem State.dv_later (s : State) (i : Instr) (d : Nat) : (s.later i).dv d = s.dv d := rfl
@[simp] theorem State.slot_due (s : State) (x : Choice) (c n : Nat) : (s.due x).slot c n = s.slot c n := rfl
@[simp] theorem State.slot_later (s : State) (i : Instr) (c n : Nat) : (s.later i).slot c n = s.slot c n := rfl
@[simp] theorem State.slot_modDev (s : State) (d : Nat) (f : Dev → Dev) (c n : Nat) : (s.modDev d f).slot c n = s.slot c n := rfl

/-! ### The tables of a core -/

@[simp] theorem Core.spillQ_setSlot (k : Core) (n : Nat) (x : Slot) : (k.setSlot n x).spillQ = k.spillQ := rfl
@[simp] theorem Core.mbWait_setSlot (k : Core) (n : Nat) (x : Slot) : (k.setSlot n x).mbWait = k.mbWait := rfl
@[simp] theorem Core.runqWait_setSlot (k : Core) (n : Nat) (x : Slot) : (k.setSlot n x).runqWait = k.runqWait := rfl
@[simp] theorem Core.spillQ_setEntry (k : Core) (n : Nat) (x : Entry) : (k.setEntry n x).spillQ = k.spillQ := rfl
@[simp] theorem Core.mbWait_setEntry (k : Core) (n : Nat) (x : Entry) : (k.setEntry n x).mbWait = k.mbWait := rfl
@[simp] theorem Core.runqWait_setEntry (k : Core) (n : Nat) (x : Entry) : (k.setEntry n x).runqWait = k.runqWait := rfl
@[simp] theorem Core.spillQ_setVreg (k : Core) (n : Nat) (x : VReg) : (k.setVreg n x).spillQ = k.spillQ := rfl
@[simp] theorem Core.mbWait_setVreg (k : Core) (n : Nat) (x : VReg) : (k.setVreg n x).mbWait = k.mbWait := rfl
@[simp] theorem Core.runqWait_setVreg (k : Core) (n : Nat) (x : VReg) : (k.setVreg n x).runqWait = k.runqWait := rfl
@[simp] theorem Core.spillQ_setTile (k : Core) (n : Nat) (x : Tile) : (k.setTile n x).spillQ = k.spillQ := rfl
@[simp] theorem Core.mbWait_setTile (k : Core) (n : Nat) (x : Tile) : (k.setTile n x).mbWait = k.mbWait := rfl
@[simp] theorem Core.runqWait_setTile (k : Core) (n : Nat) (x : Tile) : (k.setTile n x).runqWait = k.runqWait := rfl
@[simp] theorem Core.spillQ_setAcc (k : Core) (n : Nat) (x : Acc) : (k.setAcc n x).spillQ = k.spillQ := rfl
@[simp] theorem Core.mbWait_setAcc (k : Core) (n : Nat) (x : Acc) : (k.setAcc n x).mbWait = k.mbWait := rfl
@[simp] theorem Core.runqWait_setAcc (k : Core) (n : Nat) (x : Acc) : (k.setAcc n x).runqWait = k.runqWait := rfl
@[simp] theorem Core.spillQ_setPort (k : Core) (n : Nat) (x : List PEntry) : (k.setPort n x).spillQ = k.spillQ := rfl
@[simp] theorem Core.mbWait_setPort (k : Core) (n : Nat) (x : List PEntry) : (k.setPort n x).mbWait = k.mbWait := rfl
@[simp] theorem Core.runqWait_setPort (k : Core) (n : Nat) (x : List PEntry) : (k.setPort n x).runqWait = k.runqWait := rfl
@[simp] theorem Core.spillQ_setSem (k : Core) (n : Nat) (x : Sem) : (k.setSem n x).spillQ = k.spillQ := rfl
@[simp] theorem Core.mbWait_setSem (k : Core) (n : Nat) (x : Sem) : (k.setSem n x).mbWait = k.mbWait := rfl
@[simp] theorem Core.runqWait_setSem (k : Core) (n : Nat) (x : Sem) : (k.setSem n x).runqWait = k.runqWait := rfl
@[simp] theorem Core.spillQ_setStream (k : Core) (n : Nat) (x : Stream) : (k.setStream n x).spillQ = k.spillQ := rfl
@[simp] theorem Core.mbWait_setStream (k : Core) (n : Nat) (x : Stream) : (k.setStream n x).mbWait = k.mbWait := rfl
@[simp] theorem Core.runqWait_setStream (k : Core) (n : Nat) (x : Stream) : (k.setStream n x).runqWait = k.runqWait := rfl
@[simp] theorem Core.spillQ_setClaim (k : Core) (n : Nat) (x : Claim) : (k.setClaim n x).spillQ = k.spillQ := rfl
@[simp] theorem Core.mbWait_setClaim (k : Core) (n : Nat) (x : Claim) : (k.setClaim n x).mbWait = k.mbWait := rfl
@[simp] theorem Core.runqWait_setClaim (k : Core) (n : Nat) (x : Claim) : (k.setClaim n x).runqWait = k.runqWait := rfl
@[simp] theorem Core.spillQ_setChain (k : Core) (n : Nat) (x : Chain) : (k.setChain n x).spillQ = k.spillQ := rfl
@[simp] theorem Core.mbWait_setChain (k : Core) (n : Nat) (x : Chain) : (k.setChain n x).mbWait = k.mbWait := rfl
@[simp] theorem Core.runqWait_setChain (k : Core) (n : Nat) (x : Chain) : (k.setChain n x).runqWait = k.runqWait := rfl
@[simp] theorem Core.spillQ_setPair (k : Core) (n : Nat) (x : Pair) : (k.setPair n x).spillQ = k.spillQ := rfl
@[simp] theorem Core.mbWait_setPair (k : Core) (n : Nat) (x : Pair) : (k.setPair n x).mbWait = k.mbWait := rfl
@[simp] theorem Core.runqWait_setPair (k : Core) (n : Nat) (x : Pair) : (k.setPair n x).runqWait = k.runqWait := rfl

@[simp] theorem Core.slot_setSlot_same (k : Core) (n : Nat) (x : Slot) : (k.setSlot n x).slot n = x := by simp [Core.slot, Core.setSlot]
@[simp] theorem Core.slot_setSlot_other (k : Core) {n m : Nat} (x : Slot) (h : m ≠ n) : (k.setSlot n x).slot m = k.slot m := by
  simp [Core.slot, Core.setSlot, h]
@[simp] theorem Core.entry_setSlot (k : Core) (n : Nat) (x : Slot) (m : Nat) : (k.setSlot n x).entry m = k.entry m := rfl
@[simp] theorem Core.vreg_setSlot (k : Core) (n : Nat) (x : Slot) (m : Nat) : (k.setSlot n x).vreg m = k.vreg m := rfl
@[simp] theorem Core.tile_setSlot (k : Core) (n : Nat) (x : Slot) (m : Nat) : (k.setSlot n x).tile m = k.tile m := rfl
@[simp] theorem Core.acc_setSlot (k : Core) (n : Nat) (x : Slot) (m : Nat) : (k.setSlot n x).acc m = k.acc m := rfl
@[simp] theorem Core.port_setSlot (k : Core) (n : Nat) (x : Slot) (m : Nat) : (k.setSlot n x).port m = k.port m := rfl
@[simp] theorem Core.sem_setSlot (k : Core) (n : Nat) (x : Slot) (m : Nat) : (k.setSlot n x).sem m = k.sem m := rfl
@[simp] theorem Core.stream_setSlot (k : Core) (n : Nat) (x : Slot) (m : Nat) : (k.setSlot n x).stream m = k.stream m := rfl
@[simp] theorem Core.claim_setSlot (k : Core) (n : Nat) (x : Slot) (m : Nat) : (k.setSlot n x).claim m = k.claim m := rfl
@[simp] theorem Core.chain_setSlot (k : Core) (n : Nat) (x : Slot) (m : Nat) : (k.setSlot n x).chain m = k.chain m := rfl
@[simp] theorem Core.pair_setSlot (k : Core) (n : Nat) (x : Slot) (m : Nat) : (k.setSlot n x).pair m = k.pair m := rfl
@[simp] theorem Core.tcfgAt_setSlot (k : Core) (n : Nat) (x : Slot) (m : Nat) : (k.setSlot n x).tcfgAt m = k.tcfgAt m := rfl

@[simp] theorem Core.entry_setEntry_same (k : Core) (n : Nat) (x : Entry) : (k.setEntry n x).entry n = x := by simp [Core.entry, Core.setEntry]
@[simp] theorem Core.entry_setEntry_other (k : Core) {n m : Nat} (x : Entry) (h : m ≠ n) : (k.setEntry n x).entry m = k.entry m := by
  simp [Core.entry, Core.setEntry, h]
@[simp] theorem Core.slot_setEntry (k : Core) (n : Nat) (x : Entry) (m : Nat) : (k.setEntry n x).slot m = k.slot m := rfl
@[simp] theorem Core.vreg_setEntry (k : Core) (n : Nat) (x : Entry) (m : Nat) : (k.setEntry n x).vreg m = k.vreg m := rfl
@[simp] theorem Core.tile_setEntry (k : Core) (n : Nat) (x : Entry) (m : Nat) : (k.setEntry n x).tile m = k.tile m := rfl
@[simp] theorem Core.acc_setEntry (k : Core) (n : Nat) (x : Entry) (m : Nat) : (k.setEntry n x).acc m = k.acc m := rfl
@[simp] theorem Core.port_setEntry (k : Core) (n : Nat) (x : Entry) (m : Nat) : (k.setEntry n x).port m = k.port m := rfl
@[simp] theorem Core.sem_setEntry (k : Core) (n : Nat) (x : Entry) (m : Nat) : (k.setEntry n x).sem m = k.sem m := rfl
@[simp] theorem Core.stream_setEntry (k : Core) (n : Nat) (x : Entry) (m : Nat) : (k.setEntry n x).stream m = k.stream m := rfl
@[simp] theorem Core.claim_setEntry (k : Core) (n : Nat) (x : Entry) (m : Nat) : (k.setEntry n x).claim m = k.claim m := rfl
@[simp] theorem Core.chain_setEntry (k : Core) (n : Nat) (x : Entry) (m : Nat) : (k.setEntry n x).chain m = k.chain m := rfl
@[simp] theorem Core.pair_setEntry (k : Core) (n : Nat) (x : Entry) (m : Nat) : (k.setEntry n x).pair m = k.pair m := rfl
@[simp] theorem Core.tcfgAt_setEntry (k : Core) (n : Nat) (x : Entry) (m : Nat) : (k.setEntry n x).tcfgAt m = k.tcfgAt m := rfl

@[simp] theorem Core.vreg_setVreg_same (k : Core) (n : Nat) (x : VReg) : (k.setVreg n x).vreg n = x := by simp [Core.vreg, Core.setVreg]
@[simp] theorem Core.vreg_setVreg_other (k : Core) {n m : Nat} (x : VReg) (h : m ≠ n) : (k.setVreg n x).vreg m = k.vreg m := by
  simp [Core.vreg, Core.setVreg, h]
@[simp] theorem Core.slot_setVreg (k : Core) (n : Nat) (x : VReg) (m : Nat) : (k.setVreg n x).slot m = k.slot m := rfl
@[simp] theorem Core.entry_setVreg (k : Core) (n : Nat) (x : VReg) (m : Nat) : (k.setVreg n x).entry m = k.entry m := rfl
@[simp] theorem Core.tile_setVreg (k : Core) (n : Nat) (x : VReg) (m : Nat) : (k.setVreg n x).tile m = k.tile m := rfl
@[simp] theorem Core.acc_setVreg (k : Core) (n : Nat) (x : VReg) (m : Nat) : (k.setVreg n x).acc m = k.acc m := rfl
@[simp] theorem Core.port_setVreg (k : Core) (n : Nat) (x : VReg) (m : Nat) : (k.setVreg n x).port m = k.port m := rfl
@[simp] theorem Core.sem_setVreg (k : Core) (n : Nat) (x : VReg) (m : Nat) : (k.setVreg n x).sem m = k.sem m := rfl
@[simp] theorem Core.stream_setVreg (k : Core) (n : Nat) (x : VReg) (m : Nat) : (k.setVreg n x).stream m = k.stream m := rfl
@[simp] theorem Core.claim_setVreg (k : Core) (n : Nat) (x : VReg) (m : Nat) : (k.setVreg n x).claim m = k.claim m := rfl
@[simp] theorem Core.chain_setVreg (k : Core) (n : Nat) (x : VReg) (m : Nat) : (k.setVreg n x).chain m = k.chain m := rfl
@[simp] theorem Core.pair_setVreg (k : Core) (n : Nat) (x : VReg) (m : Nat) : (k.setVreg n x).pair m = k.pair m := rfl
@[simp] theorem Core.tcfgAt_setVreg (k : Core) (n : Nat) (x : VReg) (m : Nat) : (k.setVreg n x).tcfgAt m = k.tcfgAt m := rfl

@[simp] theorem Core.tile_setTile_same (k : Core) (n : Nat) (x : Tile) : (k.setTile n x).tile n = x := by simp [Core.tile, Core.setTile]
@[simp] theorem Core.tile_setTile_other (k : Core) {n m : Nat} (x : Tile) (h : m ≠ n) : (k.setTile n x).tile m = k.tile m := by
  simp [Core.tile, Core.setTile, h]
@[simp] theorem Core.slot_setTile (k : Core) (n : Nat) (x : Tile) (m : Nat) : (k.setTile n x).slot m = k.slot m := rfl
@[simp] theorem Core.entry_setTile (k : Core) (n : Nat) (x : Tile) (m : Nat) : (k.setTile n x).entry m = k.entry m := rfl
@[simp] theorem Core.vreg_setTile (k : Core) (n : Nat) (x : Tile) (m : Nat) : (k.setTile n x).vreg m = k.vreg m := rfl
@[simp] theorem Core.acc_setTile (k : Core) (n : Nat) (x : Tile) (m : Nat) : (k.setTile n x).acc m = k.acc m := rfl
@[simp] theorem Core.port_setTile (k : Core) (n : Nat) (x : Tile) (m : Nat) : (k.setTile n x).port m = k.port m := rfl
@[simp] theorem Core.sem_setTile (k : Core) (n : Nat) (x : Tile) (m : Nat) : (k.setTile n x).sem m = k.sem m := rfl
@[simp] theorem Core.stream_setTile (k : Core) (n : Nat) (x : Tile) (m : Nat) : (k.setTile n x).stream m = k.stream m := rfl
@[simp] theorem Core.claim_setTile (k : Core) (n : Nat) (x : Tile) (m : Nat) : (k.setTile n x).claim m = k.claim m := rfl
@[simp] theorem Core.chain_setTile (k : Core) (n : Nat) (x : Tile) (m : Nat) : (k.setTile n x).chain m = k.chain m := rfl
@[simp] theorem Core.pair_setTile (k : Core) (n : Nat) (x : Tile) (m : Nat) : (k.setTile n x).pair m = k.pair m := rfl
@[simp] theorem Core.tcfgAt_setTile (k : Core) (n : Nat) (x : Tile) (m : Nat) : (k.setTile n x).tcfgAt m = k.tcfgAt m := rfl

@[simp] theorem Core.acc_setAcc_same (k : Core) (n : Nat) (x : Acc) : (k.setAcc n x).acc n = x := by simp [Core.acc, Core.setAcc]
@[simp] theorem Core.acc_setAcc_other (k : Core) {n m : Nat} (x : Acc) (h : m ≠ n) : (k.setAcc n x).acc m = k.acc m := by
  simp [Core.acc, Core.setAcc, h]
@[simp] theorem Core.slot_setAcc (k : Core) (n : Nat) (x : Acc) (m : Nat) : (k.setAcc n x).slot m = k.slot m := rfl
@[simp] theorem Core.entry_setAcc (k : Core) (n : Nat) (x : Acc) (m : Nat) : (k.setAcc n x).entry m = k.entry m := rfl
@[simp] theorem Core.vreg_setAcc (k : Core) (n : Nat) (x : Acc) (m : Nat) : (k.setAcc n x).vreg m = k.vreg m := rfl
@[simp] theorem Core.tile_setAcc (k : Core) (n : Nat) (x : Acc) (m : Nat) : (k.setAcc n x).tile m = k.tile m := rfl
@[simp] theorem Core.port_setAcc (k : Core) (n : Nat) (x : Acc) (m : Nat) : (k.setAcc n x).port m = k.port m := rfl
@[simp] theorem Core.sem_setAcc (k : Core) (n : Nat) (x : Acc) (m : Nat) : (k.setAcc n x).sem m = k.sem m := rfl
@[simp] theorem Core.stream_setAcc (k : Core) (n : Nat) (x : Acc) (m : Nat) : (k.setAcc n x).stream m = k.stream m := rfl
@[simp] theorem Core.claim_setAcc (k : Core) (n : Nat) (x : Acc) (m : Nat) : (k.setAcc n x).claim m = k.claim m := rfl
@[simp] theorem Core.chain_setAcc (k : Core) (n : Nat) (x : Acc) (m : Nat) : (k.setAcc n x).chain m = k.chain m := rfl
@[simp] theorem Core.pair_setAcc (k : Core) (n : Nat) (x : Acc) (m : Nat) : (k.setAcc n x).pair m = k.pair m := rfl
@[simp] theorem Core.tcfgAt_setAcc (k : Core) (n : Nat) (x : Acc) (m : Nat) : (k.setAcc n x).tcfgAt m = k.tcfgAt m := rfl

@[simp] theorem Core.port_setPort_same (k : Core) (n : Nat) (x : List PEntry) : (k.setPort n x).port n = x := by simp [Core.port, Core.setPort]
@[simp] theorem Core.port_setPort_other (k : Core) {n m : Nat} (x : List PEntry) (h : m ≠ n) : (k.setPort n x).port m = k.port m := by
  simp [Core.port, Core.setPort, h]
@[simp] theorem Core.slot_setPort (k : Core) (n : Nat) (x : List PEntry) (m : Nat) : (k.setPort n x).slot m = k.slot m := rfl
@[simp] theorem Core.entry_setPort (k : Core) (n : Nat) (x : List PEntry) (m : Nat) : (k.setPort n x).entry m = k.entry m := rfl
@[simp] theorem Core.vreg_setPort (k : Core) (n : Nat) (x : List PEntry) (m : Nat) : (k.setPort n x).vreg m = k.vreg m := rfl
@[simp] theorem Core.tile_setPort (k : Core) (n : Nat) (x : List PEntry) (m : Nat) : (k.setPort n x).tile m = k.tile m := rfl
@[simp] theorem Core.acc_setPort (k : Core) (n : Nat) (x : List PEntry) (m : Nat) : (k.setPort n x).acc m = k.acc m := rfl
@[simp] theorem Core.sem_setPort (k : Core) (n : Nat) (x : List PEntry) (m : Nat) : (k.setPort n x).sem m = k.sem m := rfl
@[simp] theorem Core.stream_setPort (k : Core) (n : Nat) (x : List PEntry) (m : Nat) : (k.setPort n x).stream m = k.stream m := rfl
@[simp] theorem Core.claim_setPort (k : Core) (n : Nat) (x : List PEntry) (m : Nat) : (k.setPort n x).claim m = k.claim m := rfl
@[simp] theorem Core.chain_setPort (k : Core) (n : Nat) (x : List PEntry) (m : Nat) : (k.setPort n x).chain m = k.chain m := rfl
@[simp] theorem Core.pair_setPort (k : Core) (n : Nat) (x : List PEntry) (m : Nat) : (k.setPort n x).pair m = k.pair m := rfl
@[simp] theorem Core.tcfgAt_setPort (k : Core) (n : Nat) (x : List PEntry) (m : Nat) : (k.setPort n x).tcfgAt m = k.tcfgAt m := rfl

@[simp] theorem Core.sem_setSem_same (k : Core) (n : Nat) (x : Sem) : (k.setSem n x).sem n = x := by simp [Core.sem, Core.setSem]
@[simp] theorem Core.sem_setSem_other (k : Core) {n m : Nat} (x : Sem) (h : m ≠ n) : (k.setSem n x).sem m = k.sem m := by
  simp [Core.sem, Core.setSem, h]
@[simp] theorem Core.slot_setSem (k : Core) (n : Nat) (x : Sem) (m : Nat) : (k.setSem n x).slot m = k.slot m := rfl
@[simp] theorem Core.entry_setSem (k : Core) (n : Nat) (x : Sem) (m : Nat) : (k.setSem n x).entry m = k.entry m := rfl
@[simp] theorem Core.vreg_setSem (k : Core) (n : Nat) (x : Sem) (m : Nat) : (k.setSem n x).vreg m = k.vreg m := rfl
@[simp] theorem Core.tile_setSem (k : Core) (n : Nat) (x : Sem) (m : Nat) : (k.setSem n x).tile m = k.tile m := rfl
@[simp] theorem Core.acc_setSem (k : Core) (n : Nat) (x : Sem) (m : Nat) : (k.setSem n x).acc m = k.acc m := rfl
@[simp] theorem Core.port_setSem (k : Core) (n : Nat) (x : Sem) (m : Nat) : (k.setSem n x).port m = k.port m := rfl
@[simp] theorem Core.stream_setSem (k : Core) (n : Nat) (x : Sem) (m : Nat) : (k.setSem n x).stream m = k.stream m := rfl
@[simp] theorem Core.claim_setSem (k : Core) (n : Nat) (x : Sem) (m : Nat) : (k.setSem n x).claim m = k.claim m := rfl
@[simp] theorem Core.chain_setSem (k : Core) (n : Nat) (x : Sem) (m : Nat) : (k.setSem n x).chain m = k.chain m := rfl
@[simp] theorem Core.pair_setSem (k : Core) (n : Nat) (x : Sem) (m : Nat) : (k.setSem n x).pair m = k.pair m := rfl
@[simp] theorem Core.tcfgAt_setSem (k : Core) (n : Nat) (x : Sem) (m : Nat) : (k.setSem n x).tcfgAt m = k.tcfgAt m := rfl

@[simp] theorem Core.stream_setStream_same (k : Core) (n : Nat) (x : Stream) : (k.setStream n x).stream n = x := by simp [Core.stream, Core.setStream]
@[simp] theorem Core.stream_setStream_other (k : Core) {n m : Nat} (x : Stream) (h : m ≠ n) : (k.setStream n x).stream m = k.stream m := by
  simp [Core.stream, Core.setStream, h]
@[simp] theorem Core.slot_setStream (k : Core) (n : Nat) (x : Stream) (m : Nat) : (k.setStream n x).slot m = k.slot m := rfl
@[simp] theorem Core.entry_setStream (k : Core) (n : Nat) (x : Stream) (m : Nat) : (k.setStream n x).entry m = k.entry m := rfl
@[simp] theorem Core.vreg_setStream (k : Core) (n : Nat) (x : Stream) (m : Nat) : (k.setStream n x).vreg m = k.vreg m := rfl
@[simp] theorem Core.tile_setStream (k : Core) (n : Nat) (x : Stream) (m : Nat) : (k.setStream n x).tile m = k.tile m := rfl
@[simp] theorem Core.acc_setStream (k : Core) (n : Nat) (x : Stream) (m : Nat) : (k.setStream n x).acc m = k.acc m := rfl
@[simp] theorem Core.port_setStream (k : Core) (n : Nat) (x : Stream) (m : Nat) : (k.setStream n x).port m = k.port m := rfl
@[simp] theorem Core.sem_setStream (k : Core) (n : Nat) (x : Stream) (m : Nat) : (k.setStream n x).sem m = k.sem m := rfl
@[simp] theorem Core.claim_setStream (k : Core) (n : Nat) (x : Stream) (m : Nat) : (k.setStream n x).claim m = k.claim m := rfl
@[simp] theorem Core.chain_setStream (k : Core) (n : Nat) (x : Stream) (m : Nat) : (k.setStream n x).chain m = k.chain m := rfl
@[simp] theorem Core.pair_setStream (k : Core) (n : Nat) (x : Stream) (m : Nat) : (k.setStream n x).pair m = k.pair m := rfl
@[simp] theorem Core.tcfgAt_setStream (k : Core) (n : Nat) (x : Stream) (m : Nat) : (k.setStream n x).tcfgAt m = k.tcfgAt m := rfl

@[simp] theorem Core.claim_setClaim_same (k : Core) (n : Nat) (x : Claim) : (k.setClaim n x).claim n = x := by simp [Core.claim, Core.setClaim]
@[simp] theorem Core.claim_setClaim_other (k : Core) {n m : Nat} (x : Claim) (h : m ≠ n) : (k.setClaim n x).claim m = k.claim m := by
  simp [Core.claim, Core.setClaim, h]
@[simp] theorem Core.slot_setClaim (k : Core) (n : Nat) (x : Claim) (m : Nat) : (k.setClaim n x).slot m = k.slot m := rfl
@[simp] theorem Core.entry_setClaim (k : Core) (n : Nat) (x : Claim) (m : Nat) : (k.setClaim n x).entry m = k.entry m := rfl
@[simp] theorem Core.vreg_setClaim (k : Core) (n : Nat) (x : Claim) (m : Nat) : (k.setClaim n x).vreg m = k.vreg m := rfl
@[simp] theorem Core.tile_setClaim (k : Core) (n : Nat) (x : Claim) (m : Nat) : (k.setClaim n x).tile m = k.tile m := rfl
@[simp] theorem Core.acc_setClaim (k : Core) (n : Nat) (x : Claim) (m : Nat) : (k.setClaim n x).acc m = k.acc m := rfl
@[simp] theorem Core.port_setClaim (k : Core) (n : Nat) (x : Claim) (m : Nat) : (k.setClaim n x).port m = k.port m := rfl
@[simp] theorem Core.sem_setClaim (k : Core) (n : Nat) (x : Claim) (m : Nat) : (k.setClaim n x).sem m = k.sem m := rfl
@[simp] theorem Core.stream_setClaim (k : Core) (n : Nat) (x : Claim) (m : Nat) : (k.setClaim n x).stream m = k.stream m := rfl
@[simp] theorem Core.chain_setClaim (k : Core) (n : Nat) (x : Claim) (m : Nat) : (k.setClaim n x).chain m = k.chain m := rfl
@[simp] theorem Core.pair_setClaim (k : Core) (n : Nat) (x : Claim) (m : Nat) : (k.setClaim n x).pair m = k.pair m := rfl
@[simp] theorem Core.tcfgAt_setClaim (k : Core) (n : Nat) (x : Claim) (m : Nat) : (k.setClaim n x).tcfgAt m = k.tcfgAt m := rfl

@[simp] theorem Core.chain_setChain_same (k : Core) (n : Nat) (x : Chain) : (k.setChain n x).chain n = x := by simp [Core.chain, Core.setChain]
@[simp] theorem Core.chain_setChain_other (k : Core) {n m : Nat} (x : Chain) (h : m ≠ n) : (k.setChain n x).chain m = k.chain m := by
  simp [Core.chain, Core.setChain, h]
@[simp] theorem Core.slot_setChain (k : Core) (n : Nat) (x : Chain) (m : Nat) : (k.setChain n x).slot m = k.slot m := rfl
@[simp] theorem Core.entry_setChain (k : Core) (n : Nat) (x : Chain) (m : Nat) : (k.setChain n x).entry m = k.entry m := rfl
@[simp] theorem Core.vreg_setChain (k : Core) (n : Nat) (x : Chain) (m : Nat) : (k.setChain n x).vreg m = k.vreg m := rfl
@[simp] theorem Core.tile_setChain (k : Core) (n : Nat) (x : Chain) (m : Nat) : (k.setChain n x).tile m = k.tile m := rfl
@[simp] theorem Core.acc_setChain (k : Core) (n : Nat) (x : Chain) (m : Nat) : (k.setChain n x).acc m = k.acc m := rfl
@[simp] theorem Core.port_setChain (k : Core) (n : Nat) (x : Chain) (m : Nat) : (k.setChain n x).port m = k.port m := rfl
@[simp] theorem Core.sem_setChain (k : Core) (n : Nat) (x : Chain) (m : Nat) : (k.setChain n x).sem m = k.sem m := rfl
@[simp] theorem Core.stream_setChain (k : Core) (n : Nat) (x : Chain) (m : Nat) : (k.setChain n x).stream m = k.stream m := rfl
@[simp] theorem Core.claim_setChain (k : Core) (n : Nat) (x : Chain) (m : Nat) : (k.setChain n x).claim m = k.claim m := rfl
@[simp] theorem Core.pair_setChain (k : Core) (n : Nat) (x : Chain) (m : Nat) : (k.setChain n x).pair m = k.pair m := rfl
@[simp] theorem Core.tcfgAt_setChain (k : Core) (n : Nat) (x : Chain) (m : Nat) : (k.setChain n x).tcfgAt m = k.tcfgAt m := rfl

@[simp] theorem Core.pair_setPair_same (k : Core) (n : Nat) (x : Pair) : (k.setPair n x).pair n = x := by simp [Core.pair, Core.setPair]
@[simp] theorem Core.pair_setPair_other (k : Core) {n m : Nat} (x : Pair) (h : m ≠ n) : (k.setPair n x).pair m = k.pair m := by
  simp [Core.pair, Core.setPair, h]
@[simp] theorem Core.slot_setPair (k : Core) (n : Nat) (x : Pair) (m : Nat) : (k.setPair n x).slot m = k.slot m := rfl
@[simp] theorem Core.entry_setPair (k : Core) (n : Nat) (x : Pair) (m : Nat) : (k.setPair n x).entry m = k.entry m := rfl
@[simp] theorem Core.vreg_setPair (k : Core) (n : Nat) (x : Pair) (m : Nat) : (k.setPair n x).vreg m = k.vreg m := rfl
@[simp] theorem Core.tile_setPair (k : Core) (n : Nat) (x : Pair) (m : Nat) : (k.setPair n x).tile m = k.tile m := rfl
@[simp] theorem Core.acc_setPair (k : Core) (n : Nat) (x : Pair) (m : Nat) : (k.setPair n x).acc m = k.acc m := rfl
@[simp] theorem Core.port_setPair (k : Core) (n : Nat) (x : Pair) (m : Nat) : (k.setPair n x).port m = k.port m := rfl
@[simp] theorem Core.sem_setPair (k : Core) (n : Nat) (x : Pair) (m : Nat) : (k.setPair n x).sem m = k.sem m := rfl
@[simp] theorem Core.stream_setPair (k : Core) (n : Nat) (x : Pair) (m : Nat) : (k.setPair n x).stream m = k.stream m := rfl
@[simp] theorem Core.claim_setPair (k : Core) (n : Nat) (x : Pair) (m : Nat) : (k.setPair n x).claim m = k.claim m := rfl
@[simp] theorem Core.chain_setPair (k : Core) (n : Nat) (x : Pair) (m : Nat) : (k.setPair n x).chain m = k.chain m := rfl
@[simp] theorem Core.tcfgAt_setPair (k : Core) (n : Nat) (x : Pair) (m : Nat) : (k.setPair n x).tcfgAt m = k.tcfgAt m := rfl

/-! ### Slots of an updated core -/

@[simp] theorem State.slot_setSlot_same (s : State) (c n : Nat) (v : Slot) : (s.setSlot c n v).slot c n = v := by
  simp [State.slot, State.setSlot]
@[simp] theorem State.slot_setSlot_slot (s : State) (c : Nat) {n m : Nat} (v : Slot) (h : m ≠ n) :
    (s.setSlot c n v).slot c m = s.slot c m := by simp [State.slot, State.setSlot, h]
@[simp] theorem State.slot_setSlot_core (s : State) {c c' : Nat} (n m : Nat) (v : Slot) (h : c' ≠ c) :
    (s.setSlot c n v).slot c' m = s.slot c' m := by simp [State.slot, State.setSlot, h]
@[simp] theorem State.slot_modSlot_same (s : State) (c n : Nat) (f : Slot → Slot) : (s.modSlot c n f).slot c n = f (s.slot c n) := by
  simp [State.modSlot]
@[simp] theorem State.slot_modSlot_slot (s : State) (c : Nat) {n m : Nat} (f : Slot → Slot) (h : m ≠ n) :
    (s.modSlot c n f).slot c m = s.slot c m := by simp [State.modSlot, h]
@[simp] theorem State.slot_modSlot_core (s : State) {c c' : Nat} (n m : Nat) (f : Slot → Slot) (h : c' ≠ c) :
    (s.modSlot c n f).slot c' m = s.slot c' m := by simp [State.modSlot, h]
@[simp] theorem State.entry_modSlot (s : State) (c n : Nat) (f : Slot → Slot) (c' e : Nat) :
    ((s.modSlot c n f).core c').entry e = (s.core c').entry e := by
  by_cases h : c' = c
  · subst h; simp [State.modSlot, State.setSlot]
  · simp [State.modSlot, State.setSlot, h]
@[simp] theorem State.slot_advance_run (s : State) (c n len : Nat) : ((s.advance c n len).slot c n).run = (s.slot c n).run := by
  simp [State.advance]

end Sys2Proof.Machine
end

