-- ==== Sys2Proof/Laws/Exec.lean ====
section
/-! SUPPORT. Every instruction of a slot passes the one front end `issueWith`, with a body of its own. -/

namespace Sys2Proof.Machine

/-- The body of an instruction: its own effect once its operands are read. -/
def bodyOf (i : Instr) : Ctx → Vals → State → Res :=
  match i with
  | .addCompact _ | .add _ => addBody
  | .subCompact _ | .sub _ => subBody
  | .mulCompact _ | .mul _ => mulBody
  | .mulhCompact _ | .mulh _ => mulhBody
  | .divCompact _ | .div _ => divBody
  | .remCompact _ | .rem _ => remBody
  | .andCompact _ | .and _ => andBody
  | .orCompact _ | .or _ => orBody
  | .xorCompact _ | .xor _ => xorBody
  | .andnCompact _ | .andn _ => andnBody
  | .shlCompact _ | .shl _ => shlBody
  | .shrCompact _ | .shr _ => shrBody
  | .sraCompact _ | .sra _ => sraBody
  | .rotCompact _ | .rot _ => rotBody
  | .minCompact _ | .min _ => minBody
  | .maxCompact _ | .max _ => maxBody
  | .clzCompact _ | .clz _ => clzBody
  | .ctzCompact _ | .ctz _ => ctzBody
  | .popcCompact _ | .popc _ => popcBody
  | .selCompact _ | .sel _ => selBody
  | .cmpCompact _ | .cmp _ => cmpBody
  | .movCompact _ | .mov _ => movBody
  | .addi _ => addiBody
  | .ldDCompact _ => ldDCompactBody
  | .stDCompact _ => stDCompactBody
  | .brCompact _ => brCompactBody
  | .bfx _ => bfxBody
  | .bfi _ => bfiBody
  | .lea _ => leaBody
  | .ext _ => extBody
  | .adds _ => addsBody
  | .madd _ => maddBody
  | .fadd _ => faddBody
  | .fsub _ => fsubBody
  | .fmul _ => fmulBody
  | .fma _ => fmaBody
  | .fmin _ => fminBody
  | .fmax _ => fmaxBody
  | .fcmp _ => fcmpBody
  | .fcvt _ => fcvtBody
  | .frcp _ => frcpBody
  | .frsq _ => frsqBody
  | .frcpr _ => frcprBody
  | .frsqr _ => frsqrBody
  | .fsfn _ => fsfnBody
  | .fclass _ => fclassBody
  | .fsgn _ => fsgnBody
  | .br _ => brBody
  | .jmp _ => jmpBody
  | .call _ => callBody
  | .callr _ => callrBody
  | .loop _ => loopBody
  | .exit _ => exitBody
  | .trap _ => trapBody
  | .nop _ => nopBody
  | .plog _ => plogBody
  | .pmovReadWord _ => pmovReadWordBody
  | .pmovWriteWord _ => pmovWriteWordBody
  | .pmovReadPred _ => pmovReadPredBody
  | .pmovWritePred _ => pmovWritePredBody
  | .empty _ => emptyBody
  | .fetest _ => fetestBody
  | .ctlRead _ => ctlReadBody
  | .ctlWrite _ => ctlWriteBody
  | .timerArm _ => timerArmBody
  | .modeWrite _ => modeWriteBody
  | .vshapeWrite _ => vshapeWriteBody
  | .tcfgWrite _ => tcfgWriteBody
  | .runqFlush _ => runqFlushBody
  | .semcfgWrite _ => semcfgWriteBody
  | .traceWrite _ => traceWriteBody
  | .qflagsClear _ => qflagsClearBody
  | .eret _ => eretBody
  | .fence _ => fenceBody
  | .beat _ => beatBody
  | .ld _ => ldBody
  | .st _ => stBody
  | .amo _ => amoBody
  | .cas _ => casBody
  | .amon _ => amonBody
  | .claim _ => claimBody
  | .dlv _ => dlvBody
  | .cdrop _ => cdropBody
  | .stt _ => sttBody
  | .stw _ => stwBody
  | .tokq _ => tokqBody
  | .go _ => goBody
  | .spawn _ => spawnBody
  | .lvget _ => lvgetBody
  | .lvcommit _ => lvcommitBody
  | .wmsg _ => wmsgBody
  | .wmsgCount _ => wmsgCountBody
  | .send _ => sendBody
  | .sendAm _ => sendAmBody
  | .semWait _ => semWaitBody
  | .semPost _ => semPostBody
  | .semTry _ => semTryBody
  | .kick _ => kickBody
  | .hcopy _ => hcopyBody
  | .hpull _ => hpullBody
  | .hsub _ => hsubBody
  | .hsubLeave _ => hsubLeaveBody
  | .hstream _ => hstreamBody
  | .vadd _ => vaddBody
  | .vsub _ => vsubBody
  | .vmul _ => vmulBody
  | .vfma _ => vfmaBody
  | .vmin _ => (minMaxBody false)
  | .vmax _ => (minMaxBody true)
  | .vand _ => (bitBody (· &&& ·))
  | .vor _ => (bitBody (· ||| ·))
  | .vxor _ => (bitBody (· ^^^ ·))
  | .vshl _ => vshlBody
  | .vshr _ => vshrBody
  | .vcmp _ => vcmpBody
  | .vsel _ => vselBody
  | .vcvt _ => vcvtBody
  | .vsfn _ => vsfnBody
  | .vbcast _ => vbcastBody
  | .vbcastRow _ => vbcastRowBody
  | .vld _ => vldBody
  | .vst _ => vstBody
  | .vgather _ => vgatherBody
  | .vscatter _ => vscatterBody
  | .vred _ => vredBody
  | .vscan _ => vscanBody
  | .vperm _ => vpermBody
  | .vtrn _ => vtrnBody
  | .vdist _ => vdistBody
  | .vtopk _ => vtopkBody
  | .vquant _ => vquantBody
  | .vext _ => vextBody
  | .vins _ => vinsBody
  | .vmov _ => vmovBody
  | .tld _ => tldBody
  | .tldAcc _ => tldAccBody
  | .tst _ => tstBody
  | .tstAcc _ => tstAccBody
  | .tzero _ => tzeroBody
  | .tanch _ => tanchBody
  | .tanchRd _ => tanchRdBody
  | .tanchClr _ => tanchClrBody
  | .tmma _ => tmmaBody
  | .tcvt _ => tcvtBody
  | .tcvtTile _ => tcvtTileBody
  | .tvec _ => tvecBody
  | .tvecIn _ => tvecInBody
  | .slres _ => slresBody
  | .sljoin _ => sljoinBody
  | .slsend _ => slsendBody
  | .slwait _ => slwaitBody
  | .slclose _ => slcloseBody
  | .gsync _ => gsyncBody
  | .tlbi _ => tlbiBody
  | .syscGquery _ => gqueryBody
  | .syscGfree _ => gfreeBody
  | .syscElog _ => elogBody
  | .qflagsRaise _ _ | .roundStart _ | .timerExpiry _ _ | .spill _ _ | .restore _ _ | .arrive _ | .serve _
  | .complete _ | .claimDelivery _ | .claimExpiry _ _ | .messageAccept _ | .kickAccept _ | .activeMessageRun _
  | .handlerAbort _ | .runqDeferredPlace _ | .vectorComplete _ _ | .matrixStart _ | .matrixComplete _
  | .pairedEffectCompare _ _ | .jobGo _ _ | .jobComplete _ _ | .requestResend _ | .escapeReroute _
  | .streamDeliver _ _ | .sluiceJoinServe _ | .sluiceContribution _ | .mcastRootForward _ | .mcastDeliver _ _
  | .walkComplete _ _ _ | .triggerWrite _ _ | .taskPlace _ _ | .taskPreemptPriority _ _ | .taskMigrateSeat _ _
  | .nodeComplete _ _ _ _ | .launchComplete _ _ _ | .watchdogFire _ _ | .nodeFreeze _ _ _ | .tokenNotice _
  | .tokenDeadline _ _ | .tokenEntryFree _ _ | .holdEnter _ | .holdQueryAnswer _ | .holdRelease _
  | .escapeChannelMove _ | .flitResend _ _ | .linkRetire _ _ | .portRetire _ _ | .laneCalibrationRotate _ _ _
  | .laneFailure _ _ _ _ | .sramScrub _ _ | .sramUncorrectable _ _ | .gddr7MultibitError _ _
  | .regfileUncorrectable _ _ _ | .hostLoadTimeout _ | .hostBar2Write _ _ | .hostBar2Read _ _ _ _
  | .bar0RegisterWrite _ _ | .cmddbOverrun _ _ | .plimitWrite _ _ | .notAnInstruction _ | .fetchFault _ _
  | .jobAccess _ _ _ | .tlbiRemovalDone _ _ | .heartbeatReceive _ _ | .launch | .heartbeatSend | .deviceFence
  | .egressPost | .powerTick | .reset | .identify | .attest | .loadFirmware | .map | .mapDeferred
  | .mapAperture | .keySet | .graphLoad | .graphUnload | .nodeResumeContinue | .nodeResumeRerun | .resetScope
  | .errorLogRead | .watchConfig | .linkStatus | .checkpointQuiesce | .checkpointRelease | .checkpointAdopt => fun _ _ s => .ok s

/-- The instruction that a pair keeps for the other slot. -/
def keptOf (i : Instr) : Instr :=
  match i with
  | .addCompact _ | .subCompact _ | .mulCompact _ | .mulhCompact _ | .divCompact _ | .remCompact _
  | .andCompact _ | .orCompact _ | .xorCompact _ | .andnCompact _ | .shlCompact _ | .shrCompact _
  | .sraCompact _ | .rotCompact _ | .minCompact _ | .maxCompact _ | .clzCompact _ | .ctzCompact _
  | .popcCompact _ | .selCompact _ | .cmpCompact _ | .movCompact _ | .addi _ | .brCompact _ | .add _ | .sub _
  | .mul _ | .mulh _ | .div _ | .rem _ | .and _ | .or _ | .xor _ | .andn _ | .shl _ | .shr _ | .sra _ | .rot _
  | .min _ | .max _ | .clz _ | .ctz _ | .popc _ | .bfx _ | .bfi _ | .sel _ | .cmp _ | .mov _ | .lea _ | .ext _
  | .adds _ | .madd _ | .fadd _ | .fsub _ | .fmul _ | .fma _ | .fmin _ | .fmax _ | .fcmp _ | .fcvt _ | .frcp _
  | .frsq _ | .frcpr _ | .frsqr _ | .fsfn _ | .fclass _ | .fsgn _ | .br _ | .jmp _ | .call _ | .callr _
  | .loop _ | .trap _ | .nop _ | .plog _ | .pmovReadWord _ | .pmovWriteWord _ | .pmovReadPred _
  | .pmovWritePred _ | .empty _ | .ctlWrite _ | .timerArm _ | .modeWrite _ | .vshapeWrite _ | .tcfgWrite _
  | .eret _ | .beat _ | .go _ | .hcopy _ | .hpull _ | .hsub _ | .hsubLeave _ | .hstream _ | .vadd _ | .vsub _
  | .vmul _ | .vfma _ | .vmin _ | .vmax _ | .vand _ | .vor _ | .vxor _ | .vshl _ | .vshr _ | .vcmp _ | .vsel _
  | .vcvt _ | .vsfn _ | .vbcast _ | .vbcastRow _ | .vld _ | .vst _ | .vgather _ | .vscatter _ | .vred _
  | .vscan _ | .vperm _ | .vtrn _ | .vdist _ | .vtopk _ | .vquant _ | .vext _ | .vins _ | .vmov _ | .tld _
  | .tldAcc _ | .tst _ | .tstAcc _ | .tzero _ | .tanch _ | .tanchRd _ | .tanchClr _ | .tmma _ | .tcvt _
  | .tcvtTile _ | .tvec _ | .tvecIn _ | .gsync _ => .roundStart 0
  | .ldDCompact _ | .stDCompact _ | .exit _ | .fetest _ | .ctlRead _ | .runqFlush _ | .semcfgWrite _
  | .traceWrite _ | .qflagsClear _ | .fence _ | .ld _ | .st _ | .amo _ | .cas _ | .amon _ | .claim _ | .dlv _
  | .cdrop _ | .stt _ | .stw _ | .tokq _ | .spawn _ | .lvget _ | .lvcommit _ | .wmsg _ | .wmsgCount _ | .send _
  | .sendAm _ | .semWait _ | .semPost _ | .semTry _ | .kick _ | .slres _ | .sljoin _ | .slsend _ | .slwait _
  | .slclose _ | .tlbi _ | .syscGquery _ | .syscGfree _ | .syscElog _ => i
  | .qflagsRaise _ _ | .roundStart _ | .timerExpiry _ _ | .spill _ _ | .restore _ _ | .arrive _ | .serve _
  | .complete _ | .claimDelivery _ | .claimExpiry _ _ | .messageAccept _ | .kickAccept _ | .activeMessageRun _
  | .handlerAbort _ | .runqDeferredPlace _ | .vectorComplete _ _ | .matrixStart _ | .matrixComplete _
  | .pairedEffectCompare _ _ | .jobGo _ _ | .jobComplete _ _ | .requestResend _ | .escapeReroute _
  | .streamDeliver _ _ | .sluiceJoinServe _ | .sluiceContribution _ | .mcastRootForward _ | .mcastDeliver _ _
  | .walkComplete _ _ _ | .triggerWrite _ _ | .taskPlace _ _ | .taskPreemptPriority _ _ | .taskMigrateSeat _ _
  | .nodeComplete _ _ _ _ | .launchComplete _ _ _ | .watchdogFire _ _ | .nodeFreeze _ _ _ | .tokenNotice _
  | .tokenDeadline _ _ | .tokenEntryFree _ _ | .holdEnter _ | .holdQueryAnswer _ | .holdRelease _
  | .escapeChannelMove _ | .flitResend _ _ | .linkRetire _ _ | .portRetire _ _ | .laneCalibrationRotate _ _ _
  | .laneFailure _ _ _ _ | .sramScrub _ _ | .sramUncorrectable _ _ | .gddr7MultibitError _ _
  | .regfileUncorrectable _ _ _ | .hostLoadTimeout _ | .hostBar2Write _ _ | .hostBar2Read _ _ _ _
  | .bar0RegisterWrite _ _ | .cmddbOverrun _ _ | .plimitWrite _ _ | .notAnInstruction _ | .fetchFault _ _
  | .jobAccess _ _ _ | .tlbiRemovalDone _ _ | .heartbeatReceive _ _ | .launch | .heartbeatSend | .deviceFence
  | .egressPost | .powerTick | .reset | .identify | .attest | .loadFirmware | .map | .mapDeferred
  | .mapAperture | .keySet | .graphLoad | .graphUnload | .nodeResumeContinue | .nodeResumeRerun | .resetScope
  | .errorLogRead | .watchConfig | .linkStatus | .checkpointQuiesce | .checkpointRelease | .checkpointAdopt => i

theorem exec_slot (i : Instr) (s : State) (h : ofSlot i = true) :
    exec i s = issueWith (discards i) (pairOf i) (descOf i) (opndOfInstr i) (firstWord i) (lengthOf i) (keptOf i) (bodyOf i) s := by
  cases i <;> first | rfl | (exact absurd h (by decide)) | (simp [ofSlot, shapeOf] at h)

end Sys2Proof.Machine
end

