-- ==== Sys2Proof/Laws/Issue.lean ====
section
/-! SUPPORT. What the front end does, said once: an instruction that issues ends as its body ends; one whose guard
is off only moves the pc; and what writing a destination does (R30, R57, R69). -/

namespace Sys2Proof.Machine

variable {i : Instr} {s t u : State} {v : Vals}

/-- The pc plays no part in what stays of the load-value queue. -/
theorem undone_advance (s r : State) (c n k : Nat) : s.undone (r.advance c n k) c n = s.undone r c n := by
  have h : ((r.advance c n k).core c).pair (n / 2) = (r.core c).pair (n / 2) := by
    simp [State.advance, State.modSlot, State.setSlot, Core.pair, Core.setSlot]
  unfold State.undone
  rw [h]

theorem finishPair_advance (s r : State) (c n k : Nat) (q : Res) : finishPair c n s (r.advance c n k) q = finishPair c n s r q := by
  unfold finishPair
  split <;> simp [undone_advance]

/-- An instruction that issues in a slot of its own, or that touches nothing outside its slot, does what its body does. -/
theorem exec_issues (ho : ofSlot i = true) (h : Issues i s v t) (hp : pairOf i = .inner ∨ Alone s) :
    exec i s = (if s.here.paired then finishPair s.cur.1 s.cur.2 s t (bodyOf i (ctxOf i s) v t)
      else finishRead (descOf i) (ctxOf i s) s (bodyOf i (ctxOf i s) v t)) := by
  obtain ⟨r, hr, rfl⟩ := h.front
  rw [exec_slot i s ho]
  have hl := h.live; have hg := h.guard
  simp only [State.here] at hl hg
  unfold issueWith
  simp only [hl, hg, Bool.not_true, Bool.false_eq_true, if_false]
  unfold issueLive
  simp only [hr]
  cases hq : (s.slot s.cur.1 s.cur.2).paired
  · simp [State.here, hq, ctxOf]
  · obtain hp | hp := hp
    · simp [State.here, hq, ctxOf, hp, runPaired, finishPair_advance]
    · simp [Alone, State.here, hq] at hp

/-- Its own effect is the next state. -/
theorem exec_issues_ok (ho : ofSlot i = true) (h : Issues i s v t) (hp : pairOf i = .inner ∨ Alone s)
    (hb : bodyOf i (ctxOf i s) v t = .ok u) : exec i s = .next u := by
  rw [exec_issues ho h hp, hb]
  cases hq : s.here.paired
  · obtain hs | hs := h.sound
    · simp [hq] at hs
    · rw [if_neg (by simp)]
      show (if (fields (descOf i) (opndOfInstr i)).any (s.badSource s.cur.1 s.cur.2) then _ else _) = _
      rw [hs]; simp
  · simp [finishPair, finish]

/-- A trap of an instruction writes no record but for a page-table entry that was read poisoned (R279). -/
theorem bodyTrap_plain (c n : Nat) (x : Trap) (hx : x.cause = 9 → x.sub ≠ 8) : s.bodyTrap c n x = s.takeTrap c n x := by
  unfold State.bodyTrap
  by_cases h9 : x.cause = 9
  · simp [h9, State.noteWalk, hx h9]
  · simp [h9]

/-- A trap that it takes leaves the state as it was before it, but for what a pair passed on. -/
theorem exec_issues_trap (ho : ofSlot i = true) (h : Issues i s v t) (hp : pairOf i = .inner ∨ Alone s)
    {c k : Nat} {w : Word} (hb : bodyOf i (ctxOf i s) v t = .trap c k w) (hc : c = 9 → k ≠ 8) :
    exec i s = .next ((s.rewound t).takeTrap s.cur.1 s.cur.2 ⟨c, k, w⟩) := by
  rw [exec_issues ho h hp, hb, ← bodyTrap_plain s.cur.1 s.cur.2 ⟨c, k, w⟩ hc]
  cases hq : s.here.paired <;> simp [State.rewound, hq, finishPair, finish, finishRead, ctxOf]

/-- A wait leaves the state as it was before it, with the slot out of rotation. -/
theorem exec_issues_wait (ho : ofSlot i = true) (h : Issues i s v t) (hp : pairOf i = .inner ∨ Alone s)
    {w : Wait} {ws : List Wait} (hb : bodyOf i (ctxOf i s) v t = .wait (w :: ws)) :
    exec i s = .next (s.leave s.cur.1 s.cur.2 (w :: ws)) := by
  rw [exec_issues ho h hp, hb]
  cases hq : s.here.paired <;> simp [finishPair, finish, finishRead, ctxOf]

/-- Writing a destination that takes the value stores it. -/
theorem writeDst_takes {x : Ctx} {spec : Nat} {w : Word} (h : Takes x spec w t) :
    writeDst x spec w t = .ok (t.stored x spec w) := by
  unfold writeDst writeDstP State.stored
  by_cases h1 : spec < 128
  · simp [h1, State.fillReg]
  · by_cases h2 : spec = 145
    · simp [h2]
    · have h3 := h (by omega) h2
      cases hp : (t.slot x.c x.n).paired
      · simp only [hp, Bool.false_eq_true, if_false] at h3 ⊢
        by_cases h4 : spec = 146
        · obtain ⟨hl, hw⟩ := h3 h4
          have : (t.core x.c).runqOpen (prioOf w) = true := by
            simpa [Core.runqOpen, hl] using hw
          simp [h4, this]
        · simp [h1, h2, h4]
      · simp only [hp, if_true] at h3 ⊢
        by_cases h4 : x.n % 2 = 0
        · have := h3 h4
          simp [h1, h2, h4, State.cmpFull, Nat.not_le.mpr this]
        · simp [h1, h2, h4]

theorem writeD_takes {x : Ctx} {w : Word} (h : TakesD x w t) : writeD x w t = .ok (t.storedD x w) := writeDst_takes h

theorem lvqPut_alone (c n : Nat) (e : PEntry) (h : (s.slot c n).paired = false) : s.lvqPut c n e = s := by
  simp [State.lvqPut, State.leads, h]

end Sys2Proof.Machine
end

