-- ==== Sys2Proof/Laws/Memory.lean ====
section
/-! SUPPORT. The canonical form of memory: every operation on it keeps the form, and what a read gives after a write
(R97, R283, R337; assumption log 1). -/

namespace Sys2Proof.Machine

/-! ### Reading after writing -/

theorem memOkFrom_mono {lo lo' : Nat} {m : List Host.Cell} (h : lo' ≤ lo) (hm : memOkFrom lo m = true) :
    memOkFrom lo' m = true := by
  cases m with
  | nil => rfl
  | cons p r =>
    obtain ⟨a, b⟩ := p
    simp only [memOkFrom, Bool.and_eq_true, decide_eq_true_eq] at hm ⊢
    exact ⟨⟨by omega, hm.1.2⟩, hm.2⟩

/-- Keys below the first one that a canonical memory lists read as blank. -/
theorem cellGet_below {lo k : Nat} {m : List Host.Cell} (hm : memOkFrom lo m = true) (h : k < lo) :
    cellGet m k = blankByte := by
  cases m with
  | nil => rfl
  | cons p r =>
    obtain ⟨a, b⟩ := p
    simp only [memOkFrom, Bool.and_eq_true, decide_eq_true_eq] at hm
    simp [cellGet, show k ≠ a by omega, show k < a by omega]

theorem cellGet_cellPut_same {lo : Nat} (m : List Host.Cell) (k : Nat) (v : Byte) (hm : memOkFrom lo m = true) :
    cellGet (cellPut m k v) k = v := by
  induction m generalizing lo with
  | nil => by_cases h : v = blankByte <;> simp [cellPut, cellGet, h]
  | cons p r ih =>
    obtain ⟨a, b⟩ := p
    simp only [memOkFrom, Bool.and_eq_true, decide_eq_true_eq] at hm
    unfold cellPut
    split
    · split
      · rename_i h1 h2; simp [cellGet, h2, h1, show k ≠ a by omega]
      · simp [cellGet]
    · split
      · rename_i h2; subst h2
        split
        · rename_i h3; rw [cellGet_below hm.2 (by omega), h3]
        · simp [cellGet]
      · rename_i h1 h2; simp only [cellGet, h1, h2, if_false]; exact ih hm.2

theorem cellGet_cellPut_other {lo : Nat} (m : List Host.Cell) {k j : Nat} (v : Byte) (hm : memOkFrom lo m = true)
    (hj : j ≠ k) : cellGet (cellPut m k v) j = cellGet m j := by
  induction m generalizing lo with
  | nil =>
    by_cases h : v = blankByte <;> simp [cellPut, cellGet, h, hj]
  | cons p r ih =>
    obtain ⟨a, b⟩ := p
    simp only [memOkFrom, Bool.and_eq_true, decide_eq_true_eq] at hm
    unfold cellPut
    split
    · rename_i h1
      split
      · rfl
      · by_cases h2 : j < k
        · simp [cellGet, hj, h2, show j ≠ a by omega, show j < a by omega]
        · simp [cellGet, hj, h2]
    · split
      · rename_i h1 h2; subst h2
        split
        · by_cases h3 : j < k
          · rw [cellGet_below hm.2 (by omega)]; simp [cellGet, hj, h3]
          · simp [cellGet, hj, h3]
        · simp [cellGet, hj]
      · rename_i h1 h2
        by_cases h3 : j = a
        · simp [cellGet, h3]
        · by_cases h4 : j < a
          · simp [cellGet, h3, h4]
          · simp only [cellGet, h3, h4, if_false]; exact ih hm.2

/-! ### The canonical form -/

theorem memOkFrom_cellPut {lo : Nat} (m : List Host.Cell) (k : Nat) (v : Byte) (hm : memOkFrom lo m = true) (hk : lo ≤ k) :
    memOkFrom lo (cellPut m k v) = true := by
  induction m generalizing lo with
  | nil => by_cases h : v = blankByte <;> simp [cellPut, memOkFrom, h, hk]
  | cons p r ih =>
    obtain ⟨a, b⟩ := p
    have hm' := hm
    simp only [memOkFrom, Bool.and_eq_true, decide_eq_true_eq] at hm
    unfold cellPut
    split
    · rename_i h1
      split
      · exact hm'
      · rename_i h2
        simp only [memOkFrom, Bool.and_eq_true, decide_eq_true_eq]
        exact ⟨⟨hk, h2⟩, ⟨by omega, hm.1.2⟩, hm.2⟩
    · split
      · rename_i h1 h2; subst h2
        split
        · exact memOkFrom_mono (by omega) hm.2
        · rename_i h3
          simp only [memOkFrom, Bool.and_eq_true, decide_eq_true_eq]
          exact ⟨⟨hk, h3⟩, hm.2⟩
      · rename_i h1 h2
        simp only [memOkFrom, Bool.and_eq_true, decide_eq_true_eq]
        exact ⟨⟨hm.1.1, hm.1.2⟩, ih hm.2 (by omega)⟩

theorem memOkFrom_filter {lo : Nat} (m : List Host.Cell) (f : Host.Cell → Bool) (hm : memOkFrom lo m = true) :
    memOkFrom lo (m.filter f) = true := by
  induction m generalizing lo with
  | nil => rfl
  | cons p r ih =>
    obtain ⟨a, b⟩ := p
    simp only [memOkFrom, Bool.and_eq_true, decide_eq_true_eq] at hm
    by_cases h : f (a, b)
    · simp only [List.filter_cons, h, if_true, memOkFrom, Bool.and_eq_true, decide_eq_true_eq]
      exact ⟨⟨hm.1.1, hm.1.2⟩, ih hm.2⟩
    · simp only [List.filter_cons, h]
      exact memOkFrom_mono (by omega) (ih hm.2)

theorem wf_cellPut (m : List Host.Cell) (k : Nat) (v : Byte) (hm : Memory.wf m = true) : Memory.wf (cellPut m k v) = true :=
  memOkFrom_cellPut m k v hm (Nat.zero_le k)

theorem wf_cellsPut (m : List Host.Cell) (k : Nat) (bs : List Byte) (hm : Memory.wf m = true) :
    Memory.wf (cellsPut m k bs) = true := by
  induction bs generalizing m k with
  | nil => exact hm
  | cons b r ih => exact ih _ _ (wf_cellPut m k b hm)

theorem wf_filter (m : List Host.Cell) (f : Host.Cell → Bool) (hm : Memory.wf m = true) : Memory.wf (m.filter f) = true :=
  memOkFrom_filter m f hm

theorem reset_mem_wf : Memory.wf State.reset.mem = true := rfl

/-- A byte after bytes are written from a key upward. -/
theorem cellGet_cellsPut (m : List Host.Cell) (k : Nat) (bs : List Byte) (j : Nat) (hm : Memory.wf m = true) :
    cellGet (cellsPut m k bs) j = if k ≤ j ∧ j < k + bs.length then nth blankByte bs (j - k) else cellGet m j := by
  induction bs generalizing m k with
  | nil => simp [cellsPut, show ¬ (k ≤ j ∧ j < k) by omega]
  | cons b r ih =>
    rw [cellsPut, ih _ _ (wf_cellPut m k b hm)]
    by_cases h1 : k + 1 ≤ j ∧ j < k + 1 + r.length
    · rw [if_pos h1, if_pos ⟨by omega, by simp; omega⟩, show j - k = (j - (k + 1)) + 1 by omega]
      simp [nth]
    · rw [if_neg h1]
      by_cases h2 : j = k
      · subst h2
        rw [cellGet_cellPut_same m j b hm, if_pos ⟨Nat.le_refl _, by simp⟩]
        simp [nth]
      · rw [cellGet_cellPut_other m b hm h2, if_neg]
        simp only [List.length_cons]; omega

/-! ### The operations of the state -/

/-- What opening a unit for a key leaves of memory: as it was, or with the unit's bytes written anew. -/
theorem openUnit_mem (s : State) (kid u : Nat) :
    (s.openUnit kid u).mem = s.mem ∨ ∃ k bs, (s.openUnit kid u).mem = cellsPut s.mem k bs := by
  unfold State.openUnit
  by_cases h : tabGet 0 s.unitKey u = kid
  · left; simp only [h, if_true]
  · by_cases h2 : tabGet 0 s.unitKey u = 0
    · left; simp only [h2, if_true]; split <;> rfl
    · right; simp only [h, h2, if_false]; exact ⟨_, _, rfl⟩

theorem openUnit_wf (s : State) (kid u : Nat) (hm : Memory.wf s.mem = true) : Memory.wf (s.openUnit kid u).mem = true := by
  obtain h | ⟨k, bs, h⟩ := openUnit_mem s kid u
  · rw [h]; exact hm
  · rw [h]; exact wf_cellsPut s.mem k bs hm

theorem foldl_wf {α : Type} (l : List α) (f : State → α → State) (hf : ∀ s x, Memory.wf s.mem = true → Memory.wf (f s x).mem = true)
    (s : State) (hm : Memory.wf s.mem = true) : Memory.wf (l.foldl f s).mem = true := by
  induction l generalizing s with
  | nil => exact hm
  | cons x r ih => exact ih _ (hf s x hm)

/-- Storing bytes keeps the canonical form, whatever the place and the space. -/
theorem writeBytes_wf (s : State) (space : Nat) (l : Loc) (bs : List Byte) (hm : Memory.wf s.mem = true) :
    Memory.wf (s.writeBytes space l bs).mem = true := by
  have key (t : State) (ht : Memory.wf t.mem = true) :
      Memory.wf (({ t with mem := cellsPut t.mem (keyOf l) bs } : State).clearWords (keyOf l) bs.length).mem = true :=
    wf_cellsPut t.mem (keyOf l) bs ht
  cases l with
  | dram d pa => exact key _ (foldl_wf _ _ (fun x u h => openUnit_wf x _ u h) s hm)
  | pad c off => exact key s hm
  | pci d a => exact key s hm
  | far d va => exact key s hm

theorem writeNum_wf (s : State) (space : Nat) (l : Loc) (n v : Nat) (hm : Memory.wf s.mem = true) :
    Memory.wf (s.writeNum space l n v).mem = true := writeBytes_wf s space l _ hm

theorem freeVal_mem (s : State) : s.freeVal.2.mem = s.mem := rfl

/-- Claiming a granule leaves memory as it was. -/
@[simp] theorem takePad_mem (s : State) (space : Nat) (l : Loc) : (s.takePad space l).mem = s.mem := by cases l <;> rfl

theorem blurWords_wf (n : Nat) (s : State) (d space va : Nat) (hm : Memory.wf s.mem = true) :
    Memory.wf (s.blurWords d space va n).mem = true := by
  induction n generalizing s va with
  | zero => exact hm
  | succ n ih =>
    refine ih _ _ ?_
    dsimp only
    split
    · exact writeNum_wf _ _ _ _ _ (by simpa [freeVal_mem] using hm)
    · exact hm

theorem freeGranule_wf (s : State) (l : Loc) (hm : Memory.wf s.mem = true) : Memory.wf (s.freeGranule l).mem = true := by
  unfold State.freeGranule; exact wf_filter s.mem _ hm

theorem wipe_wf (s : State) (lo hi : Nat) (hm : Memory.wf s.mem = true) : Memory.wf (s.wipe lo hi).mem = true := by
  unfold State.wipe; exact wf_filter s.mem _ hm

/-! ### The error log, and operations that leave memory alone -/

theorem firstFrom_some {p : Nat → Bool} : ∀ {n lo k : Nat}, firstFrom p lo n = some k → p k = true
  | n + 1, lo, k, h => by
    unfold firstFrom at h
    split at h
    · simp_all
    · exact firstFrom_some h

theorem firstFrom_none {p : Nat → Bool} : ∀ {n lo : Nat}, firstFrom p lo n = none → ∀ k, lo ≤ k → k < lo + n → p k = false
  | 0, _, _, k, h1, h2 => by omega
  | n + 1, lo, h, k, h1, h2 => by
    unfold firstFrom at h
    split at h
    · simp at h
    · rename_i hp
      by_cases hk : k = lo
      · subst hk; simpa using hp
      · exact firstFrom_none h k (by omega) (by omega)

/-- In the cycle that a record is dated, no record of a greater class or UNIT stands, unless every one of 257 cycles has a record
(R287). -/
theorem recordCycle_order (v : Dev) (cls unit cycle : Nat) :
    (∀ p ∈ v.log, p.2.cycle = v.recordCycle cls unit cycle % 2 ^ 32 → p.2.cls < cls ∨ (p.2.cls = cls ∧ p.2.unit ≤ unit)) ∨
      ∀ k, k < 257 → ∃ p ∈ v.log, p.2.cycle = (cycle + k) % 2 ^ 32 := by
  unfold Dev.recordCycle
  dsimp only
  generalize hf : firstFrom _ 0 257 = r
  cases r with
  | some k =>
    left
    have h := firstFrom_some hf
    intro p hp hc
    simp only [Option.map_some, Option.getD_some] at hc
    simp only [Bool.not_eq_true', List.any_eq_false, Bool.and_eq_true, decide_eq_true_eq, Bool.or_eq_true, not_and, not_or] at h
    have := h p hp hc
    omega
  | none =>
    right
    intro k hk
    have h := firstFrom_none hf k (by omega) (by omega)
    simp only [Bool.not_eq_false', List.any_eq_true, Bool.and_eq_true, decide_eq_true_eq] at h
    obtain ⟨p, hp, h1, -⟩ := h
    exact ⟨p, hp, h1⟩

@[simp] theorem fillReg_mem (s : State) (c e : Nat) (v : Word) (po : Bool) (tag : BitVec 12) : (s.fillReg c e v po tag).mem = s.mem := rfl
@[simp] theorem fillReg_devs (s : State) (c e : Nat) (v : Word) (po : Bool) (tag : BitVec 12) : (s.fillReg c e v po tag).devs = s.devs := rfl
@[simp] theorem fillReg_net (s : State) (c e : Nat) (v : Word) (po : Bool) (tag : BitVec 12) : (s.fillReg c e v po tag).net = s.net := rfl

/-- Noting an answer touches the hold alone: cores, devices and memory stay. -/
theorem holdAnswered_rest (s : State) (w : Nat) (ok : Bool) :
    (s.holdAnswered w ok).mem = s.mem ∧ (s.holdAnswered w ok).cores = s.cores ∧ (s.holdAnswered w ok).devs = s.devs := by
  unfold State.holdAnswered
  split
  · split
    · exact ⟨rfl, rfl, rfl⟩
    · exact ⟨rfl, rfl, rfl⟩
  · exact ⟨rfl, rfl, rfl⟩

end Sys2Proof.Machine
end

