-- ==== Sys2Proof/Tests/Worlds.lean ====
section
/-! SUPPORT. Small states for the tests and the witnesses: a task in slot 0 of core 0 with 128 scalar and 32 vector
registers, and the values with which an instruction issues there. -/

set_option Elab.async false

namespace Sys2Proof.Tests

open Sys2Proof.Machine

/-- A task in rotation, in space 1, with a handler at 0x4000. -/
def task : Slot := { run := .ready, pc := 0x1000, scount := 128, vcount := 32, space := 1, tvec := 0x4000, task := 1, taskw := 5 }

/-- A scalar file whose first registers hold the given values. -/
def file (l : List Nat) : SMap Entry := l.zipIdx.map (fun p => (p.2, { val := BitVec.ofNat 64 p.1 }))

/-- A state whose core 0 is the one given. -/
def world (k : Core) : State := { State.reset with cores := [(0, k)] }

/-- A state with the task given in slot 0 and these values in x0, x1, .... -/
def with0 (sl : Slot) (l : List Nat) : State := world { slots := [(0, sl)], sfile := file l, order := [0] }

/-- A state with `task` in slot 0 and these values in x0, x1, .... -/
def regs (l : List Nat) : State := with0 task l

/-- A claim without a deadline is never due. -/
theorem notDue_of {s : State} {c i : Nat} (h : ((s.core c).claim i).deadline = none) : ¬ ClaimDue s c i := by
  rintro ⟨-, d, hd, -⟩
  simp [h] at hd

/-- Facts decided together stand before the rest of a conjunction. -/
theorem first2 {A B R : Prop} (h : A ∧ B) (r : R) : A ∧ B ∧ R := ⟨h.1, h.2, r⟩
theorem first3 {A B C R : Prop} (h : A ∧ B ∧ C) (r : R) : A ∧ B ∧ C ∧ R := ⟨h.1, first2 h.2 r⟩
theorem first4 {A B C D R : Prop} (h : A ∧ B ∧ C ∧ D) (r : R) : A ∧ B ∧ C ∧ D ∧ R := ⟨h.1, first3 h.2 r⟩
theorem first5 {A B C D E R : Prop} (h : A ∧ B ∧ C ∧ D ∧ E) (r : R) : A ∧ B ∧ C ∧ D ∧ E ∧ R := ⟨h.1, first4 h.2 r⟩

/-- An access in flight of slot 0 of core 0, in space 1. -/
def req (k : AKind) (h : Home) (st : Stage := .queued) : Access :=
  { id := 1, kind := k, core := 0, slot := 0, taskw := 5, space := 1, home := h, stage := st }

/-- A state in which one access is in flight, at the head of its home's FIFO if it is queued. -/
def flying (a : Access) (s : State) : State :=
  { s with net := [a], fifo := if a.stage = .queued then [1] else [], nextId := 2 }

/-- A translation of the first page of the translated region to the last page of device memory. -/
def leaf : Tlb := { fetchEntry with w := true, x := false, frame := dramSize - 65536 }

/-- Fields d, a, b, c and fn of an instruction, the rest plain. -/
def op (d a b c : BitVec 8) (fn : BitVec 14 := 0) (lit : Option (BitVec 32) := none) : Opnd :=
  ⟨0, false, d, a, b, c, false, false, false, false, fn, lit⟩

/-- Fields d, a, b and fn5 of a compact instruction. -/
def cop (d a b : BitVec 5) (fn5 : BitVec 5 := 0) : Compact := ⟨0, false, d, a, b, fn5⟩

/-- What an instruction issues with, if it issues. -/
def issued (i : Instr) (s : State) : Option (Vals × State) :=
  let o := opndOfInstr i
  if s.here.live && guardOk s.here o.g o.gn &&
      (s.here.paired || !(fields (descOf i) o).any (s.badSource s.cur.1 s.cur.2)) then
    match front s s.cur.1 s.cur.2 (descOf i) o (firstWord i) (discards i) with
    | .go v r => some (v, r.advance s.cur.1 s.cur.2 (lengthOf i))
    | _ => none
  else none

/-- The operand values and the state with which it issues. -/
def vOf (i : Instr) (s : State) : Vals := ((issued i s).map (·.1)).getD {}
def tOf (i : Instr) (s : State) : State := ((issued i s).map (·.2)).getD s

theorem issues_of {i : Instr} {s : State} (h : (issued i s).isSome = true) : Issues i s (vOf i s) (tOf i s) := by
  obtain ⟨⟨v, t⟩, hx⟩ := Option.isSome_iff_exists.mp h
  have hv : vOf i s = v := by simp [vOf, hx]
  have ht : tOf i s = t := by simp [tOf, hx]
  rw [hv, ht]
  unfold issued at hx
  dsimp only at hx
  split at hx
  case isFalse => simp at hx
  case isTrue hc =>
    simp only [Bool.and_eq_true, Bool.or_eq_true, Bool.not_eq_true'] at hc
    obtain ⟨⟨h1, h2⟩, h4⟩ := hc
    split at hx
    · rename_i v' r hf
      simp only [Option.some.injEq, Prod.mk.injEq] at hx
      obtain ⟨rfl, rfl⟩ := hx
      exact ⟨h1, h2, ⟨r, hf, rfl⟩, h4⟩
    · simp at hx

/-- The next state; the state itself where there is none. -/
def after (i : Instr) (s : State) : State :=
  match exec i s with
  | .next u => u
  | _ => s

theorem next_after {i : Instr} {s : State}
    (h : (match exec i s with | .next _ => true | _ => false) = true) : exec i s = .next (after i s) := by
  unfold after
  split at h
  · rename_i u hu; rw [hu]
  · simp at h

/-- A register takes any value. -/
theorem takes_reg {x : Ctx} {w : Word} {t : State} (h : x.o.d.toNat < 128) : TakesD x w t :=
  fun h' _ => absurd h (by omega)

theorem alone_of {s : State} (h : s.here.paired = false) : Alone s := h

/-- Nothing in flight and an empty sequencer. -/
theorem quiet_of {s : State} (h : s.own s.cur.1 s.cur.2 = [] ∧ s.here.acqs = [] ∧ s.here.rels = [])
    (hj : (s.core s.cur.1).seq = []) : Quiet s :=
  ⟨h.1, h.2.1, h.2.2, by funext n; simp [State.jobsIn, hj]⟩

/-- The same in one decision. -/
def calm (s : State) : Bool := decide ((s.own s.cur.1 s.cur.2 = [] ∧ s.here.acqs = [] ∧ s.here.rels = []) ∧ (s.core s.cur.1).seq = [])

theorem calm_of {s : State} (h : calm s = true) : Quiet s := by
  simp only [calm, decide_eq_true_eq] at h
  exact quiet_of h.1 h.2

/-- The conditions of `cmp`, decided. -/
theorem cmpCond_iff {c : Nat} {A B : Int} {a b : Nat} : cmpCond c A B a b ↔ (match c with
    | 0 => decide (A = B)
    | 1 => decide (A ≠ B)
    | 2 => decide (A < B)
    | 3 => decide (A ≥ B)
    | 4 => decide (A ≤ B)
    | 5 => decide (A > B)
    | 6 => decide (a &&& b ≠ 0)
    | 7 => decide (a &&& b = 0)
    | _ => false) = true := by
  unfold cmpCond; split <;> simp

/-- The value of register `n` of the current slot after an instruction. -/
def reg (i : Instr) (s : State) (n : Nat) : Nat := (((after i s).core s.cur.1).entry (s.here.sbase + n)).val.toNat

end Sys2Proof.Tests
end

