-- ==== Sys2Proof/Tests/Slice0.lean ====
section
/-! SUPPORT. Tests: words that the spec writes out or that are built from its encoding tables, bit by bit; terms that
stand for no instruction and no event; and results of single instructions, their expected values computed by hand from
the rules named. -/

set_option Elab.async false

open Sys2Proof Sys2Proof.Machine Sys2Proof.Tests

/-! ### The words that the spec prints with what they stand for -/

/-- 03, the examples after R60; 04, the examples after R73, R77 and R91. -/
theorem test_decode_printed_words :
    decodeTableWord 32 0x00142360 = some (.addi ⟨0, false, 3, 1, 5, 0⟩) ∧
    decodeTableWord 96 0x000000050000000000040C03 = some (.add (op 3 1 0 0 0 (some 5))) ∧
    decodeTableWord 64 0x000000000804A001 = some (.add (op 40 1 2 0)) ∧
    decodeTableWord 64 0x00000002401E0801 = some (.add (op 130 7 144 0)) ∧
    decodeTableWord 32 0x00008964 = some (.ldDCompact ⟨0, false, 9, 4, 0, 0⟩) ∧
    decodeTableWord 64 0x000C00024410A101 = some (.ld (op 40 4 145 0 3)) ∧
    decodeTableWord 32 0x0007C768 = some (.stDCompact ⟨0, false, 7, 30, 1, 0⟩) ∧
    decodeTableWord 64 0x001A080018102501 = some (.ld ⟨2, false, 9, 4, 6, 0, false, false, false, true, 6, none⟩) ∧
    decodeTableWord 64 0x0018000019140DC1 = some (.vadd (op 3 69 6 0 6)) ∧
    decodeTableWord 32 0xF0FC006C = some (.brCompact ⟨1, false, 0, 0, 31, 30⟩) ∧
    decodeTableWord 64 0x40180000001400F1 = some (.timerArm (op 0 5 0 0 0x1006)) ∧
    decodeTableWord 64 0x00880000000000F9 = some (.fence (op 0 0 0 0 0x22)) ∧
    decodeTableWord 32 0x40148258 = some (.cmpCompact ⟨0, false, 2, 4, 5, 8⟩) ∧
    decodeTableWord 64 0x00C0000008040C55 = some (.sel (op 3 1 2 0 48)) ∧
    decodeTableWord 64 0x100800001000144D = some (.bfx (op 5 0 4 0 0x402)) := by decide +kernel

/-- The examples of 05, 07, 09, 10 and 11. -/
theorem test_decode_printed_unit_words :
    decodeTableWord 96 0x000000080D6E001400100113 = some (.amon ⟨0, false, 0, 4, 0, 5, false, false, false, true, 0x35B, some 8⟩) ∧
    decodeTableWord 64 0x0008001644101D0D = some (.cas (op 7 4 145 5 2)) ∧
    decodeTableWord 64 0x000400201C100185 = some (.sendAm (op 0 4 7 8 1)) ∧
    decodeTableWord 64 0x008C000000000989 = some (.semTry (op 2 0 0 0 0x23)) ∧
    decodeTableWord 64 0x0114001E44180601 = some (.vld (op 1 6 145 7 0x45)) ∧
    decodeTableWord 64 0x0018000E44101605 = some (.vst (op 5 4 145 3 6)) ∧
    decodeTableWord 96 0x3F80000000180000000C122B = some (.vquant (op 4 3 0 0 6 (some 0x3F800000))) ∧
    decodeTableWord 96 0xFFFFFFC40000000000000A8F = some (.tanch (op 2 0 0 0 0 (some 0xFFFFFFC4))) ∧
    decodeTableWord 64 0x000C00000C080691 = some (.tmma (op 1 2 3 0 3)) ∧
    decodeTableWord 64 0x00A0000000041295 = some (.tcvtTile (op 4 1 0 0 0x28)) ∧
    decodeTableWord 96 0x00004000000C000000100163 = some (.go (op 0 4 0 0 3 (some 0x4000))) ∧
    decodeTableWord 64 0x0000000000040965 = some (.spawn (op 2 1 0 0)) := by decide +kernel

theorem test_decode_integer_words :
    decode (0b000101#6 ++ 0x03#8 ++ 0x04#8 ++ 0x00#8 ++ 0b01#2) (0b00000000000000#14 ++ 0b0001#4 ++ 0b0000#4 ++ 0x00#8 ++ 0b00#2) 0 =
      .ok (.add ⟨0, false, 4, 3, 5, 0, true, false, false, false, 0x0, none⟩) 8 ∧
    decode (0b000011#6 ++ 0x90#8 ++ 0x92#8 ++ 0x01#8 ++ 0b01#2) (0b00000000000001#14 ++ 0b0010#4 ++ 0b1010#4 ++ 0x00#8 ++ 0b01#2) 0 =
      .ok (.sub ⟨2, true, 146, 144, 67, 0, false, true, false, false, 0x1, none⟩) 8 ∧
    decode (0b000000#6 ++ 0x08#8 ++ 0x07#8 ++ 0x02#8 ++ 0b11#2) (0b00000000000001#14 ++ 0b0000#4 ++ 0b0101#4 ++ 0x00#8 ++ 0b00#2) 0x80000001 =
      .ok (.mul ⟨5, false, 7, 8, 0, 0, false, false, false, false, 0x1, some 0x80000001⟩) 12 ∧
    decode (0b000011#6 ++ 0x02#8 ++ 0x01#8 ++ 0x03#8 ++ 0b01#2) (0b00000000000011#14 ++ 0b0000#4 ++ 0b0000#4 ++ 0x00#8 ++ 0b00#2) 0 =
      .ok (.mulh ⟨0, false, 1, 2, 3, 0, false, false, false, false, 0x3, none⟩) 8 ∧
    decode (0b001011#6 ++ 0x0A#8 ++ 0x09#8 ++ 0x04#8 ++ 0b01#2) (0b00000000000010#14 ++ 0b0000#4 ++ 0b0000#4 ++ 0x00#8 ++ 0b00#2) 0 =
      .ok (.div ⟨0, false, 9, 10, 11, 0, false, false, false, false, 0x2, none⟩) 8 ∧
    decode (0b001011#6 ++ 0x0A#8 ++ 0x09#8 ++ 0x05#8 ++ 0b01#2) (0b00000000000001#14 ++ 0b0000#4 ++ 0b0000#4 ++ 0x00#8 ++ 0b00#2) 0 =
      .ok (.rem ⟨0, false, 9, 10, 11, 0, false, false, false, false, 0x1, none⟩) 8 ∧
    decode (0b010001#6 ++ 0x0D#8 ++ 0x0C#8 ++ 0x06#8 ++ 0b01#2) (0b00000000000000#14 ++ 0b0000#4 ++ 0b0000#4 ++ 0x00#8 ++ 0b10#2) 0 =
      .ok (.and ⟨0, false, 12, 13, 145, 0, false, false, false, false, 0x0, none⟩) 8 ∧
    decode (0b001110#6 ++ 0x0D#8 ++ 0x0C#8 ++ 0x07#8 ++ 0b01#2) (0b00000000000001#14 ++ 0b0000#4 ++ 0b0000#4 ++ 0x00#8 ++ 0b00#2) 0 =
      .ok (.or ⟨0, false, 12, 13, 14, 0, false, false, false, false, 0x1, none⟩) 8 ∧
    decode (0b000010#6 ++ 0x01#8 ++ 0x01#8 ++ 0x08#8 ++ 0b01#2) (0b00000000000000#14 ++ 0b0000#4 ++ 0b0000#4 ++ 0x00#8 ++ 0b00#2) 0 =
      .ok (.xor ⟨0, false, 1, 1, 2, 0, false, false, false, false, 0x0, none⟩) 8 ∧
    decode (0b000010#6 ++ 0x06#8 ++ 0x01#8 ++ 0x09#8 ++ 0b01#2) (0b00000000000000#14 ++ 0b0000#4 ++ 0b0000#4 ++ 0x00#8 ++ 0b00#2) 0 =
      .ok (.andn ⟨0, false, 1, 6, 2, 0, false, false, false, false, 0x0, none⟩) 8 ∧
    decode (0b000000#6 ++ 0x04#8 ++ 0x03#8 ++ 0x0A#8 ++ 0b11#2) (0b00000000000000#14 ++ 0b0000#4 ++ 0b0000#4 ++ 0x00#8 ++ 0b00#2) 0x0000003F =
      .ok (.shl ⟨0, false, 3, 4, 0, 0, false, false, false, false, 0x0, some 0x0000003F⟩) 12 ∧
    decode (0b000101#6 ++ 0x04#8 ++ 0x03#8 ++ 0x0B#8 ++ 0b01#2) (0b00000000000001#14 ++ 0b0000#4 ++ 0b0000#4 ++ 0x00#8 ++ 0b00#2) 0 =
      .ok (.shr ⟨0, false, 3, 4, 5, 0, false, false, false, false, 0x1, none⟩) 8 ∧
    decode (0b000101#6 ++ 0x04#8 ++ 0x03#8 ++ 0x0C#8 ++ 0b01#2) (0b00000000000000#14 ++ 0b0000#4 ++ 0b0000#4 ++ 0x00#8 ++ 0b00#2) 0 =
      .ok (.sra ⟨0, false, 3, 4, 5, 0, false, false, false, false, 0x0, none⟩) 8 ∧
    decode (0b000101#6 ++ 0x04#8 ++ 0x03#8 ++ 0x0D#8 ++ 0b01#2) (0b00000000000000#14 ++ 0b0011#4 ++ 0b0000#4 ++ 0x00#8 ++ 0b00#2) 0 =
      .ok (.rot ⟨0, false, 3, 4, 5, 0, true, true, false, false, 0x0, none⟩) 8 ∧
    decode (0b000101#6 ++ 0x04#8 ++ 0x03#8 ++ 0x0E#8 ++ 0b01#2) (0b00000000000010#14 ++ 0b0000#4 ++ 0b0000#4 ++ 0x00#8 ++ 0b00#2) 0 =
      .ok (.min ⟨0, false, 3, 4, 5, 0, false, false, false, false, 0x2, none⟩) 8 ∧
    decode (0b000101#6 ++ 0x04#8 ++ 0x03#8 ++ 0x0F#8 ++ 0b01#2) (0b00000000000011#14 ++ 0b0000#4 ++ 0b0000#4 ++ 0x00#8 ++ 0b00#2) 0 =
      .ok (.max ⟨0, false, 3, 4, 5, 0, false, false, false, false, 0x3, none⟩) 8 ∧
    decode (0b000000#6 ++ 0x04#8 ++ 0x03#8 ++ 0x10#8 ++ 0b01#2) (0b00000000000000#14 ++ 0b0000#4 ++ 0b0000#4 ++ 0x00#8 ++ 0b00#2) 0 =
      .ok (.clz ⟨0, false, 3, 4, 0, 0, false, false, false, false, 0x0, none⟩) 8 ∧
    decode (0b000000#6 ++ 0x04#8 ++ 0x03#8 ++ 0x11#8 ++ 0b01#2) (0b00000000000001#14 ++ 0b0000#4 ++ 0b0000#4 ++ 0x00#8 ++ 0b00#2) 0 =
      .ok (.ctz ⟨0, false, 3, 4, 0, 0, false, false, false, false, 0x1, none⟩) 8 ∧
    decode (0b000000#6 ++ 0x04#8 ++ 0x03#8 ++ 0x12#8 ++ 0b01#2) (0b00000000000000#14 ++ 0b0001#4 ++ 0b0000#4 ++ 0x00#8 ++ 0b00#2) 0 =
      .ok (.popc ⟨0, false, 3, 4, 0, 0, true, false, false, false, 0x0, none⟩) 8 ∧
    decode (0b000100#6 ++ 0x06#8 ++ 0x05#8 ++ 0x13#8 ++ 0b01#2) (0b00010000000010#14 ++ 0b0000#4 ++ 0b0000#4 ++ 0x00#8 ++ 0b00#2) 0 =
      .ok (.bfx ⟨0, false, 5, 6, 4, 0, false, false, false, false, 0x402, none⟩) 8 ∧
    decode (0b000100#6 ++ 0x06#8 ++ 0x05#8 ++ 0x14#8 ++ 0b01#2) (0b01000000000000#14 ++ 0b0100#4 ++ 0b0000#4 ++ 0x07#8 ++ 0b00#2) 0 =
      .ok (.bfi ⟨0, false, 5, 6, 4, 7, false, false, true, false, 0x1000, none⟩) 8 ∧
    decode (0b000010#6 ++ 0x01#8 ++ 0x03#8 ++ 0x15#8 ++ 0b01#2) (0b00000000110000#14 ++ 0b0000#4 ++ 0b0000#4 ++ 0x00#8 ++ 0b00#2) 0 =
      .ok (.sel ⟨0, false, 3, 1, 2, 0, false, false, false, false, 0x30, none⟩) 8 ∧
    decode (0b000101#6 ++ 0x04#8 ++ 0x02#8 ++ 0x16#8 ++ 0b01#2) (0b00000000001011#14 ++ 0b0000#4 ++ 0b0000#4 ++ 0x00#8 ++ 0b00#2) 0 =
      .ok (.cmp ⟨0, false, 2, 4, 5, 0, false, false, false, false, 0xB, none⟩) 8 ∧
    decode (0b000000#6 ++ 0x00#8 ++ 0x06#8 ++ 0x17#8 ++ 0b01#2) (0b00000000000000#14 ++ 0b0010#4 ++ 0b0000#4 ++ 0x00#8 ++ 0b10#2) 0 =
      .ok (.mov ⟨0, false, 6, 0, 128, 0, false, true, false, false, 0x0, none⟩) 8 ∧
    decode (0b001000#6 ++ 0x07#8 ++ 0x06#8 ++ 0x18#8 ++ 0b01#2) (0b00000111000000#14 ++ 0b0000#4 ++ 0b0000#4 ++ 0x00#8 ++ 0b00#2) 0 =
      .ok (.lea ⟨0, false, 6, 7, 8, 0, false, false, false, false, 0x1C0, none⟩) 8 ∧
    decode (0b000000#6 ++ 0x07#8 ++ 0x06#8 ++ 0x19#8 ++ 0b01#2) (0b00000000001010#14 ++ 0b0000#4 ++ 0b0000#4 ++ 0x00#8 ++ 0b00#2) 0 =
      .ok (.ext ⟨0, false, 6, 7, 0, 0, false, false, false, false, 0xA, none⟩) 8 ∧
    decode (0b001000#6 ++ 0x07#8 ++ 0x06#8 ++ 0x1A#8 ++ 0b01#2) (0b00000000000010#14 ++ 0b0000#4 ++ 0b0000#4 ++ 0x00#8 ++ 0b00#2) 0 =
      .ok (.adds ⟨0, false, 6, 7, 8, 0, false, false, false, false, 0x2, none⟩) 8 ∧
    decode (0b001000#6 ++ 0x07#8 ++ 0x06#8 ++ 0x1B#8 ++ 0b01#2) (0b00000000000001#14 ++ 0b0111#4 ++ 0b0000#4 ++ 0x09#8 ++ 0b00#2) 0 =
      .ok (.madd ⟨0, false, 6, 7, 8, 9, true, true, true, false, 0x1, none⟩) 8 := by decide +kernel

theorem test_decode_float_words :
    decode (0b000011#6 ++ 0x02#8 ++ 0x01#8 ++ 0x20#8 ++ 0b01#2) (0b00000000000001#14 ++ 0b0000#4 ++ 0b0000#4 ++ 0x00#8 ++ 0b00#2) 0 =
      .ok (.fadd ⟨0, false, 1, 2, 3, 0, false, false, false, false, 0x1, none⟩) 8 ∧
    decode (0b000011#6 ++ 0x02#8 ++ 0x01#8 ++ 0x21#8 ++ 0b01#2) (0b00000000000100#14 ++ 0b0000#4 ++ 0b0000#4 ++ 0x00#8 ++ 0b00#2) 0 =
      .ok (.fsub ⟨0, false, 1, 2, 3, 0, false, false, false, false, 0x4, none⟩) 8 ∧
    decode (0b000000#6 ++ 0x02#8 ++ 0x01#8 ++ 0x22#8 ++ 0b11#2) (0b00000000010010#14 ++ 0b0000#4 ++ 0b0000#4 ++ 0x00#8 ++ 0b00#2) 0x00003C00 =
      .ok (.fmul ⟨0, false, 1, 2, 0, 0, false, false, false, false, 0x12, some 0x00003C00⟩) 12 ∧
    decode (0b000011#6 ++ 0x02#8 ++ 0x01#8 ++ 0x23#8 ++ 0b01#2) (0b00000001101001#14 ++ 0b0000#4 ++ 0b0000#4 ++ 0x04#8 ++ 0b00#2) 0 =
      .ok (.fma ⟨0, false, 1, 2, 3, 4, false, false, false, false, 0x69, none⟩) 8 ∧
    decode (0b000011#6 ++ 0x02#8 ++ 0x01#8 ++ 0x24#8 ++ 0b01#2) (0b00000000000011#14 ++ 0b0000#4 ++ 0b0000#4 ++ 0x00#8 ++ 0b00#2) 0 =
      .ok (.fmin ⟨0, false, 1, 2, 3, 0, false, false, false, false, 0x3, none⟩) 8 ∧
    decode (0b000011#6 ++ 0x02#8 ++ 0x01#8 ++ 0x25#8 ++ 0b01#2) (0b00000000000000#14 ++ 0b0000#4 ++ 0b0000#4 ++ 0x00#8 ++ 0b00#2) 0 =
      .ok (.fmax ⟨0, false, 1, 2, 3, 0, false, false, false, false, 0x0, none⟩) 8 ∧
    decode (0b000011#6 ++ 0x02#8 ++ 0x01#8 ++ 0x26#8 ++ 0b01#2) (0b00001010000001#14 ++ 0b0000#4 ++ 0b0000#4 ++ 0x00#8 ++ 0b00#2) 0 =
      .ok (.fcmp ⟨0, false, 1, 2, 3, 0, false, false, false, false, 0x281, none⟩) 8 ∧
    decode (0b000000#6 ++ 0x02#8 ++ 0x01#8 ++ 0x27#8 ++ 0b01#2) (0b00011100001101#14 ++ 0b0000#4 ++ 0b0000#4 ++ 0x00#8 ++ 0b00#2) 0 =
      .ok (.fcvt ⟨0, false, 1, 2, 0, 0, false, false, false, false, 0x70D, none⟩) 8 ∧
    decode (0b000000#6 ++ 0x02#8 ++ 0x01#8 ++ 0x28#8 ++ 0b01#2) (0b00000000000001#14 ++ 0b0000#4 ++ 0b0000#4 ++ 0x00#8 ++ 0b00#2) 0 =
      .ok (.frcp ⟨0, false, 1, 2, 0, 0, false, false, false, false, 0x1, none⟩) 8 ∧
    decode (0b000000#6 ++ 0x02#8 ++ 0x01#8 ++ 0x29#8 ++ 0b01#2) (0b00000000000010#14 ++ 0b0000#4 ++ 0b0000#4 ++ 0x00#8 ++ 0b00#2) 0 =
      .ok (.frsq ⟨0, false, 1, 2, 0, 0, false, false, false, false, 0x2, none⟩) 8 ∧
    decode (0b000011#6 ++ 0x02#8 ++ 0x01#8 ++ 0x2A#8 ++ 0b01#2) (0b00000000001000#14 ++ 0b0000#4 ++ 0b0000#4 ++ 0x00#8 ++ 0b00#2) 0 =
      .ok (.frcpr ⟨0, false, 1, 2, 3, 0, false, false, false, false, 0x8, none⟩) 8 ∧
    decode (0b000011#6 ++ 0x02#8 ++ 0x01#8 ++ 0x2B#8 ++ 0b01#2) (0b00000000001100#14 ++ 0b0000#4 ++ 0b0000#4 ++ 0x00#8 ++ 0b00#2) 0 =
      .ok (.frsqr ⟨0, false, 1, 2, 3, 0, false, false, false, false, 0xC, none⟩) 8 ∧
    decode (0b000000#6 ++ 0x02#8 ++ 0x01#8 ++ 0x2C#8 ++ 0b01#2) (0b00000110000001#14 ++ 0b0000#4 ++ 0b0000#4 ++ 0x00#8 ++ 0b00#2) 0 =
      .ok (.fsfn ⟨0, false, 1, 2, 0, 0, false, false, false, false, 0x181, none⟩) 8 ∧
    decode (0b000000#6 ++ 0x02#8 ++ 0x01#8 ++ 0x2D#8 ++ 0b01#2) (0b00000000000000#14 ++ 0b0000#4 ++ 0b0000#4 ++ 0x00#8 ++ 0b00#2) 0 =
      .ok (.fclass ⟨0, false, 1, 2, 0, 0, false, false, false, false, 0x0, none⟩) 8 ∧
    decode (0b000011#6 ++ 0x02#8 ++ 0x01#8 ++ 0x2E#8 ++ 0b01#2) (0b00000100000010#14 ++ 0b0000#4 ++ 0b0000#4 ++ 0x00#8 ++ 0b00#2) 0 =
      .ok (.fsgn ⟨0, false, 1, 2, 3, 0, false, false, false, false, 0x102, none⟩) 8 := by decide +kernel

theorem test_decode_control_words :
    decode (0b000000#6 ++ 0x00#8 ++ 0x00#8 ++ 0x30#8 ++ 0b01#2) (0b11111111111111#14 ++ 0b0000#4 ++ 0b0000#4 ++ 0x00#8 ++ 0b00#2) 0 =
      .ok (.br ⟨0, false, 0, 0, 0, 0, false, false, false, false, 0x3FFF, none⟩) 8 ∧
    decode (0b010001#6 ++ 0x04#8 ++ 0x00#8 ++ 0x31#8 ++ 0b01#2) (0b00000000000000#14 ++ 0b0000#4 ++ 0b0000#4 ++ 0x00#8 ++ 0b10#2) 0 =
      .ok (.jmp ⟨0, false, 0, 4, 145, 0, false, false, false, false, 0x0, none⟩) 8 ∧
    decode (0b000000#6 ++ 0x00#8 ++ 0x1E#8 ++ 0x32#8 ++ 0b11#2) (0b00000000000000#14 ++ 0b0000#4 ++ 0b0000#4 ++ 0x00#8 ++ 0b00#2) 0xFFFFFFFE =
      .ok (.call ⟨0, false, 30, 0, 0, 0, false, false, false, false, 0x0, some 0xFFFFFFFE⟩) 12 ∧
    decode (0b000000#6 ++ 0x04#8 ++ 0x1E#8 ++ 0x33#8 ++ 0b11#2) (0b00000000000000#14 ++ 0b0000#4 ++ 0b0000#4 ++ 0x00#8 ++ 0b00#2) 0x00000008 =
      .ok (.callr ⟨0, false, 30, 4, 0, 0, false, false, false, false, 0x0, some 0x00000008⟩) 12 ∧
    decode (0b000000#6 ++ 0x06#8 ++ 0x05#8 ++ 0x34#8 ++ 0b01#2) (0b00000000010000#14 ++ 0b0000#4 ++ 0b0000#4 ++ 0x00#8 ++ 0b00#2) 0 =
      .ok (.loop ⟨0, false, 5, 6, 0, 0, false, false, false, false, 0x10, none⟩) 8 ∧
    decode (0b000000#6 ++ 0x04#8 ++ 0x00#8 ++ 0x35#8 ++ 0b01#2) (0b00000000000000#14 ++ 0b0000#4 ++ 0b0000#4 ++ 0x00#8 ++ 0b00#2) 0 =
      .ok (.exit ⟨0, false, 0, 4, 0, 0, false, false, false, false, 0x0, none⟩) 8 ∧
    decode (0b000000#6 ++ 0x00#8 ++ 0x00#8 ++ 0x36#8 ++ 0b01#2) (0b00000100100011#14 ++ 0b0000#4 ++ 0b0000#4 ++ 0x00#8 ++ 0b00#2) 0 =
      .ok (.trap ⟨0, false, 0, 0, 0, 0, false, false, false, false, 0x123, none⟩) 8 ∧
    decode (0b000000#6 ++ 0x00#8 ++ 0x00#8 ++ 0x37#8 ++ 0b01#2) (0b00000000000000#14 ++ 0b0000#4 ++ 0b1111#4 ++ 0x00#8 ++ 0b00#2) 0 =
      .ok (.nop ⟨7, true, 0, 0, 0, 0, false, false, false, false, 0x0, none⟩) 8 ∧
    decode (0b000011#6 ++ 0x02#8 ++ 0x01#8 ++ 0x38#8 ++ 0b01#2) (0b00000000001000#14 ++ 0b0000#4 ++ 0b0000#4 ++ 0x00#8 ++ 0b00#2) 0 =
      .ok (.plog ⟨0, false, 1, 2, 3, 0, false, false, false, false, 0x8, none⟩) 8 ∧
    decode (0b000000#6 ++ 0x00#8 ++ 0x04#8 ++ 0x39#8 ++ 0b01#2) (0b00000000000000#14 ++ 0b0000#4 ++ 0b0000#4 ++ 0x00#8 ++ 0b00#2) 0 =
      .ok (.pmovReadWord ⟨0, false, 4, 0, 0, 0, false, false, false, false, 0x0, none⟩) 8 ∧
    decode (0b000000#6 ++ 0x04#8 ++ 0x00#8 ++ 0x39#8 ++ 0b01#2) (0b00000000000001#14 ++ 0b0000#4 ++ 0b0000#4 ++ 0x00#8 ++ 0b00#2) 0 =
      .ok (.pmovWriteWord ⟨0, false, 0, 4, 0, 0, false, false, false, false, 0x1, none⟩) 8 ∧
    decode (0b000000#6 ++ 0x07#8 ++ 0x04#8 ++ 0x39#8 ++ 0b01#2) (0b00000000000010#14 ++ 0b0000#4 ++ 0b0000#4 ++ 0x00#8 ++ 0b00#2) 0 =
      .ok (.pmovReadPred ⟨0, false, 4, 7, 0, 0, false, false, false, false, 0x2, none⟩) 8 ∧
    decode (0b000000#6 ++ 0x04#8 ++ 0x07#8 ++ 0x39#8 ++ 0b01#2) (0b00000000000011#14 ++ 0b0000#4 ++ 0b0000#4 ++ 0x00#8 ++ 0b00#2) 0 =
      .ok (.pmovWritePred ⟨0, false, 7, 4, 0, 0, false, false, false, false, 0x3, none⟩) 8 ∧
    decode (0b000000#6 ++ 0x00#8 ++ 0x11#8 ++ 0x3A#8 ++ 0b01#2) (0b00000000000001#14 ++ 0b0000#4 ++ 0b0000#4 ++ 0x00#8 ++ 0b00#2) 0 =
      .ok (.empty ⟨0, false, 17, 0, 0, 0, false, false, false, false, 0x1, none⟩) 8 ∧
    decode (0b000000#6 ++ 0x82#8 ++ 0x01#8 ++ 0x3B#8 ++ 0b01#2) (0b00000000000010#14 ++ 0b0000#4 ++ 0b0000#4 ++ 0x00#8 ++ 0b00#2) 0 =
      .ok (.fetest ⟨0, false, 1, 130, 0, 0, false, false, false, false, 0x2, none⟩) 8 ∧
    decode (0b000000#6 ++ 0x00#8 ++ 0x04#8 ++ 0x3C#8 ++ 0b01#2) (0b00000000001011#14 ++ 0b0000#4 ++ 0b0000#4 ++ 0x00#8 ++ 0b00#2) 0 =
      .ok (.ctlRead ⟨0, false, 4, 0, 0, 0, false, false, false, false, 0xB, none⟩) 8 ∧
    decode (0b000000#6 ++ 0x04#8 ++ 0x00#8 ++ 0x3C#8 ++ 0b01#2) (0b01000000000110#14 ++ 0b0000#4 ++ 0b0000#4 ++ 0x00#8 ++ 0b00#2) 0 =
      .ok (.timerArm ⟨0, false, 0, 4, 0, 0, false, false, false, false, 0x1006, none⟩) 8 ∧
    decode (0b000000#6 ++ 0x04#8 ++ 0x00#8 ++ 0x3C#8 ++ 0b01#2) (0b01000000001010#14 ++ 0b0000#4 ++ 0b0000#4 ++ 0x00#8 ++ 0b00#2) 0 =
      .ok (.modeWrite ⟨0, false, 0, 4, 0, 0, false, false, false, false, 0x100A, none⟩) 8 ∧
    decode (0b000000#6 ++ 0x04#8 ++ 0x00#8 ++ 0x3C#8 ++ 0b01#2) (0b01000000000111#14 ++ 0b0000#4 ++ 0b0000#4 ++ 0x00#8 ++ 0b00#2) 0 =
      .ok (.vshapeWrite ⟨0, false, 0, 4, 0, 0, false, false, false, false, 0x1007, none⟩) 8 ∧
    decode (0b000000#6 ++ 0x04#8 ++ 0x00#8 ++ 0x3C#8 ++ 0b01#2) (0b01000100010010#14 ++ 0b0000#4 ++ 0b0000#4 ++ 0x00#8 ++ 0b00#2) 0 =
      .ok (.runqFlush ⟨0, false, 0, 4, 0, 0, false, false, false, false, 0x1112, none⟩) 8 ∧
    decode (0b000000#6 ++ 0x04#8 ++ 0x00#8 ++ 0x3C#8 ++ 0b01#2) (0b01000100010011#14 ++ 0b0000#4 ++ 0b0000#4 ++ 0x00#8 ++ 0b00#2) 0 =
      .ok (.semcfgWrite ⟨0, false, 0, 4, 0, 0, false, false, false, false, 0x1113, none⟩) 8 ∧
    decode (0b000000#6 ++ 0x04#8 ++ 0x00#8 ++ 0x3C#8 ++ 0b01#2) (0b01000100010001#14 ++ 0b0000#4 ++ 0b0000#4 ++ 0x00#8 ++ 0b00#2) 0 =
      .ok (.traceWrite ⟨0, false, 0, 4, 0, 0, false, false, false, false, 0x1111, none⟩) 8 ∧
    decode (0b000000#6 ++ 0x04#8 ++ 0x00#8 ++ 0x3C#8 ++ 0b01#2) (0b01000100010000#14 ++ 0b0000#4 ++ 0b0000#4 ++ 0x00#8 ++ 0b00#2) 0 =
      .ok (.qflagsClear ⟨0, false, 0, 4, 0, 0, false, false, false, false, 0x1110, none⟩) 8 ∧
    decode (0b000000#6 ++ 0x04#8 ++ 0x00#8 ++ 0x3C#8 ++ 0b01#2) (0b01000000000010#14 ++ 0b0000#4 ++ 0b0000#4 ++ 0x00#8 ++ 0b00#2) 0 =
      .ok (.ctlWrite ⟨0, false, 0, 4, 0, 0, false, false, false, false, 0x1002, none⟩) 8 ∧
    decode (0b000000#6 ++ 0x04#8 ++ 0x00#8 ++ 0x3C#8 ++ 0b01#2) (0b01000100001111#14 ++ 0b0000#4 ++ 0b0000#4 ++ 0x00#8 ++ 0b00#2) 0 =
      .ok (.tcfgWrite ⟨0, false, 0, 4, 0, 0, false, false, false, false, 0x110F, none⟩) 8 ∧
    decode (0b000000#6 ++ 0x00#8 ++ 0x00#8 ++ 0x3D#8 ++ 0b01#2) (0b00000000000000#14 ++ 0b0000#4 ++ 0b0000#4 ++ 0x00#8 ++ 0b00#2) 0 =
      .ok (.eret ⟨0, false, 0, 0, 0, 0, false, false, false, false, 0x0, none⟩) 8 ∧
    decode (0b000000#6 ++ 0x00#8 ++ 0x00#8 ++ 0x3E#8 ++ 0b01#2) (0b00000001110010#14 ++ 0b0000#4 ++ 0b0000#4 ++ 0x00#8 ++ 0b00#2) 0 =
      .ok (.fence ⟨0, false, 0, 0, 0, 0, false, false, false, false, 0x72, none⟩) 8 ∧
    decode (0b000000#6 ++ 0x00#8 ++ 0x00#8 ++ 0x3F#8 ++ 0b01#2) (0b00000000000000#14 ++ 0b0000#4 ++ 0b0000#4 ++ 0x00#8 ++ 0b00#2) 0 =
      .ok (.beat ⟨0, false, 0, 0, 0, 0, false, false, false, false, 0x0, none⟩) 8 := by decide +kernel

theorem test_decode_memory_words :
    decode (0b000110#6 ++ 0x05#8 ++ 0x04#8 ++ 0x40#8 ++ 0b01#2) (0b00000001101111#14 ++ 0b1000#4 ++ 0b0000#4 ++ 0x00#8 ++ 0b00#2) 0 =
      .ok (.ld ⟨0, false, 4, 5, 6, 0, false, false, false, true, 0x6F, none⟩) 8 ∧
    decode (0b000110#6 ++ 0x05#8 ++ 0x00#8 ++ 0x41#8 ++ 0b01#2) (0b00000000000010#14 ++ 0b0000#4 ++ 0b0000#4 ++ 0x07#8 ++ 0b00#2) 0 =
      .ok (.st ⟨0, false, 0, 5, 6, 7, false, false, false, false, 0x2, none⟩) 8 ∧
    decode (0b000110#6 ++ 0x05#8 ++ 0x04#8 ++ 0x42#8 ++ 0b01#2) (0b10010001111111#14 ++ 0b0000#4 ++ 0b0000#4 ++ 0x07#8 ++ 0b00#2) 0 =
      .ok (.amo ⟨0, false, 4, 5, 6, 7, false, false, false, false, 0x247F, none⟩) 8 ∧
    decode (0b000110#6 ++ 0x05#8 ++ 0x04#8 ++ 0x43#8 ++ 0b01#2) (0b10000000111010#14 ++ 0b0100#4 ++ 0b0000#4 ++ 0x07#8 ++ 0b00#2) 0 =
      .ok (.cas ⟨0, false, 4, 5, 6, 7, false, false, true, false, 0x203A, none⟩) 8 ∧
    decode (0b000000#6 ++ 0x05#8 ++ 0x00#8 ++ 0x44#8 ++ 0b11#2) (0b00010010000010#14 ++ 0b1000#4 ++ 0b0000#4 ++ 0x07#8 ++ 0b00#2) 0x00000010 =
      .ok (.amon ⟨0, false, 0, 5, 0, 7, false, false, false, true, 0x482, some 0x00000010⟩) 12 ∧
    decode (0b000000#6 ++ 0x00#8 ++ 0x04#8 ++ 0x50#8 ++ 0b01#2) (0b00000000000010#14 ++ 0b0000#4 ++ 0b0000#4 ++ 0x07#8 ++ 0b00#2) 0 =
      .ok (.claim ⟨0, false, 4, 0, 0, 7, false, false, false, false, 0x2, none⟩) 8 ∧
    decode (0b000110#6 ++ 0x05#8 ++ 0x00#8 ++ 0x51#8 ++ 0b01#2) (0b00000000000000#14 ++ 0b1000#4 ++ 0b0000#4 ++ 0x00#8 ++ 0b00#2) 0 =
      .ok (.dlv ⟨0, false, 0, 5, 6, 0, false, false, false, true, 0x0, none⟩) 8 ∧
    decode (0b000000#6 ++ 0x05#8 ++ 0x03#8 ++ 0x52#8 ++ 0b01#2) (0b00000000000000#14 ++ 0b0000#4 ++ 0b0000#4 ++ 0x00#8 ++ 0b00#2) 0 =
      .ok (.cdrop ⟨0, false, 3, 5, 0, 0, false, false, false, false, 0x0, none⟩) 8 ∧
    decode (0b000110#6 ++ 0x05#8 ++ 0x04#8 ++ 0x53#8 ++ 0b01#2) (0b00000000000011#14 ++ 0b1000#4 ++ 0b0000#4 ++ 0x07#8 ++ 0b00#2) 0 =
      .ok (.stt ⟨0, false, 4, 5, 6, 7, false, false, false, true, 0x3, none⟩) 8 ∧
    decode (0b000110#6 ++ 0x05#8 ++ 0x08#8 ++ 0x54#8 ++ 0b01#2) (0b00000010000010#14 ++ 0b0000#4 ++ 0b0000#4 ++ 0x07#8 ++ 0b00#2) 0 =
      .ok (.stw ⟨0, false, 8, 5, 6, 7, false, false, false, false, 0x82, none⟩) 8 ∧
    decode (0b000000#6 ++ 0x05#8 ++ 0x03#8 ++ 0x55#8 ++ 0b01#2) (0b00000000000000#14 ++ 0b0000#4 ++ 0b0000#4 ++ 0x00#8 ++ 0b00#2) 0 =
      .ok (.tokq ⟨0, false, 3, 5, 0, 0, false, false, false, false, 0x0, none⟩) 8 ∧
    decode (0b000110#6 ++ 0x05#8 ++ 0x00#8 ++ 0x58#8 ++ 0b01#2) (0b00000000000100#14 ++ 0b0000#4 ++ 0b0000#4 ++ 0x00#8 ++ 0b00#2) 0 =
      .ok (.go ⟨0, false, 0, 5, 6, 0, false, false, false, false, 0x4, none⟩) 8 ∧
    decode (0b000110#6 ++ 0x05#8 ++ 0x91#8 ++ 0x59#8 ++ 0b01#2) (0b00000000000000#14 ++ 0b0000#4 ++ 0b0000#4 ++ 0x00#8 ++ 0b00#2) 0 =
      .ok (.spawn ⟨0, false, 145, 5, 6, 0, false, false, false, false, 0x0, none⟩) 8 ∧
    decode (0b000110#6 ++ 0x00#8 ++ 0x04#8 ++ 0x5A#8 ++ 0b01#2) (0b00000000001000#14 ++ 0b0000#4 ++ 0b0000#4 ++ 0x00#8 ++ 0b00#2) 0 =
      .ok (.lvget ⟨0, false, 4, 0, 6, 0, false, false, false, false, 0x8, none⟩) 8 ∧
    decode (0b000000#6 ++ 0x05#8 ++ 0x00#8 ++ 0x5B#8 ++ 0b01#2) (0b00000000000000#14 ++ 0b0000#4 ++ 0b0000#4 ++ 0x00#8 ++ 0b00#2) 0 =
      .ok (.lvcommit ⟨0, false, 0, 5, 0, 0, false, false, false, false, 0x0, none⟩) 8 := by decide +kernel

theorem test_decode_messages_words :
    decode (0b000000#6 ++ 0x00#8 ++ 0x04#8 ++ 0x60#8 ++ 0b01#2) (0b00000000000000#14 ++ 0b0000#4 ++ 0b0000#4 ++ 0x00#8 ++ 0b00#2) 0 =
      .ok (.wmsg ⟨0, false, 4, 0, 0, 0, false, false, false, false, 0x0, none⟩) 8 ∧
    decode (0b000000#6 ++ 0x00#8 ++ 0x04#8 ++ 0x60#8 ++ 0b01#2) (0b00000000000001#14 ++ 0b0000#4 ++ 0b0000#4 ++ 0x00#8 ++ 0b00#2) 0 =
      .ok (.wmsgCount ⟨0, false, 4, 0, 0, 0, false, false, false, false, 0x1, none⟩) 8 ∧
    decode (0b000110#6 ++ 0x05#8 ++ 0x00#8 ++ 0x61#8 ++ 0b01#2) (0b00000000000000#14 ++ 0b0000#4 ++ 0b0000#4 ++ 0x00#8 ++ 0b00#2) 0 =
      .ok (.send ⟨0, false, 0, 5, 6, 0, false, false, false, false, 0x0, none⟩) 8 ∧
    decode (0b000110#6 ++ 0x05#8 ++ 0x00#8 ++ 0x61#8 ++ 0b01#2) (0b00000000000001#14 ++ 0b0000#4 ++ 0b0000#4 ++ 0x07#8 ++ 0b00#2) 0 =
      .ok (.sendAm ⟨0, false, 0, 5, 6, 7, false, false, false, false, 0x1, none⟩) 8 ∧
    decode (0b000000#6 ++ 0x00#8 ++ 0x00#8 ++ 0x62#8 ++ 0b01#2) (0b00000000001111#14 ++ 0b0000#4 ++ 0b0000#4 ++ 0x00#8 ++ 0b00#2) 0 =
      .ok (.semWait ⟨0, false, 0, 0, 0, 0, false, false, false, false, 0xF, none⟩) 8 ∧
    decode (0b000000#6 ++ 0x00#8 ++ 0x00#8 ++ 0x62#8 ++ 0b01#2) (0b00000000011110#14 ++ 0b0000#4 ++ 0b0000#4 ++ 0x00#8 ++ 0b00#2) 0 =
      .ok (.semPost ⟨0, false, 0, 0, 0, 0, false, false, false, false, 0x1E, none⟩) 8 ∧
    decode (0b000000#6 ++ 0x00#8 ++ 0x03#8 ++ 0x62#8 ++ 0b01#2) (0b00000000100001#14 ++ 0b0000#4 ++ 0b0000#4 ++ 0x00#8 ++ 0b00#2) 0 =
      .ok (.semTry ⟨0, false, 3, 0, 0, 0, false, false, false, false, 0x21, none⟩) 8 ∧
    decode (0b000110#6 ++ 0x05#8 ++ 0x00#8 ++ 0x63#8 ++ 0b01#2) (0b00000000000000#14 ++ 0b0000#4 ++ 0b0000#4 ++ 0x00#8 ++ 0b00#2) 0 =
      .ok (.kick ⟨0, false, 0, 5, 6, 0, false, false, false, false, 0x0, none⟩) 8 ∧
    decode (0b000000#6 ++ 0x05#8 ++ 0x04#8 ++ 0x68#8 ++ 0b01#2) (0b00000000000000#14 ++ 0b0000#4 ++ 0b0000#4 ++ 0x00#8 ++ 0b00#2) 0 =
      .ok (.hcopy ⟨0, false, 4, 5, 0, 0, false, false, false, false, 0x0, none⟩) 8 ∧
    decode (0b000110#6 ++ 0x05#8 ++ 0x04#8 ++ 0x69#8 ++ 0b01#2) (0b00000000000000#14 ++ 0b0000#4 ++ 0b0000#4 ++ 0x00#8 ++ 0b00#2) 0 =
      .ok (.hpull ⟨0, false, 4, 5, 6, 0, false, false, false, false, 0x0, none⟩) 8 ∧
    decode (0b000110#6 ++ 0x05#8 ++ 0x00#8 ++ 0x6A#8 ++ 0b01#2) (0b00000000000000#14 ++ 0b0000#4 ++ 0b0000#4 ++ 0x07#8 ++ 0b00#2) 0 =
      .ok (.hsub ⟨0, false, 0, 5, 6, 7, false, false, false, false, 0x0, none⟩) 8 ∧
    decode (0b000000#6 ++ 0x05#8 ++ 0x00#8 ++ 0x6A#8 ++ 0b01#2) (0b00000000000001#14 ++ 0b0000#4 ++ 0b0000#4 ++ 0x00#8 ++ 0b00#2) 0 =
      .ok (.hsubLeave ⟨0, false, 0, 5, 0, 0, false, false, false, false, 0x1, none⟩) 8 ∧
    decode (0b000110#6 ++ 0x05#8 ++ 0x8B#8 ++ 0x6B#8 ++ 0b01#2) (0b00000000000001#14 ++ 0b0000#4 ++ 0b0000#4 ++ 0x00#8 ++ 0b00#2) 0 =
      .ok (.hstream ⟨0, false, 139, 5, 6, 0, false, false, false, false, 0x1, none⟩) 8 := by decide +kernel

theorem test_decode_vector_words :
    decode (0b100011#6 ++ 0x02#8 ++ 0x01#8 ++ 0x70#8 ++ 0b01#2) (0b00000010000010#14 ++ 0b0000#4 ++ 0b0000#4 ++ 0x00#8 ++ 0b00#2) 0 =
      .ok (.vadd ⟨0, false, 1, 2, 35, 0, false, false, false, false, 0x82, none⟩) 8 ∧
    decode (0b000011#6 ++ 0x02#8 ++ 0x01#8 ++ 0x71#8 ++ 0b01#2) (0b00000000001110#14 ++ 0b0000#4 ++ 0b0000#4 ++ 0x00#8 ++ 0b00#2) 0 =
      .ok (.vsub ⟨0, false, 1, 2, 3, 0, false, false, false, false, 0xE, none⟩) 8 ∧
    decode (0b000011#6 ++ 0x02#8 ++ 0x01#8 ++ 0x72#8 ++ 0b01#2) (0b00000001000010#14 ++ 0b0000#4 ++ 0b0000#4 ++ 0x00#8 ++ 0b00#2) 0 =
      .ok (.vmul ⟨0, false, 1, 2, 3, 0, false, false, false, false, 0x42, none⟩) 8 ∧
    decode (0b000011#6 ++ 0x02#8 ++ 0x01#8 ++ 0x73#8 ++ 0b01#2) (0b00000011001110#14 ++ 0b0000#4 ++ 0b0000#4 ++ 0x04#8 ++ 0b00#2) 0 =
      .ok (.vfma ⟨0, false, 1, 2, 3, 4, false, false, false, false, 0xCE, none⟩) 8 ∧
    decode (0b000011#6 ++ 0x02#8 ++ 0x01#8 ++ 0x74#8 ++ 0b01#2) (0b00000001000001#14 ++ 0b0000#4 ++ 0b0000#4 ++ 0x00#8 ++ 0b00#2) 0 =
      .ok (.vmin ⟨0, false, 1, 2, 3, 0, false, false, false, false, 0x41, none⟩) 8 ∧
    decode (0b000011#6 ++ 0x02#8 ++ 0x01#8 ++ 0x75#8 ++ 0b01#2) (0b00000000000111#14 ++ 0b0000#4 ++ 0b0000#4 ++ 0x00#8 ++ 0b00#2) 0 =
      .ok (.vmax ⟨0, false, 1, 2, 3, 0, false, false, false, false, 0x7, none⟩) 8 ∧
    decode (0b000011#6 ++ 0x02#8 ++ 0x01#8 ++ 0x76#8 ++ 0b01#2) (0b00000000000011#14 ++ 0b0000#4 ++ 0b0000#4 ++ 0x00#8 ++ 0b00#2) 0 =
      .ok (.vand ⟨0, false, 1, 2, 3, 0, false, false, false, false, 0x3, none⟩) 8 ∧
    decode (0b000011#6 ++ 0x02#8 ++ 0x01#8 ++ 0x77#8 ++ 0b01#2) (0b00000000000011#14 ++ 0b0000#4 ++ 0b0000#4 ++ 0x00#8 ++ 0b00#2) 0 =
      .ok (.vor ⟨0, false, 1, 2, 3, 0, false, false, false, false, 0x3, none⟩) 8 ∧
    decode (0b000011#6 ++ 0x02#8 ++ 0x01#8 ++ 0x78#8 ++ 0b01#2) (0b00000000000011#14 ++ 0b0000#4 ++ 0b0000#4 ++ 0x00#8 ++ 0b00#2) 0 =
      .ok (.vxor ⟨0, false, 1, 2, 3, 0, false, false, false, false, 0x3, none⟩) 8 ∧
    decode (0b000011#6 ++ 0x02#8 ++ 0x01#8 ++ 0x79#8 ++ 0b01#2) (0b00000000000001#14 ++ 0b0000#4 ++ 0b0000#4 ++ 0x00#8 ++ 0b00#2) 0 =
      .ok (.vshl ⟨0, false, 1, 2, 3, 0, false, false, false, false, 0x1, none⟩) 8 ∧
    decode (0b000011#6 ++ 0x02#8 ++ 0x01#8 ++ 0x7A#8 ++ 0b01#2) (0b00000001000010#14 ++ 0b0000#4 ++ 0b0000#4 ++ 0x00#8 ++ 0b00#2) 0 =
      .ok (.vshr ⟨0, false, 1, 2, 3, 0, false, false, false, false, 0x42, none⟩) 8 ∧
    decode (0b000011#6 ++ 0x02#8 ++ 0x01#8 ++ 0x7B#8 ++ 0b01#2) (0b00000101000110#14 ++ 0b0000#4 ++ 0b0000#4 ++ 0x00#8 ++ 0b00#2) 0 =
      .ok (.vcmp ⟨0, false, 1, 2, 3, 0, false, false, false, false, 0x146, none⟩) 8 ∧
    decode (0b000011#6 ++ 0x02#8 ++ 0x01#8 ++ 0x7C#8 ++ 0b01#2) (0b00000000000010#14 ++ 0b0000#4 ++ 0b0000#4 ++ 0x04#8 ++ 0b00#2) 0 =
      .ok (.vsel ⟨0, false, 1, 2, 3, 4, false, false, false, false, 0x2, none⟩) 8 ∧
    decode (0b000000#6 ++ 0x02#8 ++ 0x01#8 ++ 0x7D#8 ++ 0b01#2) (0b00000110010110#14 ++ 0b0000#4 ++ 0b0000#4 ++ 0x00#8 ++ 0b00#2) 0 =
      .ok (.vcvt ⟨0, false, 1, 2, 0, 0, false, false, false, false, 0x196, none⟩) 8 ∧
    decode (0b000000#6 ++ 0x02#8 ++ 0x01#8 ++ 0x7E#8 ++ 0b01#2) (0b00000011001110#14 ++ 0b0000#4 ++ 0b0000#4 ++ 0x00#8 ++ 0b00#2) 0 =
      .ok (.vsfn ⟨0, false, 1, 2, 0, 0, false, false, false, false, 0xCE, none⟩) 8 ∧
    decode (0b000100#6 ++ 0x00#8 ++ 0x01#8 ++ 0x7F#8 ++ 0b01#2) (0b00000000000010#14 ++ 0b0000#4 ++ 0b0000#4 ++ 0x00#8 ++ 0b00#2) 0 =
      .ok (.vbcast ⟨0, false, 1, 0, 4, 0, false, false, false, false, 0x2, none⟩) 8 ∧
    decode (0b000000#6 ++ 0x02#8 ++ 0x01#8 ++ 0x7F#8 ++ 0b01#2) (0b01110001000010#14 ++ 0b0000#4 ++ 0b0000#4 ++ 0x00#8 ++ 0b00#2) 0 =
      .ok (.vbcastRow ⟨0, false, 1, 2, 0, 0, false, false, false, false, 0x1C42, none⟩) 8 ∧
    decode (0b000101#6 ++ 0x04#8 ++ 0x01#8 ++ 0x80#8 ++ 0b01#2) (0b00000001010110#14 ++ 0b0000#4 ++ 0b0000#4 ++ 0x06#8 ++ 0b00#2) 0 =
      .ok (.vld ⟨0, false, 1, 4, 5, 6, false, false, false, false, 0x56, none⟩) 8 ∧
    decode (0b000101#6 ++ 0x04#8 ++ 0x07#8 ++ 0x81#8 ++ 0b01#2) (0b00000000000110#14 ++ 0b0000#4 ++ 0b0000#4 ++ 0x02#8 ++ 0b00#2) 0 =
      .ok (.vst ⟨0, false, 7, 4, 5, 2, false, false, false, false, 0x6, none⟩) 8 ∧
    decode (0b000011#6 ++ 0x04#8 ++ 0x01#8 ++ 0x82#8 ++ 0b01#2) (0b00000001000010#14 ++ 0b0000#4 ++ 0b0000#4 ++ 0x00#8 ++ 0b00#2) 0 =
      .ok (.vgather ⟨0, false, 1, 4, 3, 0, false, false, false, false, 0x42, none⟩) 8 ∧
    decode (0b000011#6 ++ 0x04#8 ++ 0x00#8 ++ 0x83#8 ++ 0b01#2) (0b00000000000010#14 ++ 0b0000#4 ++ 0b0000#4 ++ 0x02#8 ++ 0b00#2) 0 =
      .ok (.vscatter ⟨0, false, 0, 4, 3, 2, false, false, false, false, 0x2, none⟩) 8 ∧
    decode (0b000000#6 ++ 0x02#8 ++ 0x04#8 ++ 0x84#8 ++ 0b01#2) (0b00000101000010#14 ++ 0b0000#4 ++ 0b0000#4 ++ 0x00#8 ++ 0b00#2) 0 =
      .ok (.vred ⟨0, false, 4, 2, 0, 0, false, false, false, false, 0x142, none⟩) 8 ∧
    decode (0b000000#6 ++ 0x02#8 ++ 0x01#8 ++ 0x85#8 ++ 0b01#2) (0b00010000000010#14 ++ 0b0000#4 ++ 0b0000#4 ++ 0x00#8 ++ 0b00#2) 0 =
      .ok (.vscan ⟨0, false, 1, 2, 0, 0, false, false, false, false, 0x402, none⟩) 8 ∧
    decode (0b000011#6 ++ 0x02#8 ++ 0x01#8 ++ 0x86#8 ++ 0b01#2) (0b00000001000010#14 ++ 0b0000#4 ++ 0b0000#4 ++ 0x00#8 ++ 0b00#2) 0 =
      .ok (.vperm ⟨0, false, 1, 2, 3, 0, false, false, false, false, 0x42, none⟩) 8 ∧
    decode (0b000000#6 ++ 0x02#8 ++ 0x01#8 ++ 0x87#8 ++ 0b01#2) (0b00000000000110#14 ++ 0b0000#4 ++ 0b0000#4 ++ 0x00#8 ++ 0b00#2) 0 =
      .ok (.vtrn ⟨0, false, 1, 2, 0, 0, false, false, false, false, 0x6, none⟩) 8 ∧
    decode (0b000011#6 ++ 0x02#8 ++ 0x01#8 ++ 0x88#8 ++ 0b01#2) (0b00110001000010#14 ++ 0b0000#4 ++ 0b0000#4 ++ 0x00#8 ++ 0b00#2) 0 =
      .ok (.vdist ⟨0, false, 1, 2, 3, 0, false, false, false, false, 0xC42, none⟩) 8 ∧
    decode (0b000100#6 ++ 0x02#8 ++ 0x01#8 ++ 0x89#8 ++ 0b01#2) (0b11110010000110#14 ++ 0b0000#4 ++ 0b0000#4 ++ 0x00#8 ++ 0b00#2) 0 =
      .ok (.vtopk ⟨0, false, 1, 2, 4, 0, false, false, false, false, 0x3C86, none⟩) 8 ∧
    decode (0b000100#6 ++ 0x02#8 ++ 0x01#8 ++ 0x8A#8 ++ 0b01#2) (0b00000000000110#14 ++ 0b0000#4 ++ 0b0000#4 ++ 0x00#8 ++ 0b00#2) 0 =
      .ok (.vquant ⟨0, false, 1, 2, 4, 0, false, false, false, false, 0x6, none⟩) 8 ∧
    decode (0b000101#6 ++ 0x02#8 ++ 0x04#8 ++ 0x8B#8 ++ 0b01#2) (0b00000001000010#14 ++ 0b0000#4 ++ 0b0000#4 ++ 0x00#8 ++ 0b00#2) 0 =
      .ok (.vext ⟨0, false, 4, 2, 5, 0, false, false, false, false, 0x42, none⟩) 8 ∧
    decode (0b000101#6 ++ 0x04#8 ++ 0x01#8 ++ 0x8C#8 ++ 0b01#2) (0b00000000000110#14 ++ 0b0000#4 ++ 0b0000#4 ++ 0x00#8 ++ 0b00#2) 0 =
      .ok (.vins ⟨0, false, 1, 4, 5, 0, false, false, false, false, 0x6, none⟩) 8 ∧
    decode (0b000000#6 ++ 0x02#8 ++ 0x01#8 ++ 0x8D#8 ++ 0b01#2) (0b00000000000000#14 ++ 0b0001#4 ++ 0b0000#4 ++ 0x00#8 ++ 0b00#2) 0 =
      .ok (.vmov ⟨0, false, 1, 2, 0, 0, true, false, false, false, 0x0, none⟩) 8 := by decide +kernel

theorem test_decode_matrix_words :
    decode (0b000101#6 ++ 0x04#8 ++ 0x0F#8 ++ 0xA0#8 ++ 0b01#2) (0b00000000000001#14 ++ 0b0000#4 ++ 0b0000#4 ++ 0x06#8 ++ 0b00#2) 0 =
      .ok (.tld ⟨0, false, 15, 4, 5, 6, false, false, false, false, 0x1, none⟩) 8 ∧
    decode (0b000101#6 ++ 0x04#8 ++ 0x03#8 ++ 0xA0#8 ++ 0b01#2) (0b00000000000010#14 ++ 0b0000#4 ++ 0b0000#4 ++ 0x06#8 ++ 0b00#2) 0 =
      .ok (.tldAcc ⟨0, false, 3, 4, 5, 6, false, false, false, false, 0x2, none⟩) 8 ∧
    decode (0b000101#6 ++ 0x04#8 ++ 0x06#8 ++ 0xA1#8 ++ 0b01#2) (0b00000000010000#14 ++ 0b0000#4 ++ 0b0000#4 ++ 0x0F#8 ++ 0b00#2) 0 =
      .ok (.tst ⟨0, false, 6, 4, 5, 15, false, false, false, false, 0x10, none⟩) 8 ∧
    decode (0b000101#6 ++ 0x04#8 ++ 0x06#8 ++ 0xA1#8 ++ 0b01#2) (0b00000000000010#14 ++ 0b0000#4 ++ 0b0000#4 ++ 0x03#8 ++ 0b00#2) 0 =
      .ok (.tstAcc ⟨0, false, 6, 4, 5, 3, false, false, false, false, 0x2, none⟩) 8 ∧
    decode (0b000000#6 ++ 0x00#8 ++ 0x03#8 ++ 0xA2#8 ++ 0b01#2) (0b00000000000001#14 ++ 0b0000#4 ++ 0b0000#4 ++ 0x00#8 ++ 0b00#2) 0 =
      .ok (.tzero ⟨0, false, 3, 0, 0, 0, false, false, false, false, 0x1, none⟩) 8 ∧
    decode (0b000100#6 ++ 0x00#8 ++ 0x02#8 ++ 0xA3#8 ++ 0b01#2) (0b00000000000000#14 ++ 0b0000#4 ++ 0b0000#4 ++ 0x00#8 ++ 0b00#2) 0 =
      .ok (.tanch ⟨0, false, 2, 0, 4, 0, false, false, false, false, 0x0, none⟩) 8 ∧
    decode (0b000000#6 ++ 0x02#8 ++ 0x04#8 ++ 0xA3#8 ++ 0b01#2) (0b00000000000001#14 ++ 0b0000#4 ++ 0b0000#4 ++ 0x00#8 ++ 0b00#2) 0 =
      .ok (.tanchRd ⟨0, false, 4, 2, 0, 0, false, false, false, false, 0x1, none⟩) 8 ∧
    decode (0b000000#6 ++ 0x00#8 ++ 0x02#8 ++ 0xA3#8 ++ 0b01#2) (0b00000000000010#14 ++ 0b0000#4 ++ 0b0000#4 ++ 0x00#8 ++ 0b00#2) 0 =
      .ok (.tanchClr ⟨0, false, 2, 0, 0, 0, false, false, false, false, 0x2, none⟩) 8 ∧
    decode (0b001111#6 ++ 0x0E#8 ++ 0x03#8 ++ 0xA4#8 ++ 0b01#2) (0b00000000000011#14 ++ 0b0000#4 ++ 0b0000#4 ++ 0x00#8 ++ 0b00#2) 0 =
      .ok (.tmma ⟨0, false, 3, 14, 15, 0, false, false, false, false, 0x3, none⟩) 8 ∧
    decode (0b000100#6 ++ 0x02#8 ++ 0x01#8 ++ 0xA5#8 ++ 0b01#2) (0b00000000001110#14 ++ 0b0000#4 ++ 0b0000#4 ++ 0x00#8 ++ 0b00#2) 0 =
      .ok (.tcvt ⟨0, false, 1, 2, 4, 0, false, false, false, false, 0xE, none⟩) 8 ∧
    decode (0b000000#6 ++ 0x02#8 ++ 0x0F#8 ++ 0xA5#8 ++ 0b01#2) (0b00000000110000#14 ++ 0b0000#4 ++ 0b0000#4 ++ 0x00#8 ++ 0b00#2) 0 =
      .ok (.tcvtTile ⟨0, false, 15, 2, 0, 0, false, false, false, false, 0x30, none⟩) 8 ∧
    decode (0b000100#6 ++ 0x0F#8 ++ 0x01#8 ++ 0xA6#8 ++ 0b01#2) (0b00000000000111#14 ++ 0b0000#4 ++ 0b0000#4 ++ 0x00#8 ++ 0b00#2) 0 =
      .ok (.tvec ⟨0, false, 1, 15, 4, 0, false, false, false, false, 0x7, none⟩) 8 ∧
    decode (0b000100#6 ++ 0x02#8 ++ 0x0F#8 ++ 0xA6#8 ++ 0b01#2) (0b00000001000010#14 ++ 0b0000#4 ++ 0b0000#4 ++ 0x00#8 ++ 0b00#2) 0 =
      .ok (.tvecIn ⟨0, false, 15, 2, 4, 0, false, false, false, false, 0x42, none⟩) 8 ∧
    decode (0b000101#6 ++ 0x04#8 ++ 0x03#8 ++ 0xB0#8 ++ 0b01#2) (0b00000000000000#14 ++ 0b0000#4 ++ 0b0000#4 ++ 0x00#8 ++ 0b00#2) 0 =
      .ok (.slres ⟨0, false, 3, 4, 5, 0, false, false, false, false, 0x0, none⟩) 8 ∧
    decode (0b000110#6 ++ 0x05#8 ++ 0x04#8 ++ 0xB1#8 ++ 0b01#2) (0b00000000000000#14 ++ 0b0000#4 ++ 0b0000#4 ++ 0x00#8 ++ 0b00#2) 0 =
      .ok (.sljoin ⟨0, false, 4, 5, 6, 0, false, false, false, false, 0x0, none⟩) 8 ∧
    decode (0b000110#6 ++ 0x05#8 ++ 0x00#8 ++ 0xB2#8 ++ 0b01#2) (0b00000000111111#14 ++ 0b0000#4 ++ 0b0000#4 ++ 0x03#8 ++ 0b00#2) 0 =
      .ok (.slsend ⟨0, false, 0, 5, 6, 3, false, false, false, false, 0x3F, none⟩) 8 ∧
    decode (0b000000#6 ++ 0x05#8 ++ 0x04#8 ++ 0xB3#8 ++ 0b01#2) (0b00000000000000#14 ++ 0b0000#4 ++ 0b0000#4 ++ 0x00#8 ++ 0b00#2) 0 =
      .ok (.slwait ⟨0, false, 4, 5, 0, 0, false, false, false, false, 0x0, none⟩) 8 ∧
    decode (0b000000#6 ++ 0x05#8 ++ 0x00#8 ++ 0xB4#8 ++ 0b01#2) (0b00000000000000#14 ++ 0b0000#4 ++ 0b0000#4 ++ 0x00#8 ++ 0b00#2) 0 =
      .ok (.slclose ⟨0, false, 0, 5, 0, 0, false, false, false, false, 0x0, none⟩) 8 ∧
    decode (0b000000#6 ++ 0x00#8 ++ 0x00#8 ++ 0xB8#8 ++ 0b01#2) (0b00000000000000#14 ++ 0b0000#4 ++ 0b0000#4 ++ 0x00#8 ++ 0b00#2) 0 =
      .ok (.gsync ⟨0, false, 0, 0, 0, 0, false, false, false, false, 0x0, none⟩) 8 ∧
    decode (0b010001#6 ++ 0x04#8 ++ 0x00#8 ++ 0xB9#8 ++ 0b01#2) (0b00000000000000#14 ++ 0b0000#4 ++ 0b0000#4 ++ 0x00#8 ++ 0b10#2) 0 =
      .ok (.tlbi ⟨0, false, 0, 4, 145, 0, false, false, false, false, 0x0, none⟩) 8 ∧
    decode (0b000000#6 ++ 0x05#8 ++ 0x04#8 ++ 0xBA#8 ++ 0b01#2) (0b00000000000000#14 ++ 0b0000#4 ++ 0b0000#4 ++ 0x00#8 ++ 0b00#2) 0 =
      .ok (.syscGquery ⟨0, false, 4, 5, 0, 0, false, false, false, false, 0x0, none⟩) 8 ∧
    decode (0b000000#6 ++ 0x05#8 ++ 0x00#8 ++ 0xBA#8 ++ 0b01#2) (0b00000000000001#14 ++ 0b0000#4 ++ 0b0000#4 ++ 0x00#8 ++ 0b00#2) 0 =
      .ok (.syscGfree ⟨0, false, 0, 5, 0, 0, false, false, false, false, 0x1, none⟩) 8 ∧
    decode (0b000000#6 ++ 0x05#8 ++ 0x04#8 ++ 0xBA#8 ++ 0b01#2) (0b00000000000010#14 ++ 0b0000#4 ++ 0b0000#4 ++ 0x00#8 ++ 0b00#2) 0 =
      .ok (.syscElog ⟨0, false, 4, 5, 0, 0, false, false, false, false, 0x2, none⟩) 8 := by decide +kernel

theorem test_decode_compact_words :
    decode (0b00000#5 ++ 0b0#1 ++ 0b001#3 ++ 0b00101#5 ++ 0b00011#5 ++ 0b00100#5 ++ 0b000000#6 ++ 0b00#2) 0 0 = .ok (.addCompact ⟨1, false, 4, 3, 5, 0⟩) 4 ∧
    decode (0b00001#5 ++ 0b1#1 ++ 0b010#3 ++ 0b11101#5 ++ 0b11110#5 ++ 0b11111#5 ++ 0b000001#6 ++ 0b00#2) 0 0 = .ok (.subCompact ⟨2, true, 31, 30, 29, 1⟩) 4 ∧
    decode (0b00000#5 ++ 0b0#1 ++ 0b000#3 ++ 0b00011#5 ++ 0b00010#5 ++ 0b00001#5 ++ 0b000010#6 ++ 0b00#2) 0 0 = .ok (.mulCompact ⟨0, false, 1, 2, 3, 0⟩) 4 ∧
    decode (0b00011#5 ++ 0b0#1 ++ 0b000#3 ++ 0b00011#5 ++ 0b00010#5 ++ 0b00001#5 ++ 0b000011#6 ++ 0b00#2) 0 0 = .ok (.mulhCompact ⟨0, false, 1, 2, 3, 3⟩) 4 ∧
    decode (0b00011#5 ++ 0b0#1 ++ 0b000#3 ++ 0b01011#5 ++ 0b01010#5 ++ 0b01001#5 ++ 0b000100#6 ++ 0b00#2) 0 0 = .ok (.divCompact ⟨0, false, 9, 10, 11, 3⟩) 4 ∧
    decode (0b00010#5 ++ 0b0#1 ++ 0b000#3 ++ 0b00011#5 ++ 0b00010#5 ++ 0b00001#5 ++ 0b000101#6 ++ 0b00#2) 0 0 = .ok (.remCompact ⟨0, false, 1, 2, 3, 2⟩) 4 ∧
    decode (0b00000#5 ++ 0b0#1 ++ 0b000#3 ++ 0b00011#5 ++ 0b00010#5 ++ 0b00001#5 ++ 0b000110#6 ++ 0b00#2) 0 0 = .ok (.andCompact ⟨0, false, 1, 2, 3, 0⟩) 4 ∧
    decode (0b00001#5 ++ 0b0#1 ++ 0b000#3 ++ 0b00011#5 ++ 0b00010#5 ++ 0b00001#5 ++ 0b000111#6 ++ 0b00#2) 0 0 = .ok (.orCompact ⟨0, false, 1, 2, 3, 1⟩) 4 ∧
    decode (0b00000#5 ++ 0b0#1 ++ 0b000#3 ++ 0b00011#5 ++ 0b00010#5 ++ 0b00001#5 ++ 0b001000#6 ++ 0b00#2) 0 0 = .ok (.xorCompact ⟨0, false, 1, 2, 3, 0⟩) 4 ∧
    decode (0b00000#5 ++ 0b0#1 ++ 0b000#3 ++ 0b00011#5 ++ 0b00010#5 ++ 0b00001#5 ++ 0b001001#6 ++ 0b00#2) 0 0 = .ok (.andnCompact ⟨0, false, 1, 2, 3, 0⟩) 4 ∧
    decode (0b00001#5 ++ 0b0#1 ++ 0b000#3 ++ 0b00011#5 ++ 0b00010#5 ++ 0b00001#5 ++ 0b001010#6 ++ 0b00#2) 0 0 = .ok (.shlCompact ⟨0, false, 1, 2, 3, 1⟩) 4 ∧
    decode (0b00000#5 ++ 0b0#1 ++ 0b000#3 ++ 0b00011#5 ++ 0b00010#5 ++ 0b00001#5 ++ 0b001011#6 ++ 0b00#2) 0 0 = .ok (.shrCompact ⟨0, false, 1, 2, 3, 0⟩) 4 ∧
    decode (0b00000#5 ++ 0b0#1 ++ 0b000#3 ++ 0b00011#5 ++ 0b00010#5 ++ 0b00001#5 ++ 0b001100#6 ++ 0b00#2) 0 0 = .ok (.sraCompact ⟨0, false, 1, 2, 3, 0⟩) 4 ∧
    decode (0b00000#5 ++ 0b0#1 ++ 0b000#3 ++ 0b00011#5 ++ 0b00010#5 ++ 0b00001#5 ++ 0b001101#6 ++ 0b00#2) 0 0 = .ok (.rotCompact ⟨0, false, 1, 2, 3, 0⟩) 4 ∧
    decode (0b00010#5 ++ 0b0#1 ++ 0b000#3 ++ 0b00011#5 ++ 0b00010#5 ++ 0b00001#5 ++ 0b001110#6 ++ 0b00#2) 0 0 = .ok (.minCompact ⟨0, false, 1, 2, 3, 2⟩) 4 ∧
    decode (0b00011#5 ++ 0b0#1 ++ 0b000#3 ++ 0b00011#5 ++ 0b00010#5 ++ 0b00001#5 ++ 0b001111#6 ++ 0b00#2) 0 0 = .ok (.maxCompact ⟨0, false, 1, 2, 3, 3⟩) 4 ∧
    decode (0b00000#5 ++ 0b0#1 ++ 0b000#3 ++ 0b00000#5 ++ 0b00010#5 ++ 0b00001#5 ++ 0b010000#6 ++ 0b00#2) 0 0 = .ok (.clzCompact ⟨0, false, 1, 2, 0, 0⟩) 4 ∧
    decode (0b00001#5 ++ 0b0#1 ++ 0b000#3 ++ 0b00000#5 ++ 0b00010#5 ++ 0b00001#5 ++ 0b010001#6 ++ 0b00#2) 0 0 = .ok (.ctzCompact ⟨0, false, 1, 2, 0, 1⟩) 4 ∧
    decode (0b00000#5 ++ 0b0#1 ++ 0b000#3 ++ 0b00000#5 ++ 0b00010#5 ++ 0b00001#5 ++ 0b010010#6 ++ 0b00#2) 0 0 = .ok (.popcCompact ⟨0, false, 1, 2, 0, 0⟩) 4 ∧
    decode (0b10000#5 ++ 0b0#1 ++ 0b000#3 ++ 0b00010#5 ++ 0b00001#5 ++ 0b00011#5 ++ 0b010101#6 ++ 0b00#2) 0 0 = .ok (.selCompact ⟨0, false, 3, 1, 2, 16⟩) 4 ∧
    decode (0b01000#5 ++ 0b0#1 ++ 0b000#3 ++ 0b00101#5 ++ 0b00100#5 ++ 0b00010#5 ++ 0b010110#6 ++ 0b00#2) 0 0 = .ok (.cmpCompact ⟨0, false, 2, 4, 5, 8⟩) 4 ∧
    decode (0b00000#5 ++ 0b0#1 ++ 0b000#3 ++ 0b00011#5 ++ 0b00000#5 ++ 0b00001#5 ++ 0b010111#6 ++ 0b00#2) 0 0 = .ok (.movCompact ⟨0, false, 1, 0, 3, 0⟩) 4 ∧
    decode (0b00000#5 ++ 0b1#1 ++ 0b111#3 ++ 0b11111#5 ++ 0b00010#5 ++ 0b00001#5 ++ 0b011000#6 ++ 0b00#2) 0 0 = .ok (.addi ⟨7, true, 1, 2, 31, 0⟩) 4 ∧
    decode (0b00000#5 ++ 0b0#1 ++ 0b000#3 ++ 0b11111#5 ++ 0b00010#5 ++ 0b00001#5 ++ 0b011001#6 ++ 0b00#2) 0 0 = .ok (.ldDCompact ⟨0, false, 1, 2, 31, 0⟩) 4 ∧
    decode (0b00000#5 ++ 0b0#1 ++ 0b000#3 ++ 0b11111#5 ++ 0b00010#5 ++ 0b00001#5 ++ 0b011010#6 ++ 0b00#2) 0 0 = .ok (.stDCompact ⟨0, false, 1, 2, 31, 0⟩) 4 ∧
    decode (0b11110#5 ++ 0b0#1 ++ 0b000#3 ++ 0b00011#5 ++ 0b00000#5 ++ 0b00000#5 ++ 0b011011#6 ++ 0b00#2) 0 0 = .ok (.brCompact ⟨0, false, 0, 0, 3, 30⟩) 4 := by decide +kernel

/-! ### Terms that stand for no word and for no event -/

/-- One operand field or one fn value away from an instruction: undefined fn (R54, R71, R90), a specifier outside its
kind (R49), a field or policy bit without use (R40), rlx where there is none, a literal that is not allowed (R41). -/
theorem test_wellFormed_refuses_operands :
    wellFormed (.add (op 1 2 3 0 2)) = false ∧
    wellFormed (.bfx (op 1 2 3 0 2)) = false ∧
    wellFormed (.bfx (op 1 2 3 0 (33 * 64 + 1))) = false ∧
    wellFormed (.cmp (op 1 2 3 0 32)) = false ∧
    wellFormed (.ctlWrite (op 0 2 0 0 0x1008)) = false ∧
    wellFormed (.fadd (op 1 2 3 0 (5 * 4))) = false ∧
    wellFormed (.amo (op 1 2 3 4 (9 * 128 + 3))) = false ∧
    wellFormed (.add (op 144 2 3 0)) = false ∧
    wellFormed (.add (op 1 147 3 0)) = false ∧
    wellFormed (.tzero (op 16 0 0 0)) = false ∧
    wellFormed (.hstream (op 135 2 3 0 1)) = false ∧
    wellFormed (.add (op 1 2 3 1)) = false ∧
    wellFormed (.add { op 1 145 3 0 with ta := true }) = false ∧
    wellFormed (.add { op 1 2 3 0 with tc := true }) = false ∧
    wellFormed (.add { op 1 2 3 0 with rlx := true }) = false ∧
    wellFormed (.add (op 1 2 3 0 0 (some 5))) = false ∧
    wellFormed (.clz (op 1 2 0 0 0 (some 5))) = false ∧
    wellFormed (.fadd (op 1 2 0 0 2 (some 0x10000))) = false ∧
    wellFormed (.br (op 0 0 0 0 1 (some 8))) = false := by decide +kernel

/-- A constructor that is not its fn value's, compact fn5 and unused fields (R43 to R47), and a word of a known opcode
under the name of no instruction (R53). -/
theorem test_wellFormed_refuses_forms :
    wellFormed (.pmovReadWord (op 1 0 0 0 1)) = false ∧
    wellFormed (.ctlRead (op 1 0 0 0 0x1006)) = false ∧
    wellFormed (.addCompact (cop 1 2 3 2)) = false ∧
    wellFormed (.clzCompact (cop 1 2 3)) = false ∧
    wellFormed (.addi (cop 1 2 3 1)) = false ∧
    wellFormed (.brCompact (cop 1 0 0)) = false ∧
    wellFormed (.notAnInstruction 0x00000001) = false ∧
    wellFormed (.notAnInstruction 0x00000060) = false := by decide +kernel

/-- Devices, cores, slots and units past the last. -/
theorem test_wellFormed_refuses_events :
    wellFormed (.taskPlace 64 0) = false ∧ wellFormed (.roundStart 32768) = false ∧ wellFormed (.spill 0 64) = false ∧
    wellFormed (.timerExpiry 32768 0) = false ∧ wellFormed (.claimExpiry 0 256) = false ∧ wellFormed (.pairedEffectCompare 0 31) = false ∧
    wellFormed (.streamDeliver 0 4) = false ∧ wellFormed (.tokenDeadline 0 16384) = false ∧ wellFormed (.flitResend 0 40) = false ∧
    wellFormed (.linkRetire 0 6) = false ∧ wellFormed (.portRetire 0 32) = false ∧ wellFormed (.laneCalibrationRotate 0 0 32) = false ∧
    wellFormed (.laneFailure 0 0 0 17) = false ∧ wellFormed (.sramScrub 0 (2 ^ 24)) = false ∧
    wellFormed (.gddr7MultibitError 0 0x3000000000) = false ∧ wellFormed (.regfileUncorrectable 0 4 0) = false ∧
    wellFormed (.regfileUncorrectable 0 0 2048) = false ∧ wellFormed (.heartbeatReceive 0 32) = false := by decide +kernel

/-- Words that decoding refuses, with the subcode of ILLEGAL, the lowest first (R56). -/
theorem test_decode_refuses :
    decode 0x0000000A 0 0 = .ok (.notAnInstruction 0x0000000A) 4 ∧
    decode 0x00000070 0 0 = .ok (.notAnInstruction 0x00000070) 4 ∧
    decode 0x00000071 0 0 = .ok (.notAnInstruction 0x00000071) 8 ∧
    decode 0x0000004C 0 0 = .illegal 2 ∧
    decode 0x00000001 0x00080000 0 = .illegal 2 ∧
    decode 0x00000001 0x00000400 0 = .ok (.add ⟨1, false, 0, 0, 0, 0, false, false, false, false, 0, none⟩) 8 ∧
    decode 0x00024001 0 0 = .illegal 3 ∧
    decode 0x00000001 0x00000004 0 = .illegal 4 := by decide +kernel

/-! ### Results -/

/-- R71, R73: the saturating bounds, the shift amount, the quotient that does not fit, a field that ends above bit 63. -/
theorem test_integer_results :
    reg (.adds (op 3 0 1 0)) (regs [2 ^ 63 - 1, 1]) 3 = 2 ^ 63 - 1 ∧
    reg (.adds (op 3 0 1 0 1)) (regs [2 ^ 31, 2 ^ 31]) 3 = 2 ^ 64 - 2 ^ 31 ∧
    reg (.add (op 3 0 1 0 1)) (regs [2 ^ 31 - 1, 1]) 3 = 2 ^ 64 - 2 ^ 31 ∧
    reg (.sub (op 3 0 1 0)) (regs [3, 5]) 3 = 2 ^ 64 - 2 ∧
    reg (.mulh (op 3 0 1 0)) (regs [2 ^ 64 - 1, 2]) 3 = 2 ^ 64 - 1 ∧
    reg (.mulh (op 3 0 1 0 2)) (regs [2 ^ 64 - 1, 2]) 3 = 1 ∧
    reg (.div (op 3 0 1 0)) (regs [2 ^ 63, 2 ^ 64 - 1]) 3 = 2 ^ 63 ∧
    reg (.rem (op 3 0 1 0)) (regs [2 ^ 64 - 7, 2]) 3 = 2 ^ 64 - 1 ∧
    reg (.sra (op 3 0 1 0)) (regs [2 ^ 63, 67]) 3 = 0xF000000000000000 ∧
    reg (.rot (op 3 0 1 0 1)) (regs [1, 1]) 3 = 0xFFFFFFFF80000000 ∧
    reg (.clz (op 3 0 0 0 1)) (regs [2 ^ 40]) 3 = 32 ∧
    reg (.bfx (op 3 0 1 0 (8 * 64))) (regs [2 ^ 63, 60]) 3 = 8 ∧
    reg (.bfi (op 3 0 1 2 (8 * 64))) (regs [0, 60, 0xFF]) 3 = 0xF000000000000000 ∧
    reg (.lea (op 3 0 1 0 (3 * 64))) (regs [5, 2]) 3 = 21 ∧
    reg (.ext (op 3 0 0 0)) (regs [0x180]) 3 = 0xFFFFFFFFFFFFFF80 ∧
    reg (.madd (op 3 0 1 2 1)) (regs [0x10000, 0x8000, 0]) 3 = 0xFFFFFFFF80000000 ∧
    reg (.mov (op 0 0 0 0 0 (some 0xFFFFFFFF))) (regs [5]) 0 = 2 ^ 64 - 1 ∧
    reg (.add (op 0 0 0 0)) (regs [5]) 0 = 10 := by decide +kernel

/-- R45: the immediate is signed. R42, R47: the target of the branch that 03 prints, 8 bytes back. R82: the link. -/
theorem test_control_results :
    reg (.addi (cop 3 0 31)) (regs [0]) 3 = 2 ^ 64 - 1 ∧
    (after (.brCompact ⟨0, false, 0, 0, 31, 30⟩) (regs [])).here.pc = 0xFF8 ∧
    (after (.jmp (op 0 0 1 0)) (regs [0x2000, 2 ^ 64 - 8])).here.pc = 0x1FF8 ∧
    reg (.callr (op 5 0 1 0)) (regs [0x2000, 0]) 5 = 0x1008 ∧
    (after (.loop (op 0 0 0 0 2)) (regs [1])).here.pc = 0x1008 ∧
    reg (.loop (op 0 0 0 0 2)) (regs [1]) 0 = 0 := by decide +kernel

/-- R73, R85, R111: a division by zero and a `trap` enter the handler at %tvec with the pc of the instruction. -/
theorem test_traps_enter :
    (after (.div (op 3 0 1 0)) (regs [1, 0])).here.pc = 0x4000 ∧ (after (.div (op 3 0 1 0)) (regs [1, 0])).here.tepc = 0x1000 ∧
    (after (.div (op 3 0 1 0)) (regs [1, 0])).here.tcause = 6 ∧ (after (.div (op 3 0 1 0)) (regs [1, 0])).here.hmode = true ∧
    (after (.trap (op 0 0 0 0 7)) (regs [])).here.pc = 0x4000 ∧ (after (.trap (op 0 0 0 0 7)) (regs [])).here.tval = 7 := by decide +kernel

/-- R75, R76: 1.5 + 2.25, x - x in RDN, 1 + 2^-53 in RNE and RUP. R80, R81: the example of FP32 1/3. R77: -0. R78: saturation. -/
theorem test_float_results :
    reg (.fadd (op 3 0 1 0 1)) (regs [0x3FC00000, 0x40100000]) 3 = 0x40700000 ∧
    reg (.fsub (op 3 0 0 0 (4 * 4 + 1))) (regs [0x3FC00000]) 3 = 0x80000000 ∧
    reg (.fadd (op 3 0 1 0)) (regs [0x3FF0000000000000, 0x3CA0000000000000]) 3 = 0x3FF0000000000000 ∧
    reg (.fadd (op 3 0 1 0 (3 * 4))) (regs [0x3FF0000000000000, 0x3CA0000000000000]) 3 = 0x3FF0000000000001 ∧
    reg (.frcp (op 3 0 0 0 1)) (regs [0x40400000]) 3 = 0x3EAAAA00 ∧
    reg (.frcpr (op 3 0 1 0 1)) (regs [0x40400000, 0x3EAAAA00]) 3 = 0x3EAAAAAB ∧
    reg (.fclass (op 3 0 0 0)) (regs [2 ^ 63]) 3 = 8 ∧
    reg (.fcvt (op 3 0 0 0 (6 * 128 + 1))) (regs [0x7F000000]) 3 = 0x7FFFFFFF ∧
    reg (.fsfn (op 3 0 0 0 1)) (regs [0x40400000]) 3 = 0x41000000 ∧
    reg (.fsgn (op 3 0 1 0 1)) (regs [0x7FA00001, 0x80000000]) 3 = 0xFFA00001 := by decide +kernel

/-- R72, R86: predicates; R87: the predicate word. -/
theorem test_predicate_results :
    (after (.cmp (op 2 0 1 0 8)) (regs [2 ^ 64 - 1, 1])).here.pred 2 = true ∧
    (after (.cmp (op 2 0 1 0 10)) (regs [2 ^ 64 - 1, 1])).here.pred 2 = false ∧
    reg (.sel (op 3 0 1 0 32)) (regs [7, 9]) 3 = 9 := by decide +kernel

/-- R97: a byte of the near window, sign-extended, and the old value that an atomic add returns. -/
theorem test_memory_results :
    (let s := after (.st (op 0 1 145 2 3)) (regs [0, 0x100, 0x1122334455667788])
     reg (.ld (op 3 1 145 0 4)) s 3 = 0xFFFFFFFFFFFFFF88 ∧ reg (.amo (op 3 1 145 2 3)) s 3 = 0x1122334455667788) := by decide +kernel

/-- FIPS 197, C.3: AES-256 of the published block (R286). -/
theorem test_aes_block :
    aesEncrypt (expandKey ((List.range 32).map (BitVec.ofNat 8))) ((List.range 16).map (fun i => BitVec.ofNat 8 (17 * i))) =
      bytesOf 16 0x8960494B9049FCEABF456751CAB7A28E := by decide +kernel

/-- SHAKE256 of no byte and of 200 bytes A3H, the published example vectors of FIPS 202, first dword lowest byte first (R336). -/
theorem test_shake_results :
    shakeDigest [] = [0x138DA80B2BDDB946, 0x24EB3E74EB3F3B23, 0x821BB862EA52CD3F, 0x2F76D56E64270CB5] ∧
    shakeDigest (List.replicate 200 0xA3) = [0x04AA41D10E928ACD, 0xE9528628592DA207, 0x1C7C1E0CEEA7F1D9, 0x4D904AA84D4299A6] := by decide +kernel
end

