-- ==== Sys2Proof/Tests/WitnessMemory.lean ====
section
/-! SUPPORT. States and operands that meet the hypotheses of the statements about memory, claims, tokens, messages and
semaphores, clause by clause. -/

set_option Elab.async false

open Sys2Proof Sys2Proof.Machine Sys2Proof.Tests

/-! ### Memory -/

/-- The last eight bytes of the near window; clause by clause, a load, a store, an atomic and a load of a poisoned word. -/
theorem test_witness_LocalAccesses :
    (∃ (i : Instr) (s t : State) (v : Vals) (off : Nat), ((∃ o, i = .ld o) ∨ (∃ k, i = .ldDCompact k)) ∧
      Issues i s v t ∧ Alone s ∧ Quiet t ∧ LocalAccess i t v off ∧ CleanBytes i t off ∧
      TakesD (ctxOf i s) (extendedTo (widthIn i) (signed i) (oldNum i t off)) (t.takePad t.here.space (.pad t.cur.1 off))) ∧
    (∃ (i : Instr) (s t : State) (v : Vals) (off x : Nat), ((∃ o, i = .st o ∨ i = .amon o) ∨ (∃ k, i = .stDCompact k)) ∧
      Issues i s v t ∧ Alone s ∧ Quiet t ∧ Memory.wf t.mem = true ∧ LocalAccess i t v off ∧ CleanBytes i t off ∧
      newNum i v (oldNum i t off) = some x) ∧
    (∃ (i : Instr) (s t : State) (v : Vals) (off x : Nat), (∃ o, i = .amo o ∨ i = .cas o) ∧
      Issues i s v t ∧ Alone s ∧ Quiet t ∧ Memory.wf t.mem = true ∧ LocalAccess i t v off ∧ CleanBytes i t off ∧
      newNum i v (oldNum i t off) = some x ∧
      (∀ t', SameButMemory t t' → TakesD (ctxOf i s) (extendedTo (widthIn i) (signed i) (oldNum i t off)) t')) ∧
    (∃ (o : Opnd) (s t : State) (v : Vals) (off : Nat), Issues (.ld o) s v t ∧ Alone s ∧ Quiet t ∧ LocalAccess (.ld o) t v off ∧
      ¬ CleanBytes (.ld o) t off ∧ o.d.toNat < 128) :=
  let i := Instr.ld (op 3 1 145 0 3)
  let j := Instr.stDCompact (cop 2 1 31)
  let a := Instr.amo (op 3 1 145 2 0x3)
  let s := regs [0, 0xFFFFF8, 7]
  let z := regs [0, 0xFFFF00, 7]
  let q : State := { s with poison := [((2 ^ 40 + 0xFFFFF8) / 8, 5)] }
  ⟨⟨i, s, tOf i s, vOf i s, 0xFFFFF8, .inl ⟨_, rfl⟩, issues_of (by decide +kernel), alone_of (by decide +kernel),
    calm_of (by decide +kernel), by unfold LocalAccess; decide +kernel,
    by unfold CleanBytes; decide +kernel, takes_reg (by decide +kernel)⟩,
   ⟨j, z, tOf j z, vOf j z, 0xFFFFF8, 7, .inr ⟨_, rfl⟩, issues_of (by decide +kernel), alone_of (by decide +kernel),
    calm_of (by decide +kernel), by decide +kernel, by unfold LocalAccess; decide +kernel,
    by unfold CleanBytes; decide +kernel, by decide +kernel⟩,
   ⟨a, s, tOf a s, vOf a s, 0xFFFFF8, 7, ⟨_, .inl rfl⟩, issues_of (by decide +kernel), alone_of (by decide +kernel),
    calm_of (by decide +kernel), by decide +kernel, by unfold LocalAccess; decide +kernel,
    by unfold CleanBytes; decide +kernel, by decide +kernel, fun _ _ => takes_reg (by decide +kernel)⟩,
   ⟨op 3 1 145 0 3, q, tOf i q, vOf i q, 0xFFFFF8, issues_of (by decide +kernel), alone_of (by decide +kernel),
    calm_of (by decide +kernel), by unfold LocalAccess; decide +kernel,
    by unfold CleanBytes; decide +kernel, by decide⟩⟩

/-- A misaligned address, one of no region, and a granule of another space. -/
theorem test_witness_AccessTraps :
    (∃ (o : Opnd) (s t : State) (v : Vals), Issues (.ld o) s v t ∧ Alone s ∧ (vaOf (.ld o) v).toNat % widthIn (.ld o) ≠ 0) ∧
    (∃ (o : Opnd) (s t : State) (v : Vals), Issues (.ld o) s v t ∧ Alone s ∧ (vaOf (.ld o) v).toNat % widthIn (.ld o) = 0 ∧
      areaOf (vaOf (.ld o) v).toNat = .bad) ∧
    (∃ (o : Opnd) (s t : State) (v : Vals) (off : Nat), Issues (.ld o) s v t ∧ Alone s ∧ (vaOf (.ld o) v).toNat % widthIn (.ld o) = 0 ∧
      ownPlace s.cur.1 (vaOf (.ld o) v) = some off ∧ t.mayPad t.here.space (.pad s.cur.1 off) = false ∧
      ((opndOfInstr (.ld o)).rlx = true ∨ Quiet t)) :=
  let o := op 3 1 145 0 3
  let s := regs [0, 7]
  let b := regs [0, 0x14000000000000]
  let p : State := { regs [0, 0xFFFFF8] with owner := [((2 ^ 40 + 0xFFFFF8) / 65536, 3)] }
  ⟨⟨o, s, tOf (.ld o) s, vOf (.ld o) s, issues_of (by decide +kernel), alone_of (by decide +kernel), by decide +kernel⟩,
   ⟨o, b, tOf (.ld o) b, vOf (.ld o) b, issues_of (by decide +kernel), alone_of (by decide +kernel), by decide +kernel⟩,
   ⟨o, p, tOf (.ld o) p, vOf (.ld o) p, 0xFFFFF8, issues_of (by decide +kernel), alone_of (by decide +kernel),
    first3 (by decide +kernel) (.inr (calm_of (by decide +kernel)))⟩⟩

/-- A task whose core translates the first page of the translated region, with values in its registers. -/
def Sys2Proof.Tests.mapped (l : List Nat) : State :=
  world { slots := [(0, task)], sfile := file l, tlb := [leaf], order := [0] }

theorem remote_of {i : Instr} {t : State} {v : Vals} {e : Tlb} {pa : Nat} (h : (vaOf i v).toNat % widthIn i = 0 ∧
    areaOf (vaOf i v).toNat = .xlat ∧ t.look t.cur.1 t.here.space (vaOf i v).toNat = .hit e ∧ e.r = true ∧ e.w = true ∧
    leafLoc (t.cur.1 / 512) e (vaOf i v).toNat = .dram (t.cur.1 / 512) pa) : RemoteDram i t v e pa := h

theorem test_witness_AccessesTravel :
    (∃ (o : Opnd) (s t : State) (v : Vals) (e : Tlb) (pa : Nat), o.rlx = false ∧ o.d.toNat < 128 ∧ Issues (.ld o) s v t ∧ Alone s ∧
      Quiet t ∧ s.cur.2 ≠ 62 ∧ RemoteDram (.ld o) t v e pa) ∧
    (∃ (id : Nat) (s : State) (a : Access), s.acc id = some a ∧ a.stage = .sent ∧ a.kind = .st ∧ a.aside = false ∧ a.elems = []) ∧
    (∃ (id : Nat) (s : State) (a b : Access), s.acc id = some a ∧ a.stage = .sent ∧ a.kind ≠ .stw ∧ a.elems ≠ [] ∧ b ∈ s.net ∧
      (b.core = a.core ∧ b.slot = a.slot ∧ b.par = a.par ∧ b.home = a.home ∧ b.stage = .sent ∧ b.id < a.id)) ∧
    (∃ (id : Nat) (s : State) (a : Access), s.acc id = some a ∧ a.crossing = true) ∧
    (∃ (id : Nat) (s : State) (a : Access), s.acc id = some a ∧ a.stage = .sent ∧ s.behindFlow a = true) ∧
    (∃ (id : Nat) (s : State) (a : Access), s.acc id = some a ∧ a.stage = .sent ∧ a.kind = .stw ∧ a.aside = false ∧ a.elems = []) ∧
    (∀ x ∈ [0, farPanel], ∃ (id d : Nat) (s : State) (a : Access), s.acc id = some a ∧ a.kind = .ld true ∧ a.home = .host d ∧ a.stage = .queued ∧
      s.resolve a = .at (.pci 0 x) none) :=
  let o := op 3 1 145 0 3
  let s := mapped [0, 0x10000000FFF8]
  let b : Access := { req (.ld false) (.slice 0 63) .sent with id := 0 }
  let c : Access := { req (.ld false) (.slice 0 63) .sent with elems := [⟨63, 0, .dram 0 0, 8, 0⟩] }
  let f (i : Nat) : Access := { req .st (.slice 1 63) .sent with id := i, aside := true }
  let x : State := { regs [] with net := [f 0, f 1] }
  have hb : x.behindFlow (f 1) = true := by
    have hf : x.flowOf (f 0) = x.flowOf (f 1) := rfl
    have hc : (f 0).aside = true ∧ (f 0).crossing = true := by decide +kernel
    show ([f 0].any (fun b => b.aside && b.crossing && x.flowOf b == x.flowOf (f 1))) = true
    simp [hf, hc]
  ⟨⟨o, s, tOf (.ld o) s, vOf (.ld o) s, leaf, dramSize - 8, by decide, by decide, issues_of (by decide +kernel), alone_of (by decide +kernel),
    calm_of (by decide +kernel), by decide, remote_of (by decide +kernel)⟩,
   ⟨1, flying (req .st (.slice 0 63) .sent) (regs []), req .st (.slice 0 63) .sent, by decide +kernel⟩,
   ⟨1, { regs [] with net := [c, b] }, c, b, by decide +kernel⟩,
   ⟨1, flying (req .st (.slice 1 63) .sent) (regs []), req .st (.slice 1 63) .sent, by decide +kernel⟩,
   ⟨1, x, f 1, by decide +kernel, rfl, hb⟩,
   ⟨1, flying (req .stw (.slice 0 63) .sent) (regs []), req .stw (.slice 0 63) .sent, by decide +kernel⟩,
   fun x hx => ⟨1, 0, flying { req (.ld true) (.host 0) with loc := .pci 0 x } (regs []), { req (.ld true) (.host 0) with loc := .pci 0 x }, rfl, rfl, rfl, rfl, rfl⟩⟩

/-- The access of kind `k` of the last word of device memory. -/
def Sys2Proof.Tests.atDram (k : AKind) : Access := { req k (.slice 0 63) with loc := .dram 0 (dramSize - 8), n := 8, val := 3, aux := 0 }

theorem test_witness_AccessesArePerformed :
    (∀ k ∈ [AKind.ld true, .st, .amo 4 false true, .amo 10 false false, .cas true], ∃ (id d pa : Nat) (s : State) (a : Access),
      s.atHead id = some a ∧ Memory.wf s.mem = true ∧ PlainDram s a d pa ∧ a.kind = k) ∧
    (∃ (id e : Nat) (s : State) (a : Access), s.acc id = some a ∧ a.stage = .replied ∧ a.dead = false ∧ a.loose = false ∧
      a.slot < 64 ∧ a.relaxed = false ∧ a.booked = false ∧ a.aside = false ∧ (s.slot a.core a.slot).paired = false ∧
      (s.slot a.core a.slot).kill = none ∧ a.kind = .cas true ∧ a.dst = .reg e ∧
      a.reply.trap = none) ∧
    (∃ (id e : Nat) (s : State) (a : Access) (t : Trap), s.acc id = some a ∧ a.stage = .replied ∧ a.dead = false ∧ a.loose = false ∧
      a.slot < 64 ∧ a.relaxed = false ∧ a.booked = false ∧ a.aside = false ∧ (s.slot a.core a.slot).paired = false ∧
      (s.slot a.core a.slot).kill = none ∧ a.kind = .ld true ∧ a.dst = .reg e ∧
      a.reply.trap = some t) := by
  refine ⟨?_, ⟨1, 2047, flying { req (.cas true) (.slice 0 63) .replied with dst := .reg 2047 } (regs []),
      { req (.cas true) (.slice 0 63) .replied with dst := .reg 2047 }, by decide +kernel⟩,
    ⟨1, 3, flying { req (.ld true) (.slice 0 63) .replied with dst := .reg 3, reply := { trap := some ⟨0x0A, 3, 0⟩ } } (regs []),
      { req (.ld true) (.slice 0 63) .replied with dst := .reg 3, reply := { trap := some ⟨0x0A, 3, 0⟩ } }, ⟨0x0A, 3, 0⟩, by decide +kernel⟩⟩
  intro k hk
  have h : ∀ k ∈ [AKind.ld true, .st, .amo 4 false true, .amo 10 false false, .cas true],
      (flying (atDram k) (regs [])).atHead 1 = some (atDram k) := by decide +kernel
  exact ⟨1, 0, dramSize - 8, flying (atDram k) (regs []), atDram k, h k hk, rfl,
    ⟨rfl, by simp [State.reach, atDram, req], fun _ => by simp [atDram, req], rfl, (by decide +kernel : ∀ k ∈ [AKind.ld true, .st, .amo 4 false true, .amo 10 false false, .cas true],
      (flying (atDram k) (regs [])).tagOf (keyOf (atDram k).loc) (atDram k).n = 0) k hk, fun _ => .inl rfl⟩, rfl⟩

/-- Fences of each kind, with nothing and with an access in flight; `exit` with an access in flight and without. -/
theorem test_witness_FencesAndExit :
    (∀ f ∈ [(0x00 : BitVec 14), 0x50, 0x51, 0x52], ∃ (o : Opnd) (s t : State) (v : Vals), o.fn = f ∧ Issues (.fence o) s v t ∧ Alone s ∧
      (t.own s.cur.1 s.cur.2).filter (fun a => inScope s.cur.1 5 a.home) = []) ∧
    (∀ f ∈ [(0x50 : BitVec 14), 0x51, 0x52], ∃ (o : Opnd) (s t : State) (v : Vals), o.fn = f ∧ Issues (.fence o) s v t ∧ Alone s ∧
      ((t.own s.cur.1 s.cur.2).filter (fun a => inScope s.cur.1 5 a.home)).filter (·.kind.gives) ≠ []) ∧
    (∃ (o : Opnd) (s t : State) (v : Vals), Issues (.exit o) s v t ∧ Alone s ∧ s.cur.2 ≠ 62 ∧ t.drained s.cur.1 s.cur.2 = false) ∧
    (∃ (o : Opnd) (s t : State) (v : Vals), Issues (.exit o) s v t ∧ Alone s ∧ s.cur.2 ≠ 62 ∧ t.drained s.cur.1 s.cur.2 = true ∧
      t.waitOver s.cur.1 s.cur.2 .vectorIdle = true ∧ t.waitOver s.cur.1 s.cur.2 .unitIdle = true ∧ s.here.gang = false) := by
  let s := regs [0]
  let q := flying { req (.ld false) (.slice 0 63) .sent with relaxed := true } (regs [0])
  let x := Instr.exit (op 0 0 0 0)
  refine ⟨?_, ?_, ⟨op 0 0 0 0, q, tOf x q, vOf x q, issues_of (by decide +kernel), alone_of (by decide +kernel), by decide, by decide +kernel⟩,
    ⟨op 0 0 0 0, s, tOf x s, vOf x s, issues_of (by decide +kernel), alone_of (by decide +kernel), by decide, by decide +kernel⟩⟩
  · intro f hf
    have h : ∀ f ∈ [(0x00 : BitVec 14), 0x50, 0x51, 0x52], (issued (.fence (op 0 0 0 0 f)) s).isSome = true ∧
        ((tOf (.fence (op 0 0 0 0 f)) s).own 0 0).filter (fun a => inScope 0 5 a.home) = [] := by decide +kernel
    exact ⟨op 0 0 0 0 f, s, tOf (.fence (op 0 0 0 0 f)) s, vOf (.fence (op 0 0 0 0 f)) s, rfl, issues_of (h f hf).1, alone_of rfl, (h f hf).2⟩
  · intro f hf
    have h : ∀ f ∈ [(0x50 : BitVec 14), 0x51, 0x52], (issued (.fence (op 0 0 0 0 f)) q).isSome = true ∧
        (((tOf (.fence (op 0 0 0 0 f)) q).own 0 0).filter (fun a => inScope 0 5 a.home)).filter (·.kind.gives) ≠ [] := by decide +kernel
    exact ⟨op 0 0 0 0 f, q, tOf (.fence (op 0 0 0 0 f)) q, vOf (.fence (op 0 0 0 0 f)) q, rfl, issues_of (h f hf).1, alone_of rfl, (h f hf).2⟩

/-! ### Claims -/

/-- Core 0 with its task in slot 0, the values in its registers, and the claims given. -/
def Sys2Proof.Tests.claiming (l : List Nat) (cl : SMap Claim) : State :=
  world { slots := [(0, task)], sfile := file l, claims := cl, order := [0] }

/-- The name of claim 255 of core 0, generation 1. -/
def Sys2Proof.Tests.name255 : Nat := 255 * 2 ^ 41 + 2 ^ 25

theorem test_witness_Claims :
    (∃ (o : Opnd) (s t : State) (v : Vals), Issues (.claim o) s v t ∧ Alone s ∧ o.c = o.d) ∧
    (∃ (o : Opnd) (s t : State) (v : Vals), Issues (.claim o) s v t ∧ Alone s ∧ o.c ≠ o.d ∧
      ((t.core s.cur.1).entry (t.here.sbase + o.c.toNat)).pend = false ∧ (∀ i, i < 256 → ((t.core s.cur.1).claim i).valid = true)) ∧
    (∃ (o : Opnd) (s t : State) (v : Vals) (i : Nat), Issues (.claim o) s v t ∧ Alone s ∧ o.c ≠ o.d ∧
      ((t.core s.cur.1).entry (t.here.sbase + o.c.toNat)).pend = false ∧ i < 256 ∧ ((t.core s.cur.1).claim i).valid = false ∧
      (∀ j, j < i → ((t.core s.cur.1).claim j).valid = true) ∧ o.d.toNat < 128) ∧
    (∃ (o : Opnd) (s t : State) (v : Vals) (i : Nat), o.rlx = false ∧ Issues (.dlv o) s v t ∧ Alone s ∧ Quiet t ∧ NamesClaim t v.a s.cur.1 i ∧
      ¬ ClaimDue t s.cur.1 i ∧ ((t.core s.cur.1).claim i).saved = none ∧
      (t.core s.cur.1).spilling ≠ some ((t.core s.cur.1).claim i).slot ∧ (t.slot s.cur.1 ((t.core s.cur.1).claim i).slot).paired = false) ∧
    (∃ (o : Opnd) (s t : State) (v : Vals), o.rlx = false ∧ Issues (.dlv o) s v t ∧ Alone s ∧ Quiet t ∧ coreOf v.a = s.cur.1 ∧
      (∀ i, NamesClaim t v.a s.cur.1 i → ClaimDue t s.cur.1 i) ∧ (t.core s.cur.1).spilling = none) ∧
    (∃ (o : Opnd) (s t : State) (v : Vals) (i : Nat), Issues (.cdrop o) s v t ∧ Alone s ∧ Quiet t ∧ RefersTo t v.a s.cur.1 i ∧
      ¬ ClaimDue t s.cur.1 i ∧ ((t.core s.cur.1).claim i).slot = s.cur.2 ∧ ((t.core s.cur.1).claim i).saved = none) ∧
    (∃ (o : Opnd) (s t : State) (v : Vals), Issues (.cdrop o) s v t ∧ Alone s ∧ Quiet t ∧
      (∀ i, ¬ (RefersTo t v.a s.cur.1 i ∧ ((t.core s.cur.1).claim i).slot = s.cur.2 ∧ ((t.core s.cur.1).claim i).saved = none)) ∧
      ¬ ClaimDue t s.cur.1 (v.a.toNat / 2 ^ 41 % 256)) := by
  let all : SMap Claim := (List.range 256).map (fun k => (k, { valid := true, gen := 1 }))
  let o := op 3 0 0 127
  let d := op 0 1 2 0
  let e := op 3 1 0 0
  let s := claiming [0, name255, 9] all
  let n := claiming [0, name255, 9] []
  let z := claiming [0, name255, 9] ((List.range 255).map (fun k => (k, { valid := true, gen := 1 })))
  have stale : ∀ t : State, ((t.core 0).claim 255).valid = false → ∀ i, ¬ RefersTo t (BitVec.ofNat 64 name255) 0 i := by
    intro t ht i h
    obtain ⟨-, h, hv, -⟩ := h
    have : i = 255 := by rw [← h]; decide
    rw [this, ht] at hv
    exact absurd hv (by decide)
  refine ⟨⟨op 3 0 0 3, s, _, _, issues_of (by decide +kernel), alone_of (by decide +kernel), by decide⟩,
    ⟨o, s, tOf (.claim o) s, vOf (.claim o) s, issues_of (by decide +kernel), alone_of (by decide +kernel), by decide, by decide +kernel⟩,
    ⟨o, z, tOf (.claim o) z, vOf (.claim o) z, 255, issues_of (by decide +kernel), alone_of (by decide +kernel), by decide, by decide +kernel,
      by decide, by decide +kernel, by decide +kernel, by decide⟩,
    ⟨d, s, tOf (.dlv d) s, vOf (.dlv d) s, 255, by decide, issues_of (by decide +kernel), alone_of (by decide +kernel),
      calm_of (by decide +kernel), by unfold NamesClaim RefersTo; decide +kernel, notDue_of (by decide +kernel),
      by decide +kernel⟩,
    ⟨d, n, tOf (.dlv d) n, vOf (.dlv d) n, by decide, issues_of (by decide +kernel), alone_of (by decide +kernel),
      calm_of (by decide +kernel), by decide +kernel, ?_, by decide +kernel⟩,
    ⟨e, s, tOf (.cdrop e) s, vOf (.cdrop e) s, 255, issues_of (by decide +kernel), alone_of (by decide +kernel),
      calm_of (by decide +kernel), by unfold RefersTo; decide +kernel, notDue_of (by decide +kernel),
      by decide +kernel⟩,
    ⟨e, n, tOf (.cdrop e) n, vOf (.cdrop e) n, issues_of (by decide +kernel), alone_of (by decide +kernel),
      calm_of (by decide +kernel), ?_, notDue_of (by decide +kernel)⟩⟩
  · have hv : (vOf (.dlv d) n).a = BitVec.ofNat 64 name255 := by decide +kernel
    rw [hv]; exact fun i h => absurd h.1 (stale _ (by decide +kernel) i)
  · have hv : (vOf (.cdrop e) n).a = BitVec.ofNat 64 name255 := by decide +kernel
    rw [hv]; exact fun i h => stale _ (by decide +kernel) i h.1

/-- A delivery at the head of a claim table's FIFO, to a valid claim and to none; a claim past its deadline. -/
theorem test_witness_ClaimsAtTheirTable :
    (∃ (id i c : Nat) (s : State) (a : Access), s.atHead id = some a ∧ a.kind = .dlv ∧ NamesClaim s (BitVec.ofNat 64 a.va) c i ∧
      ¬ ClaimDue s c i ∧ s.reach (a.core / 512) (c / 512) = true ∧ ((s.core c).claim i).saved = none ∧
      (s.slot c ((s.core c).claim i).slot).paired = false ∧ (s.core c).spilling ≠ some ((s.core c).claim i).slot) ∧
    (∃ (id i c : Nat) (s : State) (a : Access), s.atHead id = some a ∧ a.kind = .dlv ∧ NamesClaim s (BitVec.ofNat 64 a.va) c i ∧
      ¬ ClaimDue s c i ∧ s.reach (a.core / 512) (c / 512) = true ∧ ((s.core c).claim i).saved = none ∧
      (s.slot c ((s.core c).claim i).slot).paired = false ∧ (s.core c).spilling = some ((s.core c).claim i).slot) ∧
    (∃ (id c : Nat) (s : State) (a : Access), s.atHead id = some a ∧ a.kind = .dlv ∧ coreOf (BitVec.ofNat 64 a.va) = c ∧
      (s.core c).spilling = none ∧ s.reach (a.core / 512) (c / 512) = true ∧ (∀ i, ¬ NamesClaim s (BitVec.ofNat 64 a.va) c i) ∧
      (∀ i, ¬ ClaimDue s c i)) ∧
    (∃ (id c : Nat) (s : State) (a : Access), s.atHead id = some a ∧ a.kind = .dlv ∧ coreOf (BitVec.ofNat 64 a.va) = c ∧
      (s.core c).spilling = none ∧ s.reach (a.core / 512) (c / 512) = false) ∧
    (∃ (c i t0 : Nat) (s : State), ((s.core c).claim i).valid = true ∧ ((s.core c).claim i).deadline = some t0 ∧ t0 ≤ s.now c ∧
      ((s.core c).claim i).saved = none ∧ (s.slot c ((s.core c).claim i).slot).paired = false) :=
  let a : Access := { req .dlv (.claims 0) with va := name255, core := 511 }
  let b : Access := { a with core := 1024 }
  ⟨⟨1, 255, 0, flying a (claiming [] [(255, { valid := true, gen := 1 })]), a, by decide +kernel, rfl,
    by unfold NamesClaim RefersTo; decide +kernel, notDue_of (by decide +kernel), by decide +kernel⟩,
   ⟨1, 255, 0, flying a (world { slots := [(0, { task with spill := some .priority })], spillQ := [0], claims := [(255, { valid := true, gen := 1 })] }),
    a, by decide +kernel, rfl, by unfold NamesClaim RefersTo; decide +kernel, notDue_of (by decide +kernel), by decide +kernel⟩,
   ⟨1, 0, flying a State.reset, a, by decide +kernel, rfl, by decide, rfl, by decide +kernel, fun _ h => Bool.false_ne_true h.1.2.2.1,
    fun _ => notDue_of rfl⟩,
   ⟨1, 0, flying b ({ State.reset with devs := [(0, { fenced := true })] } : State), b, by decide +kernel, rfl, by decide, rfl, by decide +kernel⟩,
   ⟨0, 255, 0, claiming [] [(255, { valid := true, deadline := some 0 })], by decide +kernel⟩⟩

/-! ### Tokens -/

/-- `mapped` on a device that minted entry 16382 last. -/
def Sys2Proof.Tests.minting (l : List Nat) : State := { mapped l with devs := [(0, { lastMint := 16382 })] }

theorem test_witness_TokenInstructionsAreSent :
    (∃ (o : Opnd) (s t : State) (v : Vals) (e : Tlb) (pa i : Nat), o.rlx = false ∧ o.d.toNat < 128 ∧ Issues (.stt o) s v t ∧ Alone s ∧
      Quiet t ∧ s.cur.2 ≠ 62 ∧ RemoteDram (.stt o) t v e pa ∧ t.nextToken (s.cur.1 / 512) = some i) ∧
    (∃ (o : Opnd) (s t : State) (v : Vals) (e : Tlb) (pa : Nat), o.rlx = false ∧ Issues (.stw o) s v t ∧ Alone s ∧ Quiet t ∧ s.cur.2 ≠ 62 ∧
      RemoteDram (.stw o) t v e pa) ∧
    (∃ (o : Opnd) (s t : State) (v : Vals), Issues (.tokq o) s v t ∧ Alone s ∧ Quiet t ∧ s.cur.2 ≠ 62 ∧ v.a.toNat < 2 ^ 32) ∧
    (∃ (o : Opnd) (s t : State) (v : Vals), Issues (.tokq o) s v t ∧ Alone s ∧ Quiet t ∧ s.cur.2 ≠ 62 ∧ 2 ^ 32 ≤ v.a.toNat) :=
  let o := op 3 1 145 2 3
  let w := op 4 1 145 2 0x83
  let q := op 3 2 0 0
  let s := minting [0, 0x10000000FFF8, 2 ^ 32 - 1, 0, 5]
  let z := regs [0, 0, 2 ^ 32]
  ⟨⟨o, s, tOf (.stt o) s, vOf (.stt o) s, leaf, dramSize - 8, 16383, by decide, by decide, issues_of (by decide +kernel), alone_of (by decide +kernel),
    calm_of (by decide +kernel), by decide, remote_of (by decide +kernel), by decide +kernel⟩,
   ⟨w, s, tOf (.stw w) s, vOf (.stw w) s, leaf, dramSize - 8, by decide, issues_of (by decide +kernel), alone_of (by decide +kernel),
    calm_of (by decide +kernel), by decide, remote_of (by decide +kernel)⟩,
   ⟨q, s, tOf (.tokq q) s, vOf (.tokq q) s, issues_of (by decide +kernel), alone_of (by decide +kernel),
    calm_of (by decide +kernel), by decide, by decide +kernel⟩,
   ⟨q, z, tOf (.tokq q) z, vOf (.tokq q) z, issues_of (by decide +kernel), alone_of (by decide +kernel),
    calm_of (by decide +kernel), by decide, by decide +kernel⟩⟩

/-- Entry 16383 of device 0's token table, INFLIGHT or EXPIRED, with deadline 0. -/
def Sys2Proof.Tests.tokens (st : TokSt) (net : List Access) (fifo : List Nat) : State :=
  { State.reset with devs := [(0, { tokens := [(16383, { st := st, gen := 4095 })] })], net := net, fifo := fifo, nextId := 3 }

theorem test_witness_TokensLandAndExpire :
    (∀ ok : Bool, ∃ (id d i g : Nat) (s : State) (a : Access), s.atHead id = some a ∧ a.kind = .notice ok ∧ NamesToken a d i g ∧
      s.reach (a.core / 512) d = true ∧ (s.token d i).st = .inflight ∧ (s.token d i).gen.toNat = g) ∧
    (∃ (d i : Nat) (s : State), (s.token d i).st = .inflight ∧ (s.token d i).deadline ≤ (s.dv d).cycle) ∧
    (∃ (d i : Nat) (s : State), (s.token d i).st = .expired ∧ (s.token d i).deadline ≤ (s.dv d).cycle) ∧
    (∃ (id : Nat) (s : State) (a : Access), s.acc id = some a ∧ a.kind = .stw ∧ a.stage = .sent ∧
      s.reach (a.core / 512) (holdDie a.home).1 = true ∧ (s.net.filter (fun b => b.stage == .hold && holdDie b.home == holdDie a.home)).length < 256) ∧
    (∀ st ∈ [TokSt.inflight, .expired], ∃ (id d i g hold : Nat) (s : State) (a h : Access), s.atHead id = some a ∧ a.kind = .query hold ∧
      NamesToken a d i g ∧ hold ≠ id ∧ s.acc hold = some h ∧ a.aux.toNat < 2 ∧ a.core / 512 = d ∧ (s.dv d).fenced = false ∧ (s.token d i).st = st) ∧
    (∀ gone : Bool, ∃ (id d i g hold : Nat) (s : State) (a h : Access), s.atHead id = some a ∧ a.kind = .query hold ∧
      NamesToken a d i g ∧ hold ≠ id ∧ s.acc hold = some h ∧ a.aux.toNat < 2 ∧ a.core / 512 ≠ d ∧ (s.dv (a.core / 512)).fenced = gone ∧
      s.reach (a.core / 512) d = false ∧ h.answers = []) ∧
    (∃ (id : Nat) (s : State) (a h : Access), s.acc id = some a ∧ a.kind = .answer true ∧ a.stage = .sent ∧ a.aside = false ∧
      a.elems = [] ∧ a.aux.toNat / 2 ≠ id ∧ s.acc (a.aux.toNat / 2) = some h ∧ h.answers = [] ∧ s.reach (a.core / 512) a.home.dev = true) ∧
    (∃ (id : Nat) (s : State) (a : Access), s.acc id = some a ∧ a.stage = .hold ∧ (∀ p ∈ a.answers, p.2 = true) ∧ a.answers.length = a.bulk.length) ∧
    (∃ (id : Nat) (s : State) (a : Access) (tok : Nat), s.acc id = some a ∧ a.stage = .hold ∧ firstExpired a = some tok ∧ a.relaxed = false) := by
  have hw : (0x3FFFFFF : Word).toNat / 2 ^ 26 % 64 = 0 ∧ (0x3FFFFFF : Word).toNat / 2 ^ 12 % 2 ^ 14 = 16383 ∧ (0x3FFFFFF : Word).toNat % 2 ^ 12 = 4095 := by decide
  let h : Access := { req .stw (.slice 0 63) .hold with id := 2, bulk := [5] }
  refine ⟨?_, ⟨0, 16383, tokens .inflight [] [], by decide +kernel⟩, ⟨0, 16383, tokens .expired [] [], by decide +kernel⟩,
    ⟨1, flying (req .stw (.slice 0 63) .sent) (regs []), req .stw (.slice 0 63) .sent, by decide +kernel⟩, ?_, ?_,
    ⟨1, { tokens .free [{ req (.answer true) (.part 0 3) .sent with aux := 4 }, h] [] with agenda := [] },
      { req (.answer true) (.part 0 3) .sent with aux := 4 }, h, by decide +kernel⟩,
    ⟨1, flying { req .stw (.slice 0 63) .hold with bulk := [5], answers := [(0, true)] } (regs []),
      { req .stw (.slice 0 63) .hold with bulk := [5], answers := [(0, true)] }, by decide +kernel⟩,
    ⟨1, flying { req .stw (.slice 0 63) .hold with bulk := [5], answers := [(0, false)] } (regs []),
      { req .stw (.slice 0 63) .hold with bulk := [5], answers := [(0, false)] }, 5, by decide +kernel⟩⟩
  · intro ok
    let a : Access := { req (.notice ok) (.tokens 0) with val := 0x3FFFFFF }
    have ha : (tokens .inflight [a] [1]).atHead 1 = some a := by cases ok <;> decide +kernel
    exact ⟨1, 0, 16383, 4095, tokens .inflight [a] [1], a, ha, rfl, hw, by simp [State.reach, a, req], rfl, rfl⟩
  · intro st hst
    let a : Access := { req (.query 2) (.tokens 0) with val := 0x3FFFFFF, aux := 1 }
    have ha : ∀ st ∈ [TokSt.inflight, .expired], (tokens st [a, h] [1]).atHead 1 = some a ∧ (tokens st [a, h] [1]).acc 2 = some h ∧
      ((tokens st [a, h] [1]).dv 0).fenced = false ∧ ((tokens st [a, h] [1]).token 0 16383).st = st := by decide +kernel
    exact ⟨1, 0, 16383, 4095, 2, tokens st [a, h] [1], a, h, (ha st hst).1, rfl, hw, by decide, (ha st hst).2.1, by decide, by decide, (ha st hst).2.2.1, (ha st hst).2.2.2⟩
  · intro gone
    let a : Access := { req (.query 2) (.tokens 0) with val := 0x3FFFFFF, aux := 1, core := 512 }
    let s (gone : Bool) : State := { tokens .free [a, h] [1] with devs := [(1, { fenced := gone, stage := 3 })] }
    have ha : ∀ gone : Bool, (s gone).atHead 1 = some a ∧ (s gone).acc 2 = some h ∧ ((s gone).dv (a.core / 512)).fenced = gone ∧
      (s gone).reach (a.core / 512) 0 = false := by decide +kernel
    exact ⟨1, 0, 16383, 4095, 2, s gone, a, h, (ha gone).1, rfl, hw, by decide, (ha gone).2.1, by decide, by decide, (ha gone).2.2.1,
      (ha gone).2.2.2, rfl⟩

/-! ### Messages, semaphores, kicks -/

theorem test_witness_MessagesAndKicks :
    (∀ l ∈ [[], [Msg.mk (BitVec.ofNat 64 (2 ^ 63)) false]], ∃ (o : Opnd) (s t t' : State) (v v' : Vals), Issues (.wmsg o) s v t ∧
      Issues (.wmsgCount o) s v' t' ∧ Alone s ∧ t.here.msgs = l ∧ t'.here.msgs = l ∧ o.d.toNat < 128) ∧
    (∃ (o : Opnd) (s t : State) (v : Vals), Issues (.send o) s v t ∧ Alone s ∧ Quiet t ∧ s.cur.2 ≠ 62 ∧ 0x8000 ≤ v.b.toNat / 2 ^ 48 ∧
      v.a.toNat / 2 ^ 32 % 2 ^ 11 = 0 ∧ coreOf v.a = s.cur.1 ∧ (t.slot s.cur.1 (v.a.toNat / 2 ^ 43 % 64)).live = true ∧
      v.a.toNat / 2 ^ 43 % 64 ≠ 62 ∧ (t.slot s.cur.1 (v.a.toNat / 2 ^ 43 % 64)).taskw.toNat % 2 ^ 32 = v.a.toNat % 2 ^ 32 ∧
      ((t.slot s.cur.1 (v.a.toNat / 2 ^ 43 % 64)).msgs.filter (fun m => !m.sys)).length < 8) ∧
    (∃ (o : Opnd) (s t : State) (v : Vals), Issues (.send o) s v t ∧ Alone s ∧ Quiet t ∧ s.cur.2 ≠ 62 ∧ 0x8000 ≤ v.b.toNat / 2 ^ 48 ∧
      v.a.toNat / 2 ^ 32 % 2 ^ 11 = 0 ∧ coreOf v.a ≠ s.cur.1) ∧
    (∀ c ∈ [0, 511], ∃ (o : Opnd) (s t t' : State) (v v' : Vals), Issues (.sendAm o) s v t ∧ Issues (.kick o) s v' t' ∧ Alone s ∧ Quiet t ∧ Quiet t' ∧
      s.cur.2 ≠ 62 ∧ v.a.toNat % 2 ^ 49 = 0 ∧ v'.a.toNat % 2 ^ 49 = 0 ∧ coreOf v.a = c ∧ coreOf v'.a = c ∧ t'.here.sysUse < 8 ∧
      (t'.core s.cur.1).kicks.length < 32) ∧
    (∃ (id c n : Nat) (s : State) (a : Access), s.atHead id = some a ∧ a.kind = .send ∧ coreOf (BitVec.ofNat 64 a.va) = c ∧
      a.va / 2 ^ 43 % 64 = n ∧ s.reach (a.core / 512) (c / 512) = true ∧ (s.slot c n).live = true ∧ n ≠ 62 ∧
      (s.slot c n).taskw.toNat % 2 ^ 32 = a.va % 2 ^ 32) ∧
    (∀ full : Bool, ∃ (id c : Nat) (s : State) (a : Access), s.atHead id = some a ∧ a.kind = .kick ∧ coreOf (BitVec.ofNat 64 a.va) = c ∧
      s.reach (a.core / 512) (c / 512) = true ∧ (if full then 32 ≤ (s.core c).kicks.length else (s.core c).kicks.length < 32)) := by
  let o := op 3 1 2 0
  let s := regs [0, 5, 2 ^ 63]
  let z := regs [0, 2 ^ 49, 2 ^ 63]
  refine ⟨?_, ⟨o, s, tOf (.send o) s, vOf (.send o) s, issues_of (by decide +kernel), alone_of (by decide +kernel),
      calm_of (by decide +kernel), by decide, by decide +kernel⟩,
    ⟨o, z, tOf (.send o) z, vOf (.send o) z, issues_of (by decide +kernel), alone_of (by decide +kernel),
      calm_of (by decide +kernel), by decide, by decide +kernel⟩, ?_, ?_, ?_⟩
  · intro l hl
    have h : ∀ l ∈ [[], [Msg.mk (BitVec.ofNat 64 (2 ^ 63)) false]], (issued (.wmsg (op 3 0 0 0)) (with0 { task with msgs := l } [])).isSome = true ∧
        (issued (.wmsgCount (op 3 0 0 0)) (with0 { task with msgs := l } [])).isSome = true ∧
        (tOf (.wmsg (op 3 0 0 0)) (with0 { task with msgs := l } [])).here.msgs = l ∧
        (tOf (.wmsgCount (op 3 0 0 0)) (with0 { task with msgs := l } [])).here.msgs = l := by decide +kernel
    exact ⟨op 3 0 0 0, with0 { task with msgs := l } [], _, _, _, _, issues_of (h l hl).1, issues_of (h l hl).2.1, alone_of rfl, (h l hl).2.2.1,
      (h l hl).2.2.2, by decide⟩
  · intro c hc
    have h : ∀ c ∈ [0, 511], (let s := regs [0, c * 2 ^ 49, 2 ^ 63]
      let i := Instr.sendAm (op 0 1 2 2)
      let j := Instr.kick (op 0 1 2 2)
      (issued i s).isSome = true ∧ (issued j s).isSome = true ∧ ((tOf i s).own 0 0 = [] ∧ (tOf i s).here.acqs = [] ∧ (tOf i s).here.rels = []) ∧
      ((tOf i s).core 0).seq = [] ∧ ((tOf j s).own 0 0 = [] ∧ (tOf j s).here.acqs = [] ∧ (tOf j s).here.rels = []) ∧ ((tOf j s).core 0).seq = [] ∧
      (tOf i s).cur = (0, 0) ∧ (tOf j s).cur = (0, 0) ∧
      ((vOf i s).a.toNat % 2 ^ 49 = 0 ∧ (vOf j s).a.toNat % 2 ^ 49 = 0 ∧ coreOf (vOf i s).a = c ∧ coreOf (vOf j s).a = c ∧ (tOf j s).here.sysUse < 8 ∧
      ((tOf j s).core 0).kicks.length < 32)) := by decide +kernel
    obtain ⟨h1, h2, h3, h4, h5, h6, h7, h8, h9⟩ := h c hc
    exact ⟨op 0 1 2 2, regs [0, c * 2 ^ 49, 2 ^ 63], _, _, _, _, issues_of h1, issues_of h2, alone_of rfl, quiet_of (by rw [h7]; exact h3) (by rw [h7]; exact h4),
      quiet_of (by rw [h8]; exact h5) (by rw [h8]; exact h6), show (0 : Nat) ≠ 62 by decide, h9⟩
  · exact ⟨1, 0, 0, flying { req .send (.msgs 0) with va := 5, core := 511 } (regs []), { req .send (.msgs 0) with va := 5, core := 511 }, by decide +kernel⟩
  · intro full
    let q : Kick := ⟨0, 0, 0, 0⟩
    have h : ∀ full : Bool, (let s := flying (req .kick (.kicks 0)) (world { slots := [(0, task)], kicks := List.replicate (if full then 32 else 31) q })
      s.atHead 1 = some (req .kick (.kicks 0)) ∧ s.reach 0 0 = true ∧
      (if full then 32 ≤ (s.core 0).kicks.length else (s.core 0).kicks.length < 32)) := by decide +kernel
    exact ⟨1, 0, _, _, (h full).1, rfl, by decide +kernel, (h full).2.1, (h full).2.2⟩

theorem test_witness_Semaphores :
    (∀ m ∈ [(0x0F : BitVec 14), 0x1F, 0x2F], ∃ (o : Opnd) (s t : State) (v : Vals) (i : Instr), o.fn = m ∧
      i ∈ [Instr.semWait o, .semPost o, .semTry o] ∧ wellFormed i = true ∧ Issues i s v t ∧ Alone s ∧ ((t.core s.cur.1).sem (m.toNat % 16)).waiters = []) ∧
    (∃ (o : Opnd) (s t : State) (v : Vals) (w : Nat) (r : List Nat), Issues (.semPost o) s v t ∧ Alone s ∧
      ((t.core s.cur.1).sem (o.fn.toNat % 16)).waiters = w :: r ∧ ((t.core s.cur.1).sem (o.fn.toNat % 16)).count = 0 ∧ (t.slot s.cur.1 w).paired = false) := by
  let s := regs []
  let z := world { slots := [(0, task), (63, { task with run := .out [.sem 15] })], sems := [(15, { waiters := [63] })] }
  refine ⟨?_, ⟨op 0 0 0 0 0x1F, z, tOf (.semPost (op 0 0 0 0 0x1F)) z, vOf (.semPost (op 0 0 0 0 0x1F)) z, 63, [], issues_of (by decide +kernel),
    alone_of (by decide +kernel), by decide +kernel⟩⟩
  intro m hm
  simp only [List.mem_cons, List.not_mem_nil, or_false] at hm
  rcases hm with rfl | rfl | rfl
  · exact ⟨op 0 0 0 0 0x0F, s, tOf (.semWait (op 0 0 0 0 0x0F)) s, _, .semWait (op 0 0 0 0 0x0F), rfl, by simp, by decide +kernel, issues_of (by decide +kernel), alone_of rfl, by decide +kernel⟩
  · exact ⟨op 0 0 0 0 0x1F, s, tOf (.semPost (op 0 0 0 0 0x1F)) s, _, .semPost (op 0 0 0 0 0x1F), rfl, by simp, by decide +kernel, issues_of (by decide +kernel), alone_of rfl, by decide +kernel⟩
  · exact ⟨op 0 0 0 0 0x2F, s, tOf (.semTry (op 0 0 0 0 0x2F)) s, _, .semTry (op 0 0 0 0 0x2F), rfl, by simp, by decide +kernel, issues_of (by decide +kernel), alone_of rfl, by decide +kernel⟩

theorem test_witness_HandlersAndTheRunQueue :
    (∃ (c : Nat) (s : State) (a : Access), s.headAt (.memPort c) = some a ∧ a.kind = .am ∧ s.reach (a.core / 512) (c / 512) = true ∧
      (s.core c).traceEn = false) ∧
    (∃ (c : Nat) (s : State) (m : Am), (s.core c).am = some m ∧ 256 ≤ m.count) ∧
    (∃ (c : Nat) (s : State) (e f : PEntry), (s.core c).runqWait = [e, f] ∧ ((s.core c).port (runqKey (prioOf e.val))).length < 64) :=
  ⟨⟨0, flying (req .am (.memPort 0)) (regs []), req .am (.memPort 0), by decide +kernel⟩,
   ⟨0, world { am := some ⟨0, 0, 256, none⟩ }, ⟨0, 0, 256, none⟩, by decide +kernel⟩,
   ⟨0, world { runqWait := [{ val := 0xC000000000000000 }, { val := 1 }] }, { val := 0xC000000000000000 }, { val := 1 }, by decide +kernel⟩⟩
end

