-- ==== Sys2Proof/Tests/WitnessUnits.lean ====
section
/-! SUPPORT. States and operands that meet the hypotheses of the statements about tasks, levels, haulage, jobs, chains,
gangs, pairs and translation, clause by clause. -/

set_option Elab.async false

open Sys2Proof Sys2Proof.Machine Sys2Proof.Tests

namespace Sys2Proof.Tests

/-- A node record whose first three dwords are the ones given (R292). -/
def nodeOf (w0 w1 w2 : Nat) : GNode :=
  { raw := [BitVec.ofNat 64 w0, BitVec.ofNat 64 w1, BitVec.ofNat 64 w2, 0, 0, 0, 0, 0, 0, 0], regs := List.replicate 24 7, reads := [], writes := [] }

/-- Graph 0 of device 0 with these nodes and launches, in space 1; completion entries in the scratchpad window. -/
def graphOf (nodes : List GNode) (ls : List Launch) : Graph :=
  { space := 1, compl := 0x10000000000, errq := 0x10000001000, save := 0x10000002000, saven := 4, nodes := nodes, launches := ls }

/-- The first launch, with every node eligible. -/
def launch0 (n : Nat) : Launch := { no := 0, regs := [], nodes := List.replicate n .eligible, made := [] }

/-- `s` with graph 0 resident on device 0 and these task records. -/
def withGraph (g : Graph) (ts : SMap TaskRec) (s : State) : State :=
  { s with devs := [(0, { graphs := [(0, g)], tasks := ts, nextTask := 9 })] }

/-- A LEVEL node with the board given, step bound 9. -/
def levelNode (b : List Block) : GNode :=
  { nodeOf (2 * 2 ^ 62 + 32 * 2 ^ 24) 0x100000000000 2 with raw := [BitVec.ofNat 64 (2 * 2 ^ 62 + 32 * 2 ^ 24), 0x100000000000, 2, 0, 0, 0, 9, 0, 0, 0], board := b }

/-- Slot 63 of core 0 runs the haulage task. -/
def hauling (k : Core) : State := { world { k with slots := [(63, { task with haulage := true })] } with cur := (0, 63) }

/-- One row of eight bytes moved within the near window, up to its end. -/
def job1 : Job :=
  { no := 1, kind := 1, scope := 5, raw := true, sem := none, redop := 0, esize := 0, card := 2 ^ 24 - 64, src := 0, dst := 2 ^ 24 - 8,
    ex := 8, ey := 1, ez := 1, sy := 0, sz := 0, dy := 0, dz := 0, srcList := 0, dstList := 0, reads := [⟨0, 8⟩], writes := [⟨2 ^ 24 - 8, 8⟩],
    slot := 5, task := 1, space := 1, taskw := 5, launch := 0, notify := none, going := true }

/-- A state whose page tables map the last page of the translated region of space 1, tables at 64 KiB, 128 KiB, 192 KiB
and 256 KiB (R277, R278). -/
def tabled : State :=
  let va := 2 ^ 52 - 65536
  let s : State := { State.reset with devs := [(0, { roots := [(1, 0x10000)] })] }
  let s := s.writeNum 0 (.dram 0 (0x10000 + 16 * (va / 2 ^ 44 % 2 ^ 12))) 8 (2 ^ 63 + 0x20000)
  let s := s.writeNum 0 (.dram 0 (0x20000 + 16 * (va / 2 ^ 30 % 2 ^ 14))) 8 (2 ^ 63 + 0x70000)
  let s := s.writeNum 0 (.dram 0 (0x70000 + 16 * (va / 2 ^ 21 % 2 ^ 9))) 8 (2 ^ 63 + 0x80000)
  s.writeNum 0 (.dram 0 (0x80000 + 16 * (va / 2 ^ 16 % 2 ^ 5))) 8 (3 * 2 ^ 62 + 3)

end Sys2Proof.Tests

/-! ### Tasks and levels -/

theorem test_witness_GoMovesTheTask :
    (∃ (o : Opnd) (s t : State) (v : Vals) (e : Tlb) (pa : Nat), Issues (.go o) s v t ∧ Alone s ∧ t.own s.cur.1 s.cur.2 = [] ∧
      t.waitOver s.cur.1 s.cur.2 .vectorIdle = true ∧ t.waitOver s.cur.1 s.cur.2 .unitIdle = true ∧ CardInDram t (v.a + v.b) e pa ∧ e.tgt = 0 ∧ HeldToCore t) ∧
    (∃ (o : Opnd) (s t : State) (v : Vals) (e : Tlb) (pa : Nat), Issues (.go o) s v t ∧ Alone s ∧ t.own s.cur.1 s.cur.2 = [] ∧
      t.waitOver s.cur.1 s.cur.2 .vectorIdle = true ∧ t.waitOver s.cur.1 s.cur.2 .unitIdle = true ∧ CardInDram t (v.a + v.b) e pa ∧ e.tgt = 0 ∧ ¬ HeldToCore t ∧
      within (o.fn.toNat % 8) (sliceCore (sliceOf pa)) (s.cur.1 % 512) = true ∧ e.owner = none) ∧
    (∃ (o : Opnd) (s t : State) (v : Vals) (e : Tlb) (pa : Nat) (r : TaskRec), Issues (.go o) s v t ∧ Alone s ∧ t.own s.cur.1 s.cur.2 = [] ∧
      t.waitOver s.cur.1 s.cur.2 .vectorIdle = true ∧ t.waitOver s.cur.1 s.cur.2 .unitIdle = true ∧ CardInDram t (v.a + v.b) e pa ∧ e.tgt = 0 ∧ ¬ HeldToCore t ∧ e.owner = none ∧
      within (o.fn.toNat % 8) (sliceCore (sliceOf pa)) (s.cur.1 % 512) = false ∧ t.taskRec (s.cur.1 / 512) t.here.task = some r) ∧
    (∃ (d k : Nat) (s : State) (r : TaskRec) (y : Carry) (q : Seat), s.taskRec d k = some r ∧ r.st = .transit ∧ r.carry = some y ∧
      s.moveSeats d r = [q] ∧ (∀ p ∈ (s.ranked d).takeWhile (fun p => p.1 != k), s.seatable d p.1 p.2 = false)) := by
  let far : Tlb := { leaf with frame := 0 }
  let k (l : Nat) : Core := { slots := [(0, { task with vcount := l })], sfile := file [0, 0x10000000F800], tlb := [far] }
  let o := op 0 1 145 0 4
  let z := op 0 1 145 0 0
  let r : TaskRec := { graph := 0, node := 0, num := 0, launch := 0, st := .seated }
  let y : Carry := { slot := { task with vcount := 0 }, regs := [], hint := 511, radius := 0 }
  let held := world (k 32)
  let free : State := withGraph (graphOf [nodeOf 0 0 1] []) [(1, r)] (world (k 0))
  let moving : State := withGraph (graphOf [nodeOf 0 0 1] []) [(1, { r with st := .transit, carry := some y })] State.reset
  have still : ∀ q : Opnd, (let x := tOf (.go q) free
      decide ((x.core 0).chains = []) && decide ((x.core 0).claims = []) && decide (x.cur = (0, 0)) && decide (x.here.vcount = 0) &&
        !x.here.matrix && !x.here.paired && !x.here.gang && decide (x.here.msgs = []) && decide (x.here.booked = 0)) = true →
      ¬ HeldToCore (tOf (.go q) free) := by
    intro q hq h
    simp only [Bool.and_eq_true, Bool.not_eq_true', decide_eq_true_eq] at hq
    obtain ⟨⟨⟨⟨⟨⟨⟨⟨h1, h2⟩, h3⟩, a⟩, b⟩, c⟩, d⟩, e⟩, f⟩ := hq
    rcases h with h | h | h | h | h | h | h | h | h
    · omega
    · rw [b] at h; exact absurd h (by decide)
    · rw [c] at h; exact absurd h (by decide)
    · rw [d] at h; exact absurd h (by decide)
    · rw [h3] at h; exact absurd h (by decide)
    · exact h e
    · omega
    · rw [h3, h2] at h; simp at h
    · rw [h3] at h; simp [Core.chain, h1, tabGet] at h
  refine ⟨⟨o, held, tOf (.go o) held, vOf (.go o) held, far, 0xF800, issues_of (by decide +kernel), alone_of (by decide +kernel),
      first3 (by decide +kernel) ⟨by unfold CardInDram; decide +kernel, by decide +kernel, .inl (by decide +kernel)⟩⟩,
    ⟨o, free, tOf (.go o) free, vOf (.go o) free, far, 0xF800, issues_of (by decide +kernel), alone_of (by decide +kernel),
      first3 (by decide +kernel) ⟨by unfold CardInDram; decide +kernel, by decide +kernel, still o (by decide +kernel), by decide +kernel⟩⟩,
    ⟨z, free, tOf (.go z) free, vOf (.go z) free, far, 0xF800, r, issues_of (by decide +kernel), alone_of (by decide +kernel),
      first3 (by decide +kernel) ⟨by unfold CardInDram; decide +kernel, by decide +kernel, still z (by decide +kernel), by decide +kernel⟩⟩,
    ⟨0, 1, moving, { r with st := .transit, carry := some y }, y, (moving.moveSeats 0 { r with st := .transit, carry := some y })[0]?.getD ⟨0, 0, 0, 0, 0⟩,
      by decide +kernel⟩⟩

/-- What a list of loads answers, where it answers. -/
theorem loads_of {x : State × Except Trap (List Reply)} (h : (match x.2 with | .ok _ => true | _ => false) = true) :
    x = (x.1, .ok (match x.2 with | .ok l => l | _ => [])) := by
  obtain ⟨a, b⟩ := x
  cases b with
  | error t => simp at h
  | ok l => rfl

/-- A block that runs at level 0 with step 1 beside one at level 7, which it has recorded. -/
def Sys2Proof.Tests.running : Block := { st := .running, nbrs := [1], recs := [⟨7, 6, 0, 0⟩] }

/-- A task of block 0 of a LEVEL node with the board given. -/
def Sys2Proof.Tests.levels (l : List Nat) (b : List Block) : State :=
  withGraph (graphOf [levelNode b] [launch0 1]) [] (with0 { task with level := true, taskw := 0 } l)

theorem test_witness_SpawnAndLevels :
    (∃ (o : Opnd) (s t : State) (v : Vals), Issues (.spawn o) s v t ∧ Alone s ∧ Quiet t ∧ o.d.toNat < 128 ∧ v.a.toNat < 2 ^ 12 ∧ v.b.toNat % 8 = 0) ∧
    (∃ (o : Opnd) (s t : State) (v : Vals), Issues (.lvget o) s v t ∧ Alone s ∧ Quiet t ∧ o.d.toNat < 128 ∧ s.cur.2 ≠ 62) ∧
    (∃ (id item w : Nat) (s : State) (a : Access), s.atHead id = some a ∧ a.kind = .lvget item ∧ 8 ≤ item ∧
      (let nd := s.gnode (a.core / 512) (a.taskw.toNat / 2 ^ 44 % 64) (a.taskw.toNat / 2 ^ 32 % 2 ^ 12)
       let b := a.taskw.toNat % 2 ^ 16
       a.va < (nth {} nd.board b).nbrs.length ∧ levelItem nd b a.va item = some w)) :=
  let o := op 3 1 2 0
  let s := regs [0, 4095, 0xFFFFF8]
  let g := op 127 0 1 0 12
  let z := levels [0, 0] [running, { level := 7 }]
  ⟨⟨o, s, tOf (.spawn o) s, vOf (.spawn o) s, issues_of (by decide +kernel), alone_of (by decide +kernel),
      calm_of (by decide +kernel), by decide, by decide +kernel⟩,
   ⟨g, z, tOf (.lvget g) z, vOf (.lvget g) z, issues_of (by decide +kernel), alone_of (by decide +kernel),
      calm_of (by decide +kernel), by decide, by decide⟩,
   ⟨1, 8, 7, flying { req (.lvget 8) (.part 0 0) with taskw := 0 } z, { req (.lvget 8) (.part 0 0) with taskw := 0 }, by decide +kernel⟩⟩

/-- A step bound of 9, and steps of 9 and 10. -/
theorem test_witness_SpawnAndLevels_commit : ∀ x ∈ [9, 10], ∃ (o : Opnd) (s t : State) (v : Vals), Issues (.lvcommit o) s v t ∧ Alone s ∧ Quiet t ∧
    s.cur.2 ≠ 62 ∧ t.unitsBusy s.cur.1 s.cur.2 = [] ∧ v.a.toNat = x ∧
    (let nd := t.gnode (s.cur.1 / 512) (t.here.taskw.toNat / 2 ^ 44 % 64) (t.here.taskw.toNat / 2 ^ 32 % 2 ^ 12)
     let b := nth {} nd.board (t.here.taskw.toNat % 2 ^ 16)
     b.committed = false ∧ b.spread = false ∧ nd.stepmax = 9) := by
  intro x hx
  simp only [List.mem_cons, List.not_mem_nil, or_false] at hx
  let c := op 0 1 0 0
  rcases hx with rfl | rfl
  · let s := levels [0, 9] [running]
    exact ⟨c, s, tOf (.lvcommit c) s, vOf (.lvcommit c) s, issues_of (by decide +kernel), alone_of (by decide +kernel), calm_of (by decide +kernel),
      by decide, by decide +kernel⟩
  · let s := levels [0, 10] [running]
    exact ⟨c, s, tOf (.lvcommit c) s, vOf (.lvcommit c) s, issues_of (by decide +kernel), alone_of (by decide +kernel), calm_of (by decide +kernel),
      by decide, by decide +kernel⟩

/-- A spawn request at the head of its partition, its record at the end of the near window. -/
def Sys2Proof.Tests.spawning : Access := { req .spawn (.part 0 0) with taskw := 0, va := 0xFFFF40 }
def Sys2Proof.Tests.spawnWorld : State := flying spawning (withGraph (graphOf [nodeOf 0 0 1] [launch0 1]) [] (regs []))

theorem test_witness_SpawnAndLevels_spawn : ∃ (id lno : Nat) (s t : State) (a : Access) (rs : List Reply) (l : Launch), s.atHead id = some a ∧
    a.kind = .spawn ∧
    (let d := a.core / 512
     let g := a.taskw.toNat / 2 ^ 44 % 64
     let node := a.val.toNat % 2 ^ 12
     s.unitLoads a.core a.slot a.space a.va 24 = (t, .ok rs) ∧ a.aux.toNat = lno ∧ (t.graph d g).launch lno = some l ∧
     node < (t.graph d g).nodes.length ∧ (t.gnode d g node).kind = 0 ∧ nth .waiting l.nodes node ≠ .complete ∧
     (t.dv d).tasks.length < 262144) := by
  have h : (match (spawnWorld.unitLoads 0 0 1 0xFFFF40 24).2 with | .ok _ => true | _ => false) = true := by decide +kernel
  exact ⟨1, 0, spawnWorld, (spawnWorld.unitLoads 0 0 1 0xFFFF40 24).1, spawning, _, launch0 1, by decide +kernel, rfl, loads_of h, rfl, by decide +kernel⟩

/-- A commit that stays near the other block's level, and one that would spread 2^30 away. -/
theorem test_witness_SpawnAndLevels_served : ∀ far : Bool, ∃ (id : Nat) (s : State) (a : Access), s.atHead id = some a ∧ a.kind = .lvcommit ∧
    a.taskw = 0 ∧ a.core = 0 ∧ (s.block 0 0 0 0).st = .running ∧ (s.gnode 0 0 0).board.length = 2 ∧
    (let x := s.block 0 0 0 0
     let z := s.block 0 0 0 1
     z.st ≠ .done ∧ (far = true ↔ 2 ^ 30 ≤ |(x.level + x.step - z.level).toInt|)) := by
  intro far
  let a : Access := { req .lvcommit (.part 0 0) with taskw := 0 }
  cases far
  · exact ⟨1, flying a (levels [] [running, { level := 0x40000000 }]), a, by decide +kernel⟩
  · exact ⟨1, flying a (levels [] [running, { level := 0x40000001 }]), a, by decide +kernel⟩

/-! ### Haulage -/

theorem test_witness_HaulageInstructions :
    (∃ (o : Opnd) (s t : State) (v : Vals) (e : Tlb) (pa : Nat), Issues (.hcopy o) s v t ∧ Alone s ∧ Quiet t ∧ o.d.toNat < 128 ∧
      CardInDram t v.a e pa ∧ e.tgt = 0 ∧ t.replyUse s.cur.1 < 256) ∧
    (∀ bound : Bool, ∃ (o : Opnd) (s t : State) (v : Vals) (e : Tlb) (pa : Nat), Issues (.hstream o) s v t ∧ Alone s ∧ Quiet t ∧
      136 ≤ o.d.toNat ∧ o.d.toNat < 140 ∧ ((t.core s.cur.1).stream (o.d.toNat - 136)).bound = bound ∧ v.b.toNat < 62 ∧
      (t.slot s.cur.1 v.b.toNat).live = true ∧ CardInDram t v.a e pa ∧ e.tgt = 0 ∧ t.replyUse s.cur.1 < 256) ∧
    (∀ x ∈ [61, 62], ∃ (o : Opnd) (s t : State) (v : Vals), Issues (.hstream o) s v t ∧ Alone s ∧ Quiet t ∧
      136 ≤ o.d.toNat ∧ o.d.toNat < 140 ∧ ((t.core s.cur.1).stream (o.d.toNat - 136)).bound = false ∧ v.b.toNat = x ∧
      (61 < v.b.toNat ∨ (t.slot s.cur.1 v.b.toNat).live = false)) ∧
    (∃ (o : Opnd) (s t : State) (v : Vals), Issues (.hpull o) s v t ∧ Alone s ∧ (t.core s.cur.1).kicks = []) ∧
    (∃ (o : Opnd) (s t : State) (v : Vals) (q : Kick), Issues (.hpull o) s v t ∧ Alone s ∧ (t.core s.cur.1).kicks = [q] ∧ t.here.sysUse < 8 ∧
      (t.core s.cur.1).seq.length < 32 ∧ 2 ^ 48 ≤ q.notice.toNat ∧ o.d.toNat < 128) ∧
    (∀ has : Bool, ∃ (o : Opnd) (s t : State) (v : Vals), Issues (.hsub o) s v t ∧ Alone s ∧ Quiet t ∧ v.a.toNat < 2 ^ 16 ∧ v.b.toNat % 64 = 0 ∧
      v.c.toNat % 64 = 0 ∧ v.c ≠ 0 ∧ v.b.toNat + v.c.toNat ≤ 2 ^ 24 ∧ (t.core s.cur.1).subs.length < 32 ∧
      (if has then ∃ m ∈ (t.core s.cur.1).subs, m.tag = v.a.toNat else ∀ m ∈ (t.core s.cur.1).subs, m.tag ≠ v.a.toNat)) ∧
    (∃ (o : Opnd) (s t : State) (v : Vals), Issues (.hsubLeave o) s v t ∧ Alone s ∧ Quiet t) ∧
    (∃ (id : Nat) (s : State) (a : Access), s.atHead id = some a ∧ a.kind = .hsub ∧ a.dead = false ∧ (s.dv (a.core / 512)).members.length < 256 ∧ (s.core a.core).subs.length < 32) ∧
    (∃ (id : Nat) (s : State) (a : Access), s.atHead id = some a ∧ a.kind = .hleave) := by
  let o := op 3 1 0 0
  let m := op 139 1 2 0 1
  let h (b : Bool) (n : Nat) : State :=
    { world { slots := [(5, task), (63, { task with haulage := true })], sfile := file [0, 0x100000000000, n], tlb := [leaf],
              streams := [(3, { bound := b })] } with cur := (0, 63) }
  let p := op 127 1 2 0
  let q : Kick := ⟨BitVec.ofNat 64 (2 ^ 48), 1, 0, 5⟩
  let k0 := hauling {}
  let k1 := hauling { kicks := [q] }
  let u := op 0 1 2 3
  let subs (has : Bool) : State := hauling { sfile := file [0, 65535, 2 ^ 24 - 64, 64], subs := [⟨if has then 65535 else 65534, 0, 64, 1, true⟩] }
  refine ⟨⟨o, h false 5, tOf (.hcopy o) (h false 5), vOf (.hcopy o) (h false 5), leaf, dramSize - 65536, issues_of (by decide +kernel),
      alone_of (by decide +kernel), calm_of (by decide +kernel), by decide, by unfold CardInDram; decide +kernel, by decide +kernel⟩, ?_, ?_,
    ⟨p, k0, tOf (.hpull p) k0, vOf (.hpull p) k0, issues_of (by decide +kernel), alone_of (by decide +kernel), by decide +kernel⟩,
    ⟨p, k1, tOf (.hpull p) k1, vOf (.hpull p) k1, q, issues_of (by decide +kernel), alone_of (by decide +kernel), by decide +kernel⟩, ?_,
    ⟨op 0 1 0 0 1, k0, tOf (.hsubLeave (op 0 1 0 0 1)) k0, _, issues_of (by decide +kernel), alone_of (by decide +kernel), calm_of (by decide +kernel)⟩,
    ⟨1, flying (req .hsub (.root 0 0 5)) (regs []), req .hsub (.root 0 0 5), by decide +kernel⟩,
    ⟨1, flying (req .hleave (.root 0 0 5)) (regs []), req .hleave (.root 0 0 5), by decide +kernel⟩⟩
  · intro b
    cases b
    · exact ⟨m, h false 5, tOf (.hstream m) (h false 5), vOf (.hstream m) (h false 5), leaf, dramSize - 65536, issues_of (by decide +kernel),
        alone_of (by decide +kernel), calm_of (by decide +kernel), first5 (by decide +kernel) ⟨by unfold CardInDram; decide +kernel, by decide +kernel⟩⟩
    · exact ⟨m, h true 5, tOf (.hstream m) (h true 5), vOf (.hstream m) (h true 5), leaf, dramSize - 65536, issues_of (by decide +kernel),
        alone_of (by decide +kernel), calm_of (by decide +kernel), first5 (by decide +kernel) ⟨by unfold CardInDram; decide +kernel, by decide +kernel⟩⟩
  · intro x hx
    simp only [List.mem_cons, List.not_mem_nil, or_false] at hx
    rcases hx with rfl | rfl
    · exact ⟨m, h false 61, tOf (.hstream m) (h false 61), vOf (.hstream m) (h false 61), issues_of (by decide +kernel), alone_of (by decide +kernel),
        calm_of (by decide +kernel), by decide +kernel⟩
    · exact ⟨m, h false 62, tOf (.hstream m) (h false 62), vOf (.hstream m) (h false 62), issues_of (by decide +kernel), alone_of (by decide +kernel),
        calm_of (by decide +kernel), by decide +kernel⟩
  · intro b
    cases b
    · exact ⟨u, subs false, tOf (.hsub u) (subs false), vOf (.hsub u) (subs false), issues_of (by decide +kernel), alone_of (by decide +kernel),
        calm_of (by decide +kernel), by decide +kernel⟩
    · exact ⟨u, subs true, tOf (.hsub u) (subs true), vOf (.hsub u) (subs true), issues_of (by decide +kernel), alone_of (by decide +kernel),
        calm_of (by decide +kernel), by decide +kernel⟩

/-! ### Jobs -/

theorem near_of {s : State} {c space va n : Nat} (h : va + n ≤ 2 ^ 24) (ho : s.owner = []) : NearBytes s c space va n :=
  ⟨h, fun k _ => by simp [State.mayPad, State.ownerOf, ho, tabGet]⟩

/-- A state with these jobs in the sequencer, job 1 with one element whose read has returned. -/
def Sys2Proof.Tests.seqWorld (l : List Job) : State := world { seq := l }
def Sys2Proof.Tests.backRead : Access :=
  { req (.ld false) (.bank 0 0) .replied with slot := 64, n := 8, jobNo := 1, reply := { val := 7, poison := true, tag := 3 } }

/-- A job that meets an earlier one and one that does not, with room in its engine's queue and without; a destination in
device memory beside the core's quadrant. -/
theorem test_witness_JobsRun_go :
    (∀ meet : Bool, ∃ (c no : Nat) (s : State) (j : Job), (s.core c).job no = some j ∧ j.going = false ∧ j.backoff ≤ s.now c ∧
      (if meet then ∃ i ∈ (s.core c).seq.takeWhile (fun i => i.no != no), conflict i j = true
       else ∀ i ∈ (s.core c).seq.takeWhile (fun i => i.no != no), conflict i j = false)) ∧
    (∀ full : Bool, ∃ (c no : Nat) (s : State) (j : Job), (s.core c).job no = some j ∧ j.going = false ∧ j.backoff ≤ s.now c ∧
      (∀ i ∈ (s.core c).seq.takeWhile (fun i => i.no != no), conflict i j = false) ∧
      ((s.dv (c / 512)).engineQ (s.engineOf c j)).length = if full then 32 else 31) ∧
    (∃ (c no pa : Nat) (p : Option Tlb) (s : State) (j : Job), (s.core c).job no = some j ∧ j.going = false ∧ j.backoff ≤ s.now c ∧ j.kind ≠ 6 ∧
      s.placeVia c j.space j.dst .store = .at (.dram (c / 512) pa) p ∧ sliceOf pa / 16 = c % 512 / 128) := by
  let j2 : Job := { job1 with no := 2, going := false }
  let j1 : Job := { job1 with going := false }
  let s := seqWorld
  let q (n : Nat) : State := { s [j1] with devs := [(0, { engines := [((s [j1]).engineOf 0 j1, List.replicate n (0, 9))] })] }
  let far : Job := { j1 with dst := 2 ^ 52 - 65536 }
  let fs : State := { tabled with cores := [(0, { seq := [far] })] }
  refine ⟨?_, ?_, ?_⟩
  · intro b
    cases b
    · exact ⟨0, 2, s [{ job1 with writes := [⟨8, 8⟩], dst := 8, card := 512 }, j2], j2, by decide +kernel⟩
    · exact ⟨0, 2, s [job1, j2], j2, by decide +kernel⟩
  · intro b
    cases b
    · exact ⟨0, 1, q 31, j1, by decide +kernel⟩
    · exact ⟨0, 1, q 32, j1, by decide +kernel⟩
  · exact ⟨0, 1, 0, some (leafOf 1 (2 ^ 52 - 65536) 65536 (3 * 2 ^ 62 + 3) 0), fs, far, by decide +kernel⟩

/-- A plain row's element, an element of it that has returned, and one of an inbound stream. -/
theorem test_witness_JobsRun_read :
    (∃ (c no k : Nat) (s : State) (j : Job), (s.core c).job no = some j ∧ PlainRow j ∧ j.stream = none ∧ j.dst % 8 = 0 ∧ j.src % 8 = 0 ∧
      8 * k + 8 ≤ j.ex ∧ k ∉ j.did ∧ (∀ w ∈ j.work, w.elem ≠ k) ∧ NearBytes s c j.space (j.src + 8 * k) 8 ∧ NearBytes s c j.space (j.dst + 8 * k) 8 ∧
      inRegions j.reads (j.src + 8 * k) 8 = true ∧ inRegions j.writes (j.dst + 8 * k) 8 = true) ∧
    (∃ (s : State) (a : Access) (j : Job) (w : Work), ReadReturned s a j w ∧ PlainRow j ∧ j.stream = none ∧ w.sort = .move ∧
      NearBytes s a.core j.space w.dst 8) ∧
    (∃ (c sm : Nat) (s : State) (j : Job), (let x := (s.core c).stream sm
      let k := j.did.length
      (s.core c).job x.job = some j ∧ PlainRow j ∧ j.stream = some sm ∧ x.out = false ∧ x.ents.length < 64 ∧ j.work = [] ∧ j.src % 8 = 0 ∧
      8 * k + 8 ≤ j.ex ∧ NearBytes s c j.space (j.src + 8 * k) 8 ∧
      ∃ r ∈ j.reads, r.base ≤ j.src + 8 * k ∧ j.src + 8 * k + 8 ≤ r.base + r.len)) ∧
    (∃ (s : State) (a : Access) (j : Job) (w : Work) (sm : Nat), ReadReturned s a j w ∧ PlainRow j ∧ j.stream = some sm ∧ w.sort = .stream sm ∧
      a.reply.poison = false) := by
  let mv : Job := { job1 with work := [⟨0, .move, 2 ^ 24 - 8, [⟨1, 8, none⟩]⟩] }
  let sm : Job := { job1 with stream := some 3, work := [⟨0, .stream 3, 0, [⟨1, 8, none⟩]⟩] }
  let st : List (Nat × Stream) := [(3, { bound := true, slot := 5, job := 1 })]
  let clean : Access := { backRead with reply := { val := 7 } }
  exact ⟨⟨0, 1, 0, seqWorld [job1], job1, by decide +kernel, by unfold PlainRow; decide, by decide, by decide, by decide, by decide, by decide, by decide,
      near_of (by decide) rfl, near_of (by decide) rfl, by decide +kernel⟩,
    ⟨flying backRead (seqWorld [mv]), backRead, mv, ⟨0, .move, 2 ^ 24 - 8, [⟨1, 8, none⟩]⟩, by unfold ReadReturned; decide +kernel,
      by unfold PlainRow; decide, rfl, rfl, near_of (by decide) rfl⟩,
    ⟨0, 3, world { seq := [{ job1 with stream := some 3 }], streams := st }, { job1 with stream := some 3 }, by decide +kernel,
      by unfold PlainRow; decide, rfl, by decide +kernel, by decide +kernel, rfl, by decide, by decide, near_of (by decide) rfl, by decide⟩,
    ⟨flying clean (world { seq := [sm], streams := st }), clean, sm, ⟨0, .stream 3, 0, [⟨1, 8, none⟩]⟩, 3, by unfold ReadReturned; decide +kernel,
      by unfold PlainRow; decide, rfl, rfl, rfl⟩⟩

theorem test_witness_JobsRun_end :
    (∀ e ∈ [none, some (2, 2 ^ 56 - 1)], ∃ (c no : Nat) (s : State) (j : Job), (s.core c).job no = some j ∧ j.going = true ∧ j.kicker = none ∧ j.work = [] ∧
      (j.err = none → j.total ≤ j.did.length) ∧ (∀ a ∈ s.net, a.id ∉ j.posted) ∧ j.statusDone = false ∧ j.card + 56 < 2 ^ 24 ∧ j.err = e) ∧
    (∃ (c no e n : Nat) (tw : Word) (s : State) (j : Job), (s.core c).job no = some j ∧ j.going = true ∧ j.kicker = none ∧ j.work = [] ∧
      (j.err = none → j.total ≤ j.did.length) ∧ (∀ a ∈ s.net, a.id ∉ j.posted) ∧ j.statusDone = true ∧ j.sem = none ∧ j.stream = none ∧
      j.engine = some e ∧ j.notify = some (n, tw) ∧ n ≠ 62 ∧ (s.slot c n).live = true ∧ 0 < (s.slot c n).booked ∧
      (s.slot c n).taskw.toNat % 2 ^ 50 = tw.toNat % 2 ^ 50) ∧
    (∃ (c no e : Nat) (s : State) (j : Job), (s.core c).job no = some j ∧ j.going = true ∧ j.kicker = none ∧ j.work = [] ∧
      (j.err = none → j.total ≤ j.did.length) ∧ (∀ a ∈ s.net, a.id ∉ j.posted) ∧ j.statusDone = true ∧ j.sem = none ∧ j.stream = none ∧
      j.engine = some e ∧ j.notify = none) ∧
    (∃ (id : Nat) (s : State) (a : Access), s.atHead id = some a ∧ a.kind = .mcast) ∧
    (∃ (c tag : Nat) (s : State) (p : MPkt) (m : Sub), Memory.wf s.mem = true ∧ (s.core c).deliver.find? (fun p => p.tag == tag) = some p ∧
      (s.core c).subs.find? (fun x => x.tag == tag) = some m ∧
      (∀ k, k < p.bytes.length → p.off + k < m.len → s.mayPad m.space (.pad c (m.base + p.off + k)) = true) ∧
      ∃ o, o % 8 = 0 ∧ m.base + p.off ≤ o ∧ o + 8 ≤ m.base + p.off + p.bytes.length ∧ o + 8 ≤ m.base + m.len ∧ ∀ t ∈ p.tags, t = 0) := by
  let s := seqWorld
  let dn : Job := { job1 with did := [0, 1, 2], statusDone := true, engine := some 5, notify := some (0, 5) }
  let pk : MPkt := ⟨65535, 0, List.replicate 8 1, List.replicate 8 0⟩
  refine ⟨?_, ⟨0, 1, 5, 0, 5, world { slots := [(0, { task with booked := 1 })], seq := [dn] }, dn, by decide +kernel⟩,
    ⟨0, 1, 5, s [{ dn with notify := none }], { dn with notify := none }, by decide +kernel⟩,
    ⟨1, flying (req .mcast (.root 0 0 5)) (regs []), req .mcast (.root 0 0 5), by decide +kernel⟩,
    ⟨0, 65535, world { deliver := [pk], subs := [⟨65535, 2 ^ 24 - 64, 64, 1, true⟩] }, pk, ⟨65535, 2 ^ 24 - 64, 64, 1, true⟩,
      by decide +kernel, by decide +kernel, by decide +kernel, by decide +kernel, 2 ^ 24 - 64, by decide⟩⟩
  intro e he
  simp only [List.mem_cons, List.not_mem_nil, or_false] at he
  rcases he with rfl | rfl
  · exact ⟨0, 1, s [{ job1 with did := [0, 1, 2] }], { job1 with did := [0, 1, 2] }, by decide +kernel⟩
  · exact ⟨0, 1, s [{ job1 with err := some (2, 2 ^ 56 - 1) }], { job1 with err := some (2, 2 ^ 56 - 1) }, by decide +kernel⟩

/-! ### Chains, gangs and pairs -/

theorem test_witness_ChainsOpenAndClose :
    (∀ has : Bool, ∃ (o : Opnd) (s t : State) (v : Vals) (i : Nat), Issues (.slres o) s v t ∧ Alone s ∧ Quiet t ∧ (∀ a ∈ t.net, a.stage ≠ .parked) ∧
      (let k := t.core s.cur.1
       v.a.toNat < 2 ^ 16 ∧ v.b ≠ 0 ∧ v.b.toNat < 2 ^ 16 ∧ (k.acc o.d.toNat).full = true ∧ (k.acc o.d.toNat).unset = false ∧
       k.unitReads false o.d.toNat = false ∧ t.here.sysUse < 8 ∧ i < 16 ∧ (k.chain i).st = .free ∧ (∀ j, j < i → (k.chain j).st ≠ .free) ∧
       (if has then ∃ j, j < 16 ∧ (k.chain j).st ≠ .free ∧ (k.chain j).chain = v.a.toNat
        else ∀ j, j < 16 → (k.chain j).st = .free ∨ (k.chain j).chain ≠ v.a.toNat))) ∧
    (∀ x ∈ [none, some (ChainSt.opened, false), some (ChainSt.done, false), some (ChainSt.done, true)], ∃ (o : Opnd) (s t t' : State) (v v' : Vals) (i : Nat),
      Issues (.slwait o) s v t ∧ Issues (.slclose o) s v' t' ∧ Alone s ∧ Quiet t ∧ Quiet t' ∧ v.a.toNat < 2 ^ 16 ∧ v'.a.toNat < 2 ^ 16 ∧
      (o.d.toNat < 128 ∨ o.d.toNat = 145) ∧
      (match x with
       | none => (t.core s.cur.1).ownChain v.a.toNat t.here.task = none ∧ (t'.core s.cur.1).ownChain v'.a.toNat t'.here.task = none
       | some (st, b) => (t.core s.cur.1).ownChain v.a.toNat t.here.task = some i ∧ ((t.core s.cur.1).chain i).st = st ∧
          ((t.core s.cur.1).chain i).taken = b ∧ (t'.core s.cur.1).ownChain v'.a.toNat t'.here.task = some i)) ∧
    (∃ (o : Opnd) (s t : State) (v : Vals) (i : Nat) (before after : List Msg), Issues (.slwait o) s v t ∧ Alone s ∧ Quiet t ∧ v.a.toNat < 2 ^ 16 ∧
      (t.core s.cur.1).ownChain v.a.toNat t.here.task = some i ∧ ((t.core s.cur.1).chain i).st = .done ∧ o.d.toNat < 128 ∧
      ((t.core s.cur.1).chain i).taken = false ∧ t.here.msgs = before ++ ⟨((t.core s.cur.1).chain i).word, true⟩ :: after ∧
      ⟨((t.core s.cur.1).chain i).word, true⟩ ∉ after ∧ before.length = 2) := by
  let fill (c : Nat) : SMap Chain := (List.range 15).map (fun k => (k, { st := .opened, chain := if k = 14 then c else 0 }))
  let s (c : Nat) : State := world { slots := [(0, task)], sfile := file [0, 65535, 65535], chains := fill c, accs := [(3, { unset := false })] }
  let o := op 3 1 2 0
  let w := op 3 1 0 0
  let z (l : SMap Chain) (ms : List Msg) : State := world { slots := [(0, { task with msgs := ms })], sfile := file [0, 65535], chains := l }
  let e (st : ChainSt) (b : Bool) : SMap Chain := [(15, { st := st, chain := 65535, task := 1, taken := b })]
  let word : Msg := ⟨({ st := .done, chain := 65535, task := 1 } : Chain).word, true⟩
  let y := z (e .done false) [word, ⟨7, false⟩, word, ⟨8, true⟩]
  refine ⟨?_, ?_, ⟨w, y, tOf (.slwait w) y, vOf (.slwait w) y, 15, [word, ⟨7, false⟩], [⟨8, true⟩], issues_of (by decide +kernel), alone_of (by decide +kernel),
    calm_of (by decide +kernel), by decide +kernel⟩⟩
  · intro b
    cases b
    · exact ⟨o, s 65534, tOf (.slres o) (s 65534), vOf (.slres o) (s 65534), 15, issues_of (by decide +kernel), alone_of (by decide +kernel),
        calm_of (by decide +kernel), by decide +kernel⟩
    · exact ⟨o, s 65535, tOf (.slres o) (s 65535), vOf (.slres o) (s 65535), 15, issues_of (by decide +kernel), alone_of (by decide +kernel),
        calm_of (by decide +kernel), by decide +kernel⟩
  · have all (q : State) (h : (issued (.slwait w) q).isSome = true ∧ (issued (.slclose w) q).isSome = true ∧ q.here.paired = false ∧
        calm (tOf (.slwait w) q) = true ∧ calm (tOf (.slclose w) q) = true) :
        Issues (.slwait w) q (vOf (.slwait w) q) (tOf (.slwait w) q) ∧ Issues (.slclose w) q (vOf (.slclose w) q) (tOf (.slclose w) q) ∧
          Alone q ∧ Quiet (tOf (.slwait w) q) ∧ Quiet (tOf (.slclose w) q) := ⟨issues_of h.1, issues_of h.2.1, h.2.2.1, calm_of h.2.2.2.1, calm_of h.2.2.2.2⟩
    intro x hx
    simp only [List.mem_cons, List.not_mem_nil, or_false] at hx
    rcases hx with rfl | rfl | rfl | rfl
    · have h := all (z [] []) (by decide +kernel)
      exact ⟨w, z [] [], _, _, _, _, 0, first5 h (by decide +kernel)⟩
    · have h := all (z (e .opened false) []) (by decide +kernel)
      exact ⟨w, z (e .opened false) [], _, _, _, _, 15, first5 h (by decide +kernel)⟩
    · have h := all (z (e .done false) []) (by decide +kernel)
      exact ⟨w, z (e .done false) [], _, _, _, _, 15, first5 h (by decide +kernel)⟩
    · have h := all (z (e .done true) []) (by decide +kernel)
      exact ⟨w, z (e .done true) [], _, _, _, _, 15, first5 h (by decide +kernel)⟩

theorem test_witness_JoinsAndContributions :
    (∃ (o : Opnd) (s t : State) (v : Vals), Issues (.sljoin o) s v t ∧ Alone s ∧ Quiet t ∧ s.cur.2 ≠ 62 ∧ o.d.toNat < 128 ∧ v.a.toNat % 2 ^ 49 = 0 ∧
      v.a.toNat / 2 ^ 58 = s.cur.1 / 512 ∧ v.b.toNat < 2 ^ 16 ∧ t.replyUse s.cur.1 < 256) ∧
    (∃ (o : Opnd) (s t : State) (v : Vals), Issues (.slsend o) s v t ∧ Alone s ∧ Quiet t ∧ s.cur.2 ≠ 62 ∧ v.a.toNat / 2 ^ 58 = s.cur.1 / 512 ∧
      v.b.toNat + (o.fn.toNat % 64 + 1) ≤ 64) ∧
    (∀ x ∈ [none, some ChainSt.opened, some ChainSt.done], ∃ (id c i : Nat) (s : State) (a : Access), s.atHead id = some a ∧ a.kind = .sljoin ∧ a.home = .chains c ∧
      (match x with
       | none => (s.core c).findChain a.aux.toNat = none ∧ a.dead = false ∧ (s.parked c).length < 64
       | some st => (s.core c).findChain a.aux.toNat = some i ∧ ((s.core c).chain i).st = st)) ∧
    (∃ (id : Nat) (s : State) (a : Access), s.acc id = some a ∧ a.stage = .refused) := by
  let o := op 3 1 2 0
  let d := op 0 1 2 3 0x3F
  let s := regs [0, 511 * 2 ^ 49, 0]
  let a : Access := { req .sljoin (.chains 0) with aux := 65535 }
  let z (l : SMap Chain) : State := flying a (world { chains := l })
  refine ⟨⟨o, s, tOf (.sljoin o) s, vOf (.sljoin o) s, issues_of (by decide +kernel), alone_of (by decide +kernel), calm_of (by decide +kernel), by decide, by decide,
      by decide +kernel⟩,
    ⟨d, s, tOf (.slsend d) s, vOf (.slsend d) s, issues_of (by decide +kernel), alone_of (by decide +kernel), calm_of (by decide +kernel), by decide,
      by decide +kernel⟩, ?_,
    ⟨1, flying (req .sljoin (.chains 0) .refused) (regs []), req .sljoin (.chains 0) .refused, by decide +kernel⟩⟩
  intro x hx
  simp only [List.mem_cons, List.not_mem_nil, or_false] at hx
  rcases hx with rfl | rfl | rfl
  · exact ⟨1, 0, 0, z [], a, by decide +kernel⟩
  · exact ⟨1, 0, 15, z [(15, { st := .opened, chain := 65535 })], a, by decide +kernel⟩
  · exact ⟨1, 0, 15, z [(15, { st := .done, chain := 65535 })], a, by decide +kernel⟩

/-- A stale handle, a contribution made before, one that is not the last and the last one. -/
theorem test_witness_ContributionsAdd : ∀ x ∈ [0, 1, 2, 3], ∃ (id c : Nat) (s : State) (a : Access), s.atHead id = some a ∧ a.kind = .slsend ∧ a.home = .chains c ∧
    (let k := s.core c
     let i := a.va / 2 ^ 45 % 16
     let e := k.chain i
     let who := (a.core, a.slot, a.taskw.toNat % 2 ^ 32, a.n)
     let acc := k.acc e.acc
     let named := e.st = .opened ∧ e.chain = a.va % 2 ^ 16 ∧ e.serial.toNat = a.va / 2 ^ 16 % 2 ^ 16
     (x = 0 → ¬ named) ∧ (x = 1 → named ∧ who ∈ e.idents) ∧ (2 ≤ x → named ∧ who ∉ e.idents ∧ a.aux.toNat / 2 ^ 13 % 2 = 0 ∧
       Int.bmod (a.aux.toNat % 2 ^ 10) (2 ^ 10) = acc.anchor ∧ (a.elems.map (·.k)).Nodup ∧ (∀ x ∈ a.elems, x.dat < 2 ^ 80 ∧ x.dat ≠ 2 ^ 79) ∧
       (if x = 3 then e.received + 1 = e.expected else e.received + 1 ≠ e.expected))) := by
  let el : Elem := { k := 4095, va := 0, loc := .pad 0 0, n := 10, dat := 2 ^ 80 - 1 }
  let a : Access := { req .slsend (.chains 0) with va := 15 * 2 ^ 45 + 2 ^ 16 + 65535, n := 65535, elems := [el] }
  let s (e : Nat) (l : List (Nat × Nat × Nat × Nat)) (ser : BitVec 16) : State :=
    flying a (world { chains := [(15, { st := .opened, chain := 65535, acc := 3, expected := e, serial := ser, idents := l })], accs := [(3, { unset := false, anchor := 0 })] })
  intro x hx
  simp only [List.mem_cons, List.not_mem_nil, or_false] at hx
  rcases hx with rfl | rfl | rfl | rfl
  · exact ⟨1, 0, s 1 [] 0, a, by decide +kernel, rfl, rfl, by decide +kernel, by decide +kernel, by decide +kernel⟩
  · exact ⟨1, 0, s 1 [(0, 0, 5, 65535)] 1, a, by decide +kernel, rfl, rfl, by decide +kernel, by decide +kernel, by decide +kernel⟩
  · exact ⟨1, 0, s 2 [] 1, a, by decide +kernel, rfl, rfl, by decide +kernel, by decide +kernel, by decide +kernel⟩
  · exact ⟨1, 0, s 1 [] 1, a, by decide +kernel, rfl, rfl, by decide +kernel, by decide +kernel, by decide +kernel⟩

theorem test_witness_GangsAndPairs :
    (∀ last : Bool, ∃ (o : Opnd) (s t : State) (v : Vals), Issues (.gsync o) s v t ∧ Alone s ∧
      (let c := s.cur.1
       let n := s.cur.2
       let others := (List.range 4).map (c / 4 * 4 + ·) |>.filter (fun x => x != c && (t.slot x n).live && (t.slot x n).gang)
       (∀ a ∈ t.own c n, inScope c 2 a.home = false) ∧ t.jobsIn c n 2 = [] ∧ t.unitsBusy c n = [] ∧ others = [1, 2, 3] ∧
       (if last then ∀ x ∈ others, (t.slot x n).arrived = true else ∃ x ∈ others, (t.slot x n).arrived = false))) ∧
    (∃ (c p : Nat) (s : State) (e f : Effect) (es fs : List Effect), (s.slot c (2 * p)).paired = true ∧ (s.slot c (2 * p)).kill = none ∧
      ((s.core c).pair p).cmp = e :: es ∧ ((s.core c).pair p).trail = f :: fs ∧ e.same f = true ∧ e.trap = none ∧ e.kind = 98 ∧ 128 ≤ e.addr.toNat ∧ e.addr.toNat < 136 ∧
      (s.core c).hasRoom (2 * p) e.addr.toNat = true) ∧
    (∃ (c p : Nat) (s : State) (e f : Effect) (es fs : List Effect) (r : TaskRec), (s.slot c (2 * p)).paired = true ∧ (s.slot c (2 * p)).kill = none ∧
      ((s.core c).pair p).cmp = e :: es ∧ ((s.core c).pair p).trail = f :: fs ∧ e.same f = false ∧ (s.slot c (2 * p)).gang = false ∧
      (∀ m ∈ [2 * p, 2 * p + 1], (∀ a ∈ s.own c m, a.stage = .parked ∨ a.stage = .placing) ∧ ∀ o ∈ (s.core c).vops, o.slot ≠ m) ∧
      s.taskRec (c / 512) (s.slot c (2 * p)).task = some r ∧ (tabFind (s.dv (c / 512)).graphs r.graph).isSome = true ∧
      r.node < (s.graph (c / 512) r.graph).nodes.length ∧ (s.gnode (c / 512) r.graph r.node).kind ≠ 2) := by
  let g (b : Bool) : Core := { slots := [(0, { task with gang := true, arrived := b })] }
  let s (b : Bool) : State := { State.reset with cores := [(0, g false), (1, g true), (2, g true), (3, g b)] }
  let e (v : Nat) : Effect := { kind := 98, addr := 135, size := 0, val := BitVec.ofNat 64 v, ins := .nop (op 0 0 0 0), pc := 0, vals := [] }
  let q (v : Nat) : State := world { slots := [(60, { task with paired := true }), (61, { task with paired := true })], pairs := [(30, { cmp := [e 7], trail := [e v] })] }
  let gone : State := withGraph (graphOf [nodeOf 0 0 1] [launch0 1]) [(1, { graph := 0, node := 0, num := 0, launch := 0, st := .seated })] (q 8)
  let away : Access := { req (.ld true) (.bank 0 0) .parked with slot := 61 }
  refine ⟨?_, ⟨0, 30, q 7, e 7, e 7, [], [], by decide +kernel⟩,
    ⟨0, 30, flying away gone, e 7, e 8, [], [], { graph := 0, node := 0, num := 0, launch := 0, st := .seated }, by decide +kernel⟩⟩
  intro b
  cases b
  · exact ⟨op 0 0 0 0, s false, tOf (.gsync (op 0 0 0 0)) (s false), vOf (.gsync (op 0 0 0 0)) (s false), issues_of (by decide +kernel), alone_of (by decide +kernel), by decide +kernel⟩
  · exact ⟨op 0 0 0 0, s true, tOf (.gsync (op 0 0 0 0)) (s true), vOf (.gsync (op 0 0 0 0)) (s true), issues_of (by decide +kernel), alone_of (by decide +kernel), by decide +kernel⟩

/-! ### Translation and system calls -/

theorem test_witness_TranslationAndSystemCalls :
    (∀ past : Bool, ∃ (o : Opnd) (s t : State) (v : Vals), Issues (.tlbi o) s v t ∧ Alone s ∧ t.own s.cur.1 s.cur.2 = [] ∧
      (if past then 2 ^ 56 < v.a.toNat + v.b.toNat else v.a.toNat + v.b.toNat = 2 ^ 56)) ∧
    (∃ (c n a len : Nat) (s : State), (s.slot c n).tlbi = some (a, len)) ∧
    (∃ (c space va : Nat) (s : State) (e : Tlb), s.walk (c / 512) space va = .leaf e ∧ e.covers space va = true) ∧
    (∃ (o : Opnd) (s t : State) (v : Vals) (off : Nat), Issues (.syscGquery o) s v t ∧ Alone s ∧ Quiet t ∧ ownPlace s.cur.1 v.a = some off ∧ o.d.toNat < 128) ∧
    (∀ own ∈ [0, 2, 3], ∃ (o : Opnd) (s t : State) (v : Vals) (off : Nat), Issues (.syscGfree o) s v t ∧ Alone s ∧ Quiet t ∧ Memory.wf t.mem = true ∧
      ownPlace s.cur.1 v.a = some off ∧ t.ownerOf (.pad s.cur.1 off) = own ∧ t.here.space + 1 = 2) ∧
    (∀ x ∈ [1023, 1024], ∃ (o : Opnd) (s t : State) (v : Vals), Issues (.syscElog o) s v t ∧ Alone s ∧ v.a.toNat = x ∧ o.d.toNat < 128) := by
  let o := op 0 1 2 0
  let q := op 3 1 0 0
  let f := op 0 1 0 0 1
  let el := op 3 1 0 0 2
  let s (b : Nat) : State := regs [0, 2 ^ 56 - 65536, b]
  let z (w : Nat) : State := { regs [0, 0xFFFFFF] with owner := if w = 0 then [] else [((2 ^ 40 + 0xFFFFFF) / 65536, w)] }
  let x (n : Nat) : State := regs [0, n]
  refine ⟨?_, ⟨0, 63, 0, 0, world { slots := [(63, { task with tlbi := some (0, 0) })] }, by decide +kernel⟩,
    ⟨0, 1, 2 ^ 52 - 65536, tabled, leafOf 1 (2 ^ 52 - 65536) 65536 (3 * 2 ^ 62 + 3) 0, by decide +kernel⟩,
    ⟨q, z 0, tOf (.syscGquery q) (z 0), vOf (.syscGquery q) (z 0), 0xFFFFFF, issues_of (by decide +kernel), alone_of (by decide +kernel), calm_of (by decide +kernel),
      by decide +kernel, by decide⟩, ?_, ?_⟩
  · intro b
    cases b
    · exact ⟨o, s 65536, tOf (.tlbi o) (s 65536), vOf (.tlbi o) (s 65536), issues_of (by decide +kernel), alone_of (by decide +kernel), by decide +kernel⟩
    · exact ⟨o, s 65537, tOf (.tlbi o) (s 65537), vOf (.tlbi o) (s 65537), issues_of (by decide +kernel), alone_of (by decide +kernel), by decide +kernel⟩
  · intro w hw
    simp only [List.mem_cons, List.not_mem_nil, or_false] at hw
    rcases hw with rfl | rfl | rfl
    · exact ⟨f, z 0, tOf (.syscGfree f) (z 0), vOf (.syscGfree f) (z 0), 0xFFFFFF, issues_of (by decide +kernel), alone_of (by decide +kernel), calm_of (by decide +kernel),
        by decide +kernel⟩
    · exact ⟨f, z 2, tOf (.syscGfree f) (z 2), vOf (.syscGfree f) (z 2), 0xFFFFFF, issues_of (by decide +kernel), alone_of (by decide +kernel), calm_of (by decide +kernel),
        by decide +kernel⟩
    · exact ⟨f, z 3, tOf (.syscGfree f) (z 3), vOf (.syscGfree f) (z 3), 0xFFFFFF, issues_of (by decide +kernel), alone_of (by decide +kernel), calm_of (by decide +kernel),
        by decide +kernel⟩
  · intro w hw
    simp only [List.mem_cons, List.not_mem_nil, or_false] at hw
    rcases hw with rfl | rfl
    · exact ⟨el, x 1023, tOf (.syscElog el) (x 1023), vOf (.syscElog el) (x 1023), issues_of (by decide +kernel), alone_of (by decide +kernel), by decide +kernel, by decide⟩
    · exact ⟨el, x 1024, tOf (.syscElog el) (x 1024), vOf (.syscElog el) (x 1024), issues_of (by decide +kernel), alone_of (by decide +kernel), by decide +kernel, by decide⟩
end

