-- ==== Sys2Proof/Tests/WitnessFleet.lean ====
section
/-! SUPPORT. States that meet the hypotheses of the statements about rounds, spills, launches, the host, links, errors
and commands, clause by clause. -/

set_option Elab.async false

open Sys2Proof Sys2Proof.Machine Sys2Proof.Tests

namespace Sys2Proof.Tests

/-- Graph 0 on a device whose page tables are `tabled`'s, with these cores. -/
def fleet (g : Graph) (ts : SMap TaskRec) (cores : SMap Core) : State :=
  { tabled with cores := cores, devs := [(0, { roots := [(1, 0x10000)], graphs := [(0, g)], tasks := ts, nextTask := 9, arrivals := ts.map (·.1) })] }

/-- A task record of node 0 of graph 0. -/
def record (st : TaskSt) (area : Nat := 0) : TaskRec := { graph := 0, node := 0, num := 0, launch := 0, st := st, savearea := BitVec.ofNat 64 area }

/-- A save area in the page that `tabled` maps. -/
def area : Nat := 2 ^ 52 - 65536

/-- Device 0 serves the command in these dwords, with the tables of `tabled`. -/
def mail (ws : List Nat) (v : Dev := {}) : State :=
  { tabled with devs := [(0, { v with roots := [(1, 0x10000)], busy := true, cmdbuf := ws.zipIdx.map (fun p => (p.2, BitVec.ofNat 64 p.1)) })] }

/-- The dwords of each command of R334: header and first argument, which names the variant. -/
def dwords : Nat → List Nat
  | 4 => [1]
  | 8 => [2 + 4 * 2 ^ 8]
  | 12 => [3 + 2 * 2 ^ 8]
  | 16 => [4 + 3 * 2 ^ 8]
  | 17 => [4 + 3 * 2 ^ 8, 2 ^ 16]
  | 18 => [4 + 3 * 2 ^ 8, 2 ^ 17]
  | 20 => [5 + 9 * 2 ^ 8]
  | 24 => [6 + 3 * 2 ^ 8]
  | 28 => [7 + 1 * 2 ^ 8]
  | 32 => [8 + 1 * 2 ^ 8]
  | 33 => [8 + 1 * 2 ^ 8, 2 ^ 18]
  | 36 => [9 + 2 * 2 ^ 8]
  | 40 => [10 + 1 * 2 ^ 8]
  | 44 => [11 + 3 * 2 ^ 8]
  | 48 => [12 + 1 * 2 ^ 8]
  | 52 => [13 + 2 * 2 ^ 8]
  | 53 => [13 + 2 * 2 ^ 8, 2 ^ 6]
  | 54 => [13 + 2 * 2 ^ 8, 2 ^ 7]
  | _ => []

/-- The command with its arguments. -/
def asked (code : Nat) (args : List Nat) (v : Dev := {}) : State := mail ((dwords code).headD 0 :: args) v

end Sys2Proof.Tests

theorem commanded_of {s : State} {code : Nat} (h : (s.dv s.dev).busy = true ∧ (s.dv s.dev).command = some code ∧ (s.dv s.dev).stage = 6 ∧
    (s.dv s.dev).cmdw 0 / 2 ^ 24 % 2 ^ 8 = 0) : Commanded s code := h

/-- Keys of the listed units, decided. -/
theorem oneKey_of {s : State} {d space : Nat} (h : (s.unitKey.all (fun p => p.2 == 0 || p.2 == s.keyId d space)) = true) : OneKey s d space := by
  intro u
  have key : ∀ l : SMap Nat, (l.all (fun p => p.2 == 0 || p.2 == s.keyId d space)) = true → tabGet 0 l u = 0 ∨ tabGet 0 l u = s.keyId d space := by
    intro l hl
    induction l with
    | nil => exact .inl rfl
    | cons p l ih =>
      simp only [List.all_cons, Bool.and_eq_true, Bool.or_eq_true, beq_iff_eq] at hl
      unfold tabGet
      split
      · exact hl.1
      · exact ih hl.2
  exact key _ h

/-- Units before the first listed one hold data of no key, decided. -/
theorem freshUnits_of {l : SMap Nat} {hi : Nat} (h : l.all (fun p => decide (hi ≤ p.1)) = true) {u : Nat} (hu : u < hi) : tabGet 0 l u = 0 := by
  induction l with
  | nil => rfl
  | cons p l ih =>
    simp only [List.all_cons, Bool.and_eq_true, decide_eq_true_eq] at h
    unfold tabGet
    split
    · rename_i e
      have : p.1 = u := by simpa [eq_comm] using e
      omega
    · exact ih h.2

/-! ### Rounds, seats, spills -/

theorem test_witness_RoundsAndSpills :
    (∃ (c : Nat) (s : State), (s.core c).pos < (s.core c).order.length) ∧
    (∃ (c n : Nat) (s : State) (ws : List Wait), (s.core c).order.length ≤ (s.core c).pos ∧ (∃ p ∈ (s.core c).claims, p.2.valid = true) ∧
      (∀ p ∈ (s.core c).claims, p.2.valid = true → ∀ x, p.2.deadline = some x → (s.core c).start + (s.core c).len < x) ∧ n < 64 ∧ n ≠ 62 ∧
      (s.slot c n).run = .out ws ∧ (s.slot c n).spill = none ∧ (∀ w ∈ ws, s.waitOver c n w = true)) ∧
    (∃ (c n : Nat) (s : State), (s.slot c n).run = .ready ∧ (s.slot c n).hmode = false ∧ (s.slot c n).timerDue (s.now c) = true) ∧
    (∃ (c n : Nat) (s : State), s.dogOut c n = true ∧ (s.slot c n).gang = false ∧ (s.slot c n).paired = false) ∧
    (∃ (d t k : Nat) (s : State) (r x : TaskRec), s.taskRec d t = some r ∧ t ∈ (s.dv d).arrivals ∧ (s.gnode d r.graph r.node).prio = 3 ∧
      s.seeks d r = true ∧ max r.since r.lastPreempt + 65536 ≤ (s.dv d).cycle ∧ s.victims d r = [(k, x)] ∧ (s.slot x.core x.slot).gang = false ∧ (s.slot x.core x.slot).paired = false) := by
  let dog : GNode := { nodeOf 0 0 1 with raw := [0, 0, 1, 0, 7, 0, 0, 0, 0, 0] }
  let hi : GNode := nodeOf (3 * 2 ^ 58) 0 1
  let lo : TaskRec := { record .seated area with node := 1 }
  let pr : State := { fleet (graphOf [hi, nodeOf 0 0 1] [launch0 2]) [(1, record .waiting), (2, lo)] [(0, { slots := [(0, { task with task := 2, savearea := BitVec.ofNat 64 area })] })] with
    devs := [(0, { graphs := [(0, graphOf [hi, nodeOf 0 0 1] [launch0 2])], tasks := [(1, record .waiting), (2, lo)], arrivals := [1], cycle := 65536 })] }
  let k : Core := { slots := [(63, { task with run := .out [.message], msgs := [⟨0, false⟩] })], claims := [(255, { valid := true, deadline := some 9 })], start := 0, len := 8 }
  refine ⟨⟨0, regs [], by decide +kernel⟩, ⟨0, 63, world k, [.message], by decide +kernel, by decide +kernel, ?_, by decide +kernel⟩,
    ⟨0, 0, with0 { task with timer := 0, timerHit := true } [], by decide +kernel⟩,
    ⟨0, 0, { fleet (graphOf [dog] [launch0 1]) [(1, record .seated)] [(0, { slots := [(0, task)], start := 7 })] with dev := 0 }, by decide +kernel⟩,
    ⟨0, 1, 2, pr, record .waiting, lo, by decide +kernel⟩⟩
  intro p hp _ x hx
  obtain rfl : p = (255, { valid := true, deadline := some 9 }) := List.mem_singleton.mp hp
  injection hx with hx
  rw [← hx]; decide +kernel

/-- A slot of one task, and the two of a pair, whose spill the spill engine serves; their save area is in the page that
`tabled` maps. -/
def Sys2Proof.Tests.parking (pair : Bool) : State :=
  let x : Slot := { task with paired := pair, spill := some .trap, run := .out [.spilled], savearea := BitVec.ofNat 64 area }
  fleet (graphOf [nodeOf (if pair then 2 ^ 52 else 0) 0 1] [launch0 1]) [(1, record .seated area)]
    [(0, { slots := if pair then [(60, { x with vcount := 0 }), (61, { x with vcount := 0 })] else [(60, x)], spillQ := [60] })]

theorem test_witness_RoundsAndSpills_area :
    ∀ pair : Bool, ∃ (c n : Nat) (s t : State) (why : SpillWhy) (r : TaskRec) (e : Tlb), (s.slot c n).spill = some why ∧ why ≠ .discard ∧ (s.slot c n).live = true ∧
      (s.slot c n).gang = false ∧ (s.slot c n).kill = none ∧ (s.core c).spilling = some n ∧ s.spillReady c n = .inr t ∧
      t.spillFail (c / 512) (t.slot c n).space (t.slot c n).savearea.toNat = none ∧ t.taskRec (c / 512) (t.slot c n).task = some r ∧
      (t.slot c n).paired = pair ∧ AreaIn t (c / 512) (t.slot c n).space (t.slot c n).savearea.toNat e ∧ Memory.wf t.mem = true ∧ why ≠ .watchdog ∧
      (t.slot c n).msgs.length ≤ 16 ∧ ((t.core c).boundClaims n (t.slot c n).sbase).length ≤ 128 ∧ (t.slot c n).scount ≤ 128 ∧ (t.slot c n).vcount ≤ 32 := by
  intro pair
  have h : ∀ pair : Bool, (match (parking pair).spillReady 0 60 with | .inr _ => true | .inl _ => false) = true := by decide +kernel
  let ready : State := match (parking pair).spillReady 0 60 with | .inr t => t | .inl t => t
  have hr : (parking pair).spillReady 0 60 = .inr ready := by
    have := h pair
    simp only [ready]
    split at this
    · rename_i t ht; rw [ht]
    · simp at this
  refine ⟨0, 60, parking pair, ready, .trap, record .seated area, leafOf 1 (2 ^ 52 - 65536) 65536 (3 * 2 ^ 62 + 3) 0, first5 ?_ ⟨?_, hr, first3 ?_
    ⟨first5 ?_ (first3 ?_ ⟨⟨0x10000, 0x20000, 0x70000, 0x80000, ?_⟩, ?_⟩), ?_⟩⟩⟩
  rotate_left 6
  · intro u h1 h2
    exact .inl (freshUnits_of (hi := 1024) (by cases pair <;> decide +kernel) h2)
  all_goals try unfold TableEntry
  all_goals cases pair <;> decide +kernel

/-- A node of one task, one with pairs, and a LEVEL node with a READY block. -/
theorem test_witness_TasksAreSeated :
    (∀ x ∈ [32 * 2 ^ 24, 32 * 2 ^ 24 + 2 ^ 52, 2 * 2 ^ 62 + 32 * 2 ^ 24], ∃ (d t a : Nat) (s : State) (r : TaskRec) (q : Seat), s.taskRec d t = some r ∧
      s.startPlan d t r = some [((t, q), a)] ∧ FirstInTurn s d t ∧
      (let nd := s.gnode d r.graph r.node
       (nd.runahead = true → t < (s.dv d).nextTask) ∧ nth 0 nd.raw 0 = BitVec.ofNat 64 x ∧
        (nd.kind = 2 → (s.block d r.graph r.node (r.num % 65536)).st = .ready))) ∧
    (∀ pair : Bool, ∃ (d t : Nat) (s : State) (r : TaskRec) (q : Seat), s.taskRec d t = some r ∧ s.restoreSeats d r = some [q] ∧ FirstInTurn s d t ∧
      (s.gnode d r.graph r.node).gang = false ∧ (s.core q.core).spilling = none ∧
      s.restoreFail d (s.graph d r.graph).space r.savearea.toNat = none ∧ (s.gnode d r.graph r.node).paired = pair ∧ (pair = true → r.trail.isSome = true)) ∧
    (∃ (d t : Nat) (s : State) (r : TaskRec) (q : Seat) (f : Nat × Nat × Nat), s.taskRec d t = some r ∧ s.restoreSeats d r = some [q] ∧ FirstInTurn s d t ∧
      (s.core q.core).spilling = none ∧ s.restoreFail d (s.graph d r.graph).space r.savearea.toNat = some f ∧
      (s.gnode d r.graph r.node).gang = false ∧ (s.gnode d r.graph r.node).idemp = false ∧ (s.gnode d r.graph r.node).kind ≠ 2) := by
  let s (x : Nat) : State := fleet (graphOf [{ levelNode [{ st := .ready }] with raw := [BitVec.ofNat 64 x, 0x100000000000, 1, 0, 0, 0, 9, 0, 0, 0] }] [launch0 1]) [(1, record .waiting)] []
  let p (x : Nat) := (((s x).startPlan 0 1 (record .waiting)).getD []).headD ((0, ⟨0, 0, 0, 0, 0⟩), 0)
  let away (pair : Bool) : TaskRec := { record .spilled area with trail := if pair then some ({}, []) else none }
  let z (x st : Nat) (r : TaskRec) : State :=
    ((fleet (graphOf [nodeOf x 0x100000000000 1] [launch0 1]) [(1, r)] []).writeNum 1 (.dram 0 0x68) 8 st).writeNum 1 (.dram 0 0x58) 8 32
  let y (pair : Bool) : State := z (32 * 2 ^ 24 + if pair then 2 ^ 52 else 0) 1 (away pair)
  let q (s : State) (r : TaskRec) : Seat := ((s.restoreSeats 0 r).getD []).headD ⟨0, 0, 0, 0, 0⟩
  let bad := z (32 * 2 ^ 24) 0 (away false)
  refine ⟨?_, ?_, ⟨0, 1, bad, away false, q bad (away false), (0x12, 0, 0), by decide +kernel, by decide +kernel, by unfold FirstInTurn; decide +kernel, by decide +kernel⟩⟩
  · intro x hx
    simp only [List.mem_cons, List.not_mem_nil, or_false] at hx
    rcases hx with rfl | rfl | rfl
    · exact ⟨0, 1, (p (32 * 2 ^ 24)).2, s (32 * 2 ^ 24), record .waiting, (p (32 * 2 ^ 24)).1.2, by decide +kernel, by decide +kernel, by unfold FirstInTurn; decide +kernel, by decide +kernel⟩
    · exact ⟨0, 1, (p (32 * 2 ^ 24 + 2 ^ 52)).2, s (32 * 2 ^ 24 + 2 ^ 52), record .waiting, (p (32 * 2 ^ 24 + 2 ^ 52)).1.2, by decide +kernel, by decide +kernel,
        by unfold FirstInTurn; decide +kernel, by decide +kernel⟩
    · exact ⟨0, 1, (p (2 * 2 ^ 62 + 32 * 2 ^ 24)).2, s (2 * 2 ^ 62 + 32 * 2 ^ 24), record .waiting, (p (2 * 2 ^ 62 + 32 * 2 ^ 24)).1.2, by decide +kernel, by decide +kernel,
        by unfold FirstInTurn; decide +kernel, by decide +kernel⟩
  · intro b
    cases b
    · exact ⟨0, 1, y false, away false, q (y false) (away false), by decide +kernel, by decide +kernel, by unfold FirstInTurn; decide +kernel, by decide +kernel⟩
    · exact ⟨0, 1, y true, away true, q (y true) (away true), by decide +kernel, by decide +kernel, by unfold FirstInTurn; decide +kernel, by decide +kernel⟩

/-! ### Launches -/

theorem test_witness_LaunchesRun :
    (∀ good : Bool, ∃ (d r : Nat) (s : State) (p : Posted), s.headPost d r = some p ∧ p.bar2 = false ∧ 0x1000 ≤ p.off ∧ p.off < 0x1080 ∧
      p.bytes.length = 8 ∧ p.off % 8 = 0 ∧ (s.dv d).stage = 6 ∧ (s.dv d).trig.length < 64 ∧ numOf p.bytes / 2 ^ 56 % 4 = 0 ∧
      (tabFind (s.dv d).graphs (numOf p.bytes / 2 ^ 58)).isSome = good ∧
      (∀ g, tabFind (s.dv d).graphs (numOf p.bytes / 2 ^ 58) = some g → g.quiesced = false)) ∧
    (∃ (s : State) (w : Word) (ws : List Word) (g : Graph), (s.dv s.dev).trig = w :: ws ∧ w.toNat % 2 ^ 58 = 0 ∧
      tabFind (s.dv s.dev).graphs (w.toNat / 2 ^ 58) = some g ∧ g.quiesced = false ∧ g.launches = [] ∧ (∀ nd ∈ g.nodes, nd.kind ≠ 2 ∧ nth 0 nd.raw 3 = 0) ∧
      (∃ nd, g.nodes = [nd] ∧ 0 < nd.count) ∧ (s.dv s.dev).tasks.length < 262144) ∧
    (∃ (d g lno n : Nat) (s : State) (l : Launch), s.makeMore d = s ∧ (s.graph d g).launch lno = some l ∧ (s.gnode d g n).openN = false ∧
      (s.gnode d g n).kind ≠ 2 ∧ n < (s.graph d g).nodes.length ∧ nth .waiting l.nodes n = .eligible ∧ s.tasksOver d g l n = true ∧ s.releasePending d g lno n = false) ∧
    (∃ (d g lno cid off : Nat) (s : State) (l : Launch), (s.graph d g).launch lno = some l ∧ (∀ x ∈ l.nodes, x = .complete) ∧ s.launchPending d g lno = false ∧
      (∀ p ∈ (s.dv d).tasks, ¬ (p.2.graph = g ∧ p.2.launch = lno)) ∧ (s.graph d g).compl + 16 * (lno % 64) = 0x10000000000 + cid * 2 ^ 24 + off ∧ cid < 512 ∧
      off + 16 ≤ 2 ^ 24 ∧ Memory.wf s.mem = true ∧ lno < 2 ^ 32 ∧ l.status < 2 ^ 32) ∧
    (∃ (cid off : Nat) (s : State) (w : Word) (ws : List Word) (g : Graph), (s.dv s.dev).trig = w :: ws ∧ w.toNat / 2 ^ 56 % 4 = 0 ∧
      tabFind (s.dv s.dev).graphs (w.toNat / 2 ^ 58) = some g ∧ g.quiesced = false ∧ w.toNat % 8 ≠ 0 ∧
      g.compl + 16 * (g.next % 64) = 0x10000000000 + cid * 2 ^ 24 + off ∧ cid < 512 ∧ off + 16 ≤ 2 ^ 24 ∧ g.next < 2 ^ 32 ∧ Memory.wf s.mem = true) ∧
    (∀ x ∈ [(true, true), (true, false), (false, false)], ∃ (d g n : Nat) (s : State), s.evalBlocks d g n = s ∧ (let nd := s.gnode d g n
      nd.kind = 2 ∧ nd.frozen = !x.1 ∧ (∃ b ∈ nd.board, b.st = .frozen) ∧ (∀ b ∈ nd.board, b.st ≠ .running ∧ b.st ≠ .provisional) ∧ s.frozenSeated d g n = false ∧
        (s.readySeat d g n).isSome = x.2)) := by
  let p (w : Nat) : Posted := ⟨false, 0x1078, bytesOf 8 w⟩
  let g0 : Graph := { graphOf [nodeOf (32 * 2 ^ 24) 0x100000000000 1] [] with launches := [] }
  let post (w : Nat) : State := { State.reset with devs := [(0, { graphs := [(0, g0)], posted := [(0, [p w])] })] }
  let tr : State := { State.reset with devs := [(0, { graphs := [(0, g0)], trig := [0] })] }
  let dn : State := withGraph (graphOf [nodeOf (32 * 2 ^ 24) 0x100000000000 0] [launch0 1]) [] State.reset
  let cl : Launch := { launch0 1 with nodes := [.complete], no := 63 }
  let cp : State := withGraph { graphOf [nodeOf 0 0 0] [cl] with compl := 0x10000000000 + 512 * 2 ^ 24 - 1024 } [] State.reset
  let ms : State := { State.reset with devs := [(0, { graphs := [(0, { g0 with next := 63, compl := 0x10000000000 + 512 * 2 ^ 24 - 1024 })], trig := [1] })] }
  let wait : TaskRec := { record .waiting with num := 1 }
  let fz (f seat : Bool) : State :=
    withGraph (graphOf [{ levelNode [{ st := .frozen }, { st := .ready }] with frozen := f }] [launch0 1]) (if seat then [(1, wait)] else []) State.reset
  refine ⟨?_, ⟨tr, 0, [], g0, by decide +kernel, by decide +kernel, by decide +kernel, rfl, rfl, by decide +kernel, ⟨_, rfl, by decide +kernel⟩, by decide +kernel⟩,
    ⟨0, 0, 0, 0, dn, launch0 1, by decide +kernel⟩, ⟨0, 0, 63, 511, 2 ^ 24 - 16, cp, cl, by decide +kernel⟩,
    ⟨511, 2 ^ 24 - 16, ms, 1, [], { g0 with next := 63, compl := 0x10000000000 + 512 * 2 ^ 24 - 1024 }, by decide +kernel⟩, ?_⟩
  · intro b
    cases b
    · exact ⟨0, 0, post (2 ^ 58), p (2 ^ 58), by decide +kernel, rfl, first5 (by decide +kernel) (first2 (by decide +kernel)
        ⟨by decide +kernel, fun g hg => absurd (hg.symm.trans (show _ = none by decide +kernel)) (by simp)⟩)⟩
    · exact ⟨0, 0, post 0, p 0, by decide +kernel, rfl, first5 (by decide +kernel) (first2 (by decide +kernel)
        ⟨by decide +kernel, fun g hg => by injection hg.symm.trans (show _ = some g0 by decide +kernel) with h; rw [h]; rfl⟩)⟩
  · intro x hx
    simp only [List.mem_cons, List.not_mem_nil, or_false] at hx
    rcases hx with rfl | rfl | rfl
    · exact ⟨0, 0, 0, fz false true, by decide +kernel⟩
    · exact ⟨0, 0, 0, fz false false, by decide +kernel⟩
    · exact ⟨0, 0, 0, fz true false, by decide +kernel⟩

/-! ### The host -/

/-- A doorbell while idle, with a listed command and with none, and while busy; the last dword of CMDBUF, the status register
and the power limit. -/
theorem test_witness_HostAccesses :
    (∀ x ∈ [(0x3000, true), (0x3000, false), (0x2FF8, false), (0x3008, false), (0x4000, false)], ∃ (d r : Nat) (s : State) (w : Posted), s.headPost d r = some w ∧
      w.bar2 = false ∧ w.bytes.length = 8 ∧ w.off % 8 = 0 ∧ w.off = x.1 ∧ (s.dv d).busy = x.2) ∧
    (∃ (d r : Nat) (s : State) (w : Posted), s.headPost d r = some w ∧ w.bar2 = false ∧ w.bytes.length = 8 ∧ w.off = 0x3000 ∧
      (s.dv d).busy = false ∧ (s.dv d).command = some 4) ∧
    (∃ (d r : Nat) (s : State), (s.dv d).queue r ≠ []) ∧
    (∀ n ∈ [511, 512], ∃ (d r : Nat) (s : State), ((s.dv d).queue r).length = n) ∧
    (∀ x ∈ [(2 ^ 32 + 0x3008, 8), (2 ^ 33 - 8, 8), (2 ^ 33, 4), (2 ^ 33 + 0x18, 4)], ∃ (d r : Nat) (s : State), (s.dv d).queue r = [] ∧ 2 ^ 32 ≤ x.1 ∧ 0 < x.2) := by
  let w (off : Nat) : Posted := ⟨false, off, bytesOf 8 600⟩
  let s (off : Nat) (busy : Bool) (cb : SMap Word := []) : State :=
    { State.reset with devs := [(0, { posted := [(0, [w off])], busy := busy, cmdbuf := cb })] }
  let q (n : Nat) : State := { State.reset with devs := [(0, { posted := [(0, List.replicate n (w 0))] })] }
  refine ⟨?_, ⟨0, 0, s 0x3000 false [(0, 1)], w 0x3000, by decide +kernel⟩, ⟨0, 0, s 0 false, by decide +kernel⟩, ?_, ?_⟩
  · intro x hx
    have h : ∀ x ∈ [(0x3000, true), (0x3000, false), (0x2FF8, false), (0x3008, false), (0x4000, false)], (s x.1 x.2).headPost 0 0 = some (w x.1) ∧ (w x.1).bar2 = false ∧
        (w x.1).bytes.length = 8 ∧ (w x.1).off % 8 = 0 ∧ (w x.1).off = x.1 ∧ ((s x.1 x.2).dv 0).busy = x.2 := by decide +kernel
    exact ⟨0, 0, _, _, h x hx⟩
  · intro n hn
    have h : ∀ n ∈ [511, 512], (((q n).dv 0).queue 0).length = n := by decide +kernel
    exact ⟨0, 0, q n, h n hn⟩
  · intro x hx
    have h : ∀ x ∈ [(2 ^ 32 + 0x3008, 8), (2 ^ 33 - 8, 8), (2 ^ 33, 4), (2 ^ 33 + 0x18, 4)], 2 ^ 32 ≤ x.1 ∧ 0 < x.2 := by decide
    exact ⟨0, 0, State.reset, rfl, h x hx⟩

/-- The last aperture, to the page that `tabled` maps in space 1 or to device memory below and across the space-0 region. -/
def Sys2Proof.Tests.aperture (space base : Nat) (ps : List Posted) : State :=
  { tabled with devs := [(0, { roots := [(1, 0x10000)], apertures := [(2047, (space, base))], posted := [(0, ps)] })] }

theorem test_witness_HostAccesses_apertures :
    (∃ (d r space pa : Nat) (s : State) (w : Posted), s.headPost d r = some w ∧ w.bar2 = true ∧ ApertureAt s d w.off true space pa ∧ OneKey s d space ∧
      Memory.wf s.mem = true ∧ space = 0 ∧ 0x2F00000000 < pa + w.bytes.length) ∧
    (∃ (d r space pa : Nat) (s : State) (w : Posted), s.headPost d r = some w ∧ w.bar2 = true ∧ ApertureAt s d w.off true space pa ∧ OneKey s d space ∧
      Memory.wf s.mem = true ∧ space = 0 ∧ pa + w.bytes.length = 0x2F00000000) ∧
    (∃ (d r space pa : Nat) (s : State) (w : Posted), s.headPost d r = some w ∧ w.bar2 = true ∧ ApertureAt s d w.off true space pa ∧ space = 1) ∧
    (∃ (d r : Nat) (s : State) (w : Posted), s.headPost d r = some w ∧ w.bar2 = true ∧ ∀ space pa, ¬ ApertureAt s d w.off true space pa) ∧
    (∃ (d r off space pa : Nat) (s : State), (s.dv d).queue r = [] ∧ off < 2 ^ 32 ∧ ApertureAt s d off false space pa) ∧
    (∃ (d r off : Nat) (s : State), (s.dv d).queue r = [] ∧ off < 2 ^ 32 ∧ ∀ space pa, ¬ ApertureAt s d off false space pa) := by
  let w (off : Nat) : Posted := ⟨true, off, bytesOf 8 600⟩
  let flat (n : Nat) : State := { aperture 0 (sloelmBase - 2 ^ 21) [w (2 ^ 32 - n)] with unitKey := [] }
  have none : ∀ (b : Bool) (s : State), (s.dv 0).apertures = [] → ∀ space pa, ¬ ApertureAt s 0 0 b space pa := by
    rintro b s hs space pa ⟨base, hb, -⟩
    rw [hs] at hb
    simp [tabFind] at hb
  refine ⟨⟨0, 0, 0, sloelmBase - 4, flat 4, w (2 ^ 32 - 4), by decide +kernel, rfl, ⟨sloelmBase - 2 ^ 21, by decide +kernel, .inl (by decide +kernel)⟩, fun _ => .inl rfl, by decide +kernel⟩,
    ⟨0, 0, 0, sloelmBase - 8, flat 8, w (2 ^ 32 - 8), by decide +kernel, rfl, ⟨sloelmBase - 2 ^ 21, by decide +kernel, .inl (by decide +kernel)⟩, fun _ => .inl rfl, by decide +kernel⟩,
    ⟨0, 0, 1, 65528, aperture 1 (2 ^ 52 - 2 ^ 21) [w (2 ^ 32 - 8)], w (2 ^ 32 - 8), by decide +kernel, rfl,
      ⟨2 ^ 52 - 2 ^ 21, by decide +kernel, .inr ⟨by decide, 2 ^ 52 - 8, leafOf 1 (2 ^ 52 - 65536) 65536 (3 * 2 ^ 62 + 3) 0, by decide +kernel⟩⟩, rfl⟩,
    ⟨0, 0, { aperture 0 0 [w 0] with devs := [(0, { posted := [(0, [w 0])] })] }, w 0, by decide +kernel, rfl, none true _ rfl⟩,
    ⟨0, 0, 2 ^ 32 - 8, 0, sloelmBase - 8, aperture 0 (sloelmBase - 2 ^ 21) [], by decide +kernel, by decide, sloelmBase - 2 ^ 21, by decide +kernel, .inl (by decide +kernel)⟩,
    ⟨0, 0, 0, State.reset, rfl, by decide, none false _ rfl⟩⟩

/-- A reset input before and during bring-up; every stage, with every stored image and with none, and the stage that
fails. -/
theorem test_witness_DevicesResetAndFence :
    (∃ s : State, (s.dv s.dev).boot = none) ∧
    (∃ (s : State) (k : Nat), (s.dv s.dev).boot = some k ∧ (s.dv s.dev).stage = k ∧ k = 5) ∧
    (∀ n ∈ [0, 1, 2, 3, 4, 5], ∀ (img : Option (List Byte)), ∃ (s : State) (k : Nat), (s.dv s.dev).boot = some k ∧ (s.dv s.dev).stage = n ∧
      n ≠ k ∧ (s.dv s.dev).extStored = img ∧ Memory.wf s.mem = true) ∧
    (∃ (d plane : Nat) (s : State), plane < 32 ∧ ((s.dv d).link (8 + plane)).retired = false) ∧
    (∃ s : State, (s.dv s.dev).beatSent < (s.dv s.dev).ms) ∧ (∃ s : State, (s.dv s.dev).beatSent = (s.dv s.dev).ms) ∧
    (∃ s : State, (s.dv s.dev).onPanel = true ∧ (s.dv s.dev).fenced = false ∧ ((s.dv s.dev).fatal = true ∨ (s.dv s.dev).heard + 16 ≤ s.panelMs)) ∧
    (∃ s : State, (s.dv s.dev).fenced = true) ∧ (∃ (s : State) (e : Egress) (r : List Egress), (s.dv s.dev).egress = e :: r) := by
  let b (n k : Nat) (img : Option (List Byte)) : State := { State.reset with devs := [(0, { boot := some k, stage := n, extStored := img })] }
  refine ⟨⟨State.reset, by decide +kernel⟩, ⟨b 5 5 none, 5, by decide +kernel⟩, ?_, ⟨63, 31, State.reset, by decide +kernel⟩,
   ⟨{ State.reset with devs := [(0, { ms := 1 })] }, by decide +kernel⟩, ⟨State.reset, by decide +kernel⟩,
   ⟨{ State.reset with devs := [(0, { ms := 16, heard := 0 }), (1, { ms := 16, heard := 16 })] }, by decide +kernel⟩,
   ⟨{ State.reset with devs := [(0, { fenced := true })] }, by decide +kernel⟩,
   ⟨{ State.reset with devs := [(0, { egress := [⟨0, [1], none⟩] })] }, ⟨0, [1], none⟩, [], by decide +kernel⟩⟩
  intro n hn img
  refine ⟨b n 7 img, 7, rfl, rfl, ?_, rfl, show Memory.wf State.reset.mem = true by decide +kernel⟩
  simp only [List.mem_cons, List.not_mem_nil, or_false] at hn
  omega

/-- The last die link and the last port, in their states. -/
theorem test_witness_LinksAndErrors :
    (∀ l ∈ [5, 39], ∃ (d : Nat) (s : State), (isDieLink l = true ∨ isPort l = true) ∧ ((s.dv d).link l).retired = false ∧ 0 < groupCount l ∧
      (((s.dv d).link l).group 0).out = none) ∧
    (∀ l ∈ [5, 39], ∃ (d : Nat) (s : State) (a b : Nat), ((s.dv d).link l).retired = false ∧ (((s.dv d).link l).group 0).out = some a ∧ b ≠ a ∧
      b < (if l < 6 then 17 else 5)) ∧
    (∀ l ∈ [5, 39], ∃ (d : Nat) (s : State), ((s.dv d).link l).retired = false ∧ 9 ≤ ((s.dv d).link l).row) ∧
    (∀ row ∈ [7, 8, 9], ∃ (d : Nat) (s : State), isPort 39 = true ∧ ((s.dv d).link 39).retired = false ∧ ((s.dv d).link 39).row = row) ∧
    (∃ (d pa : Nat) (s : State), pa < dramSize ∧ s.unitTag ((d * 2 ^ 48 + pa) / 8) = 0) ∧
    (∃ f i : Nat, (f = 1 ∧ i < 256) ∨ (f = 2 ∧ i < 16) ∨ (f = 3 ∧ i < 4)) := by
  let s (l : Nat) : State := { State.reset with devs := [(0, { links := [(l, { groups := [(0, { out := some 3 })] })] })] }
  let r (l : Nat) : State := { State.reset with devs := [(0, { links := [(l, { row := 9 })] })] }
  let w (n : Nat) : State := { State.reset with devs := [(0, { links := [(39, { row := n })] })] }
  refine ⟨?_, ?_, ?_, ?_, ⟨0, dramSize - 1, State.reset, by decide +kernel⟩, ⟨3, 3, by decide⟩⟩
  · intro l hl
    have h : ∀ l ∈ [5, 39], (isDieLink l = true ∨ isPort l = true) ∧ ((State.reset.dv 0).link l).retired = false ∧ 0 < groupCount l ∧
      (((State.reset.dv 0).link l).group 0).out = none := by decide +kernel
    exact ⟨0, State.reset, h l hl⟩
  · intro l hl
    have h : ∀ l ∈ [5, 39], (((s l).dv 0).link l).retired = false ∧ ((((s l).dv 0).link l).group 0).out = some 3 ∧ 4 ≠ 3 ∧ 4 < (if l < 6 then 17 else 5) := by decide +kernel
    exact ⟨0, s l, 3, 4, h l hl⟩
  · intro l hl
    have h : ∀ l ∈ [5, 39], (((r l).dv 0).link l).retired = false ∧ 9 ≤ (((r l).dv 0).link l).row := by decide +kernel
    exact ⟨0, r l, h l hl⟩
  · intro n hn
    have h : ∀ n ∈ [7, 8, 9], isPort 39 = true ∧ (((w n).dv 0).link 39).retired = false ∧ (((w n).dv 0).link 39).row = n := by decide +kernel
    exact ⟨0, w n, h n hn⟩

/-! ### Commands -/

/-- Each command, served, before READY, with a reserved bit, with a wrong length, and with none under way. -/
theorem test_witness_Commands : ∀ p ∈ commandSteps, Commanded (mail (dwords p.1)) p.1 ∧
    (((mail (dwords p.1) { stage := 5 }).dv 0).command = some p.1 ∧ ((mail (dwords p.1) { stage := 5 }).dv 0).stage ≠ 6) ∧
    (let s := mail (((dwords p.1).headD 0 + 2 ^ 31) :: (dwords p.1).tail)
     (s.dv 0).command = some p.1 ∧ (s.dv 0).stage = 6 ∧ (s.dv 0).cmdw 0 / 2 ^ 24 % 2 ^ 8 ≠ 0) ∧
    (let s := mail (((dwords p.1).headD 0 + 2 ^ 23) :: (dwords p.1).tail)
     (s.dv 0).busy = true ∧ (s.dv 0).command = none) ∧ (State.reset.dv 0).busy = false := by
  have h : ∀ p ∈ commandSteps, (((mail (dwords p.1)).dv (mail (dwords p.1)).dev).busy = true ∧ ((mail (dwords p.1)).dv (mail (dwords p.1)).dev).command = some p.1 ∧
      ((mail (dwords p.1)).dv (mail (dwords p.1)).dev).stage = 6 ∧ ((mail (dwords p.1)).dv (mail (dwords p.1)).dev).cmdw 0 / 2 ^ 24 % 2 ^ 8 = 0) ∧
    (((mail (dwords p.1) { stage := 5 }).dv 0).command = some p.1 ∧ ((mail (dwords p.1) { stage := 5 }).dv 0).stage ≠ 6) ∧
    (let s := mail (((dwords p.1).headD 0 + 2 ^ 31) :: (dwords p.1).tail)
     (s.dv 0).command = some p.1 ∧ (s.dv 0).stage = 6 ∧ (s.dv 0).cmdw 0 / 2 ^ 24 % 2 ^ 8 ≠ 0) ∧
    (let s := mail (((dwords p.1).headD 0 + 2 ^ 23) :: (dwords p.1).tail)
     (s.dv 0).busy = true ∧ (s.dv 0).command = none) ∧ (State.reset.dv 0).busy = false := by decide +kernel
  exact fun p hp => ⟨commanded_of (h p hp).1, (h p hp).2⟩

/-- The clauses of single commands: signatures left and used up, an image, the last space and two different keys, the
last records, the last watch word, the last aperture, two images of keys. -/
theorem test_witness_Commands_clauses :
    (∀ n ∈ [2 ^ 20 - 1, 2 ^ 20], ∀ img ∈ [none, some ([] : List Byte)], ∃ s : State, Commanded s 8 ∧ (s.dv s.dev).sigUsed = n ∧ (s.dv s.dev).extActive = img) ∧
    (∃ (s : State) (img : List Byte), Commanded s 12 ∧ s.argBytes s.dev (s.arg 1) (s.arg 2) = some img) ∧
    (∃ s : State, Commanded s 20 ∧ s.arg 1 < 2 ^ 11 ∧ s.arg 1 % 2 ^ 11 ≠ 0 ∧ [s.arg 2, s.arg 3, s.arg 4, s.arg 5] ≠ [s.arg 6, s.arg 7, s.arg 8, s.arg 9]) ∧
    (∃ s : State, Commanded s 40 ∧ s.arg 1 < 2 ^ 16 ∧ s.arg 1 / 2 ^ 8 % 2 ^ 7 = 120) ∧
    (∀ b : Bool, ∃ s : State, Commanded s 44 ∧ s.arg 1 < 2 ^ 27 ∧ s.arg 1 / 2 ^ 13 % 2 ^ 3 = 0 ∧ s.arg 2 % 8 = 0 ∧ s.arg 3 % 64 = 0 ∧ (s.arg 1).testBit 12 = b ∧
      (b = true → s.arg 1 / 2 ^ 16 = 0 ∧ s.arg 2 + 8 ≤ dramSize)) ∧
    (∃ s : State, Commanded s 48 ∧ isPort (s.arg 1) = true) ∧
    (∃ s : State, Commanded s 18 ∧ s.arg 1 / 2 ^ 11 % 2 ^ 5 = 0 ∧ s.arg 1 / 2 ^ 20 % 2 ^ 12 = 0 ∧ s.arg 2 % 2 ^ 21 = 0 ∧ s.arg 2 < 2 ^ 56 ∧ s.arg 3 < 2048) ∧
    (∃ (s : State) (space : Nat) (e : Tlb), Commanded s 44 ∧ s.arg 1 < 2 ^ 27 ∧ s.arg 1 / 2 ^ 13 % 2 ^ 3 = 0 ∧ s.arg 2 % 8 = 0 ∧ s.arg 3 % 64 = 0 ∧
      (s.arg 1).testBit 12 = true ∧ space = s.arg 1 / 2 ^ 16 ∧ space ≠ 0 ∧ areaOf (s.arg 2) = .xlat ∧ s.walk s.dev space (s.arg 2) = .leaf e ∧ e.tgt = 0) ∧
    (∃ (s : State) (space : Nat), Commanded s 44 ∧ s.arg 1 < 2 ^ 27 ∧ s.arg 1 / 2 ^ 13 % 2 ^ 3 = 0 ∧ s.arg 2 % 8 = 0 ∧ s.arg 3 % 64 = 0 ∧
      (s.arg 1).testBit 12 = true ∧ space = s.arg 1 / 2 ^ 16 ∧ space ≠ 0 ∧ areaOf (s.arg 2) ≠ .xlat) := by
  refine ⟨?_, ⟨asked 12 [0, 0], [], commanded_of (by decide +kernel), by decide +kernel⟩, ⟨asked 20 [2047, 1, 2, 3, 4, 5, 6, 7, 8], commanded_of (by decide +kernel), by decide +kernel⟩,
    ⟨asked 40 [120 * 2 ^ 8 + 255], commanded_of (by decide +kernel), by decide +kernel⟩, ?_, ⟨asked 48 [39], commanded_of (by decide +kernel), by decide +kernel⟩,
    ⟨asked 18 [2 ^ 17, 2 ^ 56 - 2 ^ 21, 2047], commanded_of (by decide +kernel), by decide +kernel⟩,
    ⟨asked 44 [2 ^ 16 + 2 ^ 12, 2 ^ 52 - 8, 64], 1, leafOf 1 (2 ^ 52 - 65536) 65536 (3 * 2 ^ 62 + 3) 0, commanded_of (by decide +kernel), by decide +kernel⟩,
    ⟨asked 44 [2047 * 2 ^ 16 + 2 ^ 12, 0, 64], 2047, commanded_of (by decide +kernel), by decide +kernel⟩⟩
  · intro n hn img hi
    have h : ∀ n ∈ [2 ^ 20 - 1, 2 ^ 20], ∀ img ∈ [none, some ([] : List Byte)], (let s := asked 8 [1, 2, 3, 4] { sigUsed := n, extActive := img }
        ((s.dv s.dev).busy = true ∧ (s.dv s.dev).command = some 8 ∧ (s.dv s.dev).stage = 6 ∧ (s.dv s.dev).cmdw 0 / 2 ^ 24 % 2 ^ 8 = 0) ∧
          (s.dv s.dev).sigUsed = n ∧ (s.dv s.dev).extActive = img) := by decide +kernel
    exact ⟨_, commanded_of (h n hn img hi).1, (h n hn img hi).2⟩
  · intro b
    cases b
    · exact ⟨asked 44 [4095, 0, 0], commanded_of (by decide +kernel), by decide +kernel⟩
    · exact ⟨asked 44 [2 ^ 12 + 4095, dramSize - 8, 64], commanded_of (by decide +kernel), by decide +kernel⟩

/-- The page that `tabled` maps, mapped anew in both modes. -/
theorem test_witness_MapWritesALeaf : ∀ defer : Bool, ∃ (s : State) (i : Instr) (leaf e0 e1 : Nat), (if defer then i = .mapDeferred ∧ Commanded s 17 else i = .map ∧ Commanded s 16) ∧
    (let d := s.dev
     let space := s.arg 1 % 2 ^ 11
     let va := s.arg 2
     s.arg 1 / 2 ^ 32 = 1 ∧ s.arg 1 / 2 ^ 11 % 2 ^ 5 = 0 ∧ s.arg 1 / 2 ^ 18 % 2 ^ 14 = 0 ∧ space ≠ 0 ∧
     va % 65536 = 0 ∧ 2 ^ 44 ≤ va ∧ va < 2 ^ 52 ∧ s.argWords d (s.arg 3) 2 = some [e0, e1] ∧ e0 / 2 ^ 62 = 3 ∧
     badEntry 65536 e0 e1 = false ∧ TablesTo s d space va leaf ∧ OneKey s d 0 ∧ Memory.wf s.mem = true ∧ s.rangeInUse d space va 65536 = false) := by
  intro b
  let s (f : Nat) : State := (asked (if f = 0 then 16 else 17) [2 ^ 32 + f + 1, 2 ^ 52 - 65536, 0x90000]).writeNum 0 (.dram 0 0x90000) 8 (3 * 2 ^ 62 + 7)
  have tables (f : Nat) (hf : f = 0 ∨ f = 2 ^ 16) : TablesTo (s f) (s f).dev ((s f).arg 1 % 2 ^ 11) ((s f).arg 2) (0x80000 + 16 * 31) := by
    refine ⟨0x10000, 0x20000, 0x70000, 0x80000, ?_⟩
    unfold TableEntry
    rcases hf with rfl | rfl <;> decide +kernel
  cases b
  · exact ⟨s 0, .map, 0x80000 + 16 * 31, 3 * 2 ^ 62 + 7, 0, ⟨rfl, commanded_of (by decide +kernel)⟩, first5 (by decide +kernel) (first5 (by decide +kernel)
      ⟨tables 0 (.inl rfl), oneKey_of (by decide +kernel), by decide +kernel⟩)⟩
  · exact ⟨s (2 ^ 16), .mapDeferred, 0x80000 + 16 * 31, 3 * 2 ^ 62 + 7, 0, ⟨rfl, commanded_of (by decide +kernel)⟩, first5 (by decide +kernel) (first5 (by decide +kernel)
      ⟨tables (2 ^ 16) (.inr rfl), oneKey_of (by decide +kernel), by decide +kernel⟩)⟩

theorem refused_of {s : State} {d pa len st : Nat} {res : List Nat}
    (h : (match s.loadGraph d pa len with | .inr x => x == (st, res) | .inl _ => false) = true) : s.loadGraph d pa len = .inr (st, res) := by
  split at h
  · rename_i x hx; rw [hx]; simp only [beq_iff_eq] at h; rw [h]
  · simp at h

theorem loaded_of {s : State} {d pa len : Nat} (h : (match s.loadGraph d pa len with | .inr _ => false | .inl _ => true) = true) :
    ∃ g, s.loadGraph d pa len = .inl g := by
  split at h
  · simp at h
  · rename_i x hx; exact ⟨x, hx⟩

/-- Device 0 serves GRAPH_LOAD of graph 62 from an image of one node at 0x40000. -/
def imaged : State :=
  (((asked 24 [62, 0x40000, 384] { graphs := [(63, graphOf [nodeOf 0 0 1] [])], nextTask := 9 }).writeNum 0 (.dram 0 0x40000) 8
    (1 + 2 ^ 32)).writeNum 0 (.dram 0 0x40040) 8 (32 * 2 ^ 24)).writeNum 0 (.dram 0 0x40050) 8 1

theorem test_witness_GraphsAndResumption :
    (∃ s : State, Commanded s 24 ∧ 64 ≤ s.arg 1) ∧
    (∃ s : State, Commanded s 24 ∧ s.arg 1 < 64 ∧ (tabFind (s.dv s.dev).graphs (s.arg 1)).isSome = true) ∧
    (∃ (s : State) (st : Nat) (res : List Nat), Commanded s 24 ∧ s.arg 1 < 64 ∧ tabFind (s.dv s.dev).graphs (s.arg 1) = none ∧
      s.loadGraph s.dev (s.arg 2) (s.arg 3) = .inr (st, res) ∧ st < 2 ^ 32) ∧
    (∃ (s : State) (x : Graph), Commanded s 24 ∧ s.arg 1 < 64 ∧ tabFind (s.dv s.dev).graphs (s.arg 1) = none ∧
      s.loadGraph s.dev (s.arg 2) (s.arg 3) = .inl x) ∧
    (∃ s : State, Commanded s 28 ∧ tabFind (s.dv s.dev).graphs (s.arg 1) = none) ∧
    (∀ b : Bool, ∃ (s : State) (x : Graph), Commanded s 28 ∧ tabFind (s.dv s.dev).graphs (s.arg 1) = some x ∧ (x.launches = [] ↔ b = true)) ∧
    (∀ b : Bool, ∃ (s : State) (t : Nat) (r : TaskRec), (let d := s.dev
      let g := s.arg 1 % 2 ^ 6
      let n := s.arg 1 / 2 ^ 6 % 2 ^ 12
      s.arg 1 < 2 ^ 19 ∧ n < (s.graph d g).nodes.length ∧ (s.gnode d g n).kind ≠ 2 ∧ Commanded s 32 ∧
      (s.nodeTasks d g n).filter (fun p => p.2.st == .parked) = if b then [(t, r)] else [])) ∧
    (∀ b : Bool, ∃ (s : State) (t : Nat) (r : TaskRec), (let d := s.dev
      let g := s.arg 1 % 2 ^ 6
      let n := s.arg 1 / 2 ^ 6 % 2 ^ 12
      s.arg 1 < 2 ^ 19 ∧ n < (s.graph d g).nodes.length ∧ (s.gnode d g n).kind ≠ 2 ∧ Commanded s 33 ∧ t < (s.dv d).nextTask ∧
      (s.nodeTasks d g n).filter (fun p => p.2.st == .parked || p.2.st == .lost) = (if b then [(t, r)] else []) ∧ (b = true → r.st = .lost))) := by
  let gr (ls : List Launch) : Graph := graphOf [nodeOf 0 0 1] ls
  let s (code : Nat) (args : List Nat) (ts : SMap TaskRec) (ls : List Launch) : State := asked code args { graphs := [(63, gr ls)], tasks := ts, nextTask := 9 }
  let r (st : TaskSt) : TaskRec := { record st with graph := 63 }
  have img : ∃ g, imaged.loadGraph imaged.dev (imaged.arg 2) (imaged.arg 3) = .inl g := loaded_of (by decide +kernel)
  refine ⟨⟨s 24 [64] [] [], commanded_of (by decide +kernel), by decide +kernel⟩, ⟨s 24 [63] [] [], commanded_of (by decide +kernel), by decide +kernel⟩,
    ⟨s 24 [62, 1, 0] [] [], 2, [67108864], commanded_of (by decide +kernel), by decide +kernel, by decide +kernel, refused_of (by decide +kernel), by decide⟩,
    ⟨imaged, img.choose, commanded_of (by decide +kernel), by decide +kernel, by decide +kernel, img.choose_spec⟩,
    ⟨s 28 [62] [] [], commanded_of (by decide +kernel), by decide +kernel⟩, ?_, ?_, ?_⟩
  · intro b
    cases b
    · exact ⟨s 28 [63] [] [launch0 1], gr [launch0 1], commanded_of (by decide +kernel), by decide +kernel⟩
    · exact ⟨s 28 [63] [] [], gr [], commanded_of (by decide +kernel), by decide +kernel⟩
  · intro b
    cases b
    · exact ⟨s 32 [63] [] [], 1, r .parked, by decide +kernel, by decide +kernel, by decide +kernel, commanded_of (by decide +kernel), by decide +kernel⟩
    · exact ⟨s 32 [63] [(1, r .parked)] [], 1, r .parked, by decide +kernel, by decide +kernel, by decide +kernel, commanded_of (by decide +kernel), by decide +kernel⟩
  · intro b
    cases b
    · exact ⟨s 33 [2 ^ 18 + 63] [] [], 1, r .lost, by decide +kernel, by decide +kernel, by decide +kernel, commanded_of (by decide +kernel), by decide +kernel⟩
    · exact ⟨s 33 [2 ^ 18 + 63] [(1, r .lost)] [], 1, r .lost, by decide +kernel, by decide +kernel, by decide +kernel, commanded_of (by decide +kernel), by decide +kernel⟩

/-- An image whose header asks for no node, one whose node has no scalar window, and one that is loaded. -/
theorem test_witness_GraphsAndResumption_load :
    (∃ (s : State) (h : List Nat), Commanded s 24 ∧ s.arg 1 < 64 ∧ tabFind (s.dv s.dev).graphs (s.arg 1) = none ∧ s.argWords s.dev (s.arg 2) 8 = some h ∧
      HeaderBad h (s.arg 3)) ∧
    (∃ (s : State) (h ws : List Nat), Commanded s 24 ∧ s.arg 1 < 64 ∧ tabFind (s.dv s.dev).graphs (s.arg 1) = none ∧ s.argWords s.dev (s.arg 2) 8 = some h ∧
      ¬ HeaderBad h (s.arg 3) ∧ s.argWords s.dev (s.arg 2 + 64) 16 = some ws ∧ nth 0 ws 0 / 2 ^ 62 ≠ 2 ∧ nth 0 ws 3 = 0 ∧ RecordBad ws) ∧
    (∃ (s : State) (h : List Nat) (x : Graph), Commanded s 24 ∧ s.arg 1 < 64 ∧ tabFind (s.dv s.dev).graphs (s.arg 1) = none ∧
      s.argWords s.dev (s.arg 2) 8 = some h ∧ s.loadGraph s.dev (s.arg 2) (s.arg 3) = .inl x) := by
  let empty : State := asked 24 [62, 0x40000, 384]
  let bare : State := empty.writeNum 0 (.dram 0 0x40000) 8 (1 + 2 ^ 32)
  have img : ∃ g, imaged.loadGraph imaged.dev (imaged.arg 2) (imaged.arg 3) = .inl g := loaded_of (by decide +kernel)
  refine ⟨⟨empty, List.replicate 8 0, commanded_of (by decide +kernel), first3 (by decide +kernel) (by unfold HeaderBad; decide +kernel)⟩,
    ⟨bare, (1 + 2 ^ 32) :: List.replicate 7 0, List.replicate 16 0, commanded_of (by decide +kernel), first3 (by decide +kernel) ⟨by unfold HeaderBad; decide +kernel,
      first3 (by decide +kernel) ?_⟩⟩,
    ⟨imaged, (1 + 2 ^ 32) :: List.replicate 7 0, img.choose, commanded_of (by decide +kernel), first3 (by decide +kernel) img.choose_spec⟩⟩
  exact .inr (.inr (.inr (.inr (.inl (by decide +kernel)))))

/-- A task of graph 63 seated in slot 0, with a save area. -/
def Sys2Proof.Tests.seatedIn (code : Nat) (args : List Nat) : State :=
  { asked code args { graphs := [(63, graphOf [nodeOf 0 0 1] [launch0 1])], tasks := [(1, { record .seated area with graph := 63 })], nextTask := 9 } with
    cores := [(0, { slots := [(0, { task with savearea := BitVec.ofNat 64 area })] })] }

theorem test_witness_ScopesAndCheckpoints_seated :
    (∃ (s : State) (t : Nat) (r : TaskRec), Commanded s 36 ∧ (s.dv s.dev).pending = none ∧ s.arg 1 < 2 ^ 20 ∧ s.arg 1 % 4 = 1 ∧
      (∀ p ∈ (s.dv s.dev).tasks, p.2.st = .seated → (s.slot p.2.core (s.leadOf p.2.core p.2.slot)).savearea ≠ 0) ∧
      s.taskRec s.dev t = some r ∧ r.graph = s.arg 1 / 4 % 2 ^ 6 ∧ r.st = .seated ∧
      (let x := s.slot r.core r.slot
       x.live = true ∧ x.spill = none ∧ x.kill = none ∧ x.gang = false ∧ x.paired = false)) ∧
    (∃ s : State, (let d := s.dev
      let g := s.arg 1 % 2 ^ 6
      let gr := s.graph d g
      (tabFind (s.dv d).graphs g).isSome = true ∧ s.arg 2 < sloelmBase ∧ Commanded s 52 ∧ s.arg 1 = g ∧ (s.dv d).pending = none ∧ gr.quiesced = false ∧
      gr.launches.length ≤ 1 ∧ s.seatedBare d g = false ∧ ∃ p ∈ (s.dv d).tasks, p.2.graph = g ∧ p.2.st = .seated ∧ (s.gnode d g p.2.node).kind ≠ 2 ∧
        (let x := s.slot p.2.core p.2.slot
         x.live = true ∧ x.spill = none ∧ x.kill = none ∧ x.gang = false ∧ x.paired = false))) :=
  ⟨⟨seatedIn 36 [1 + 4 * 63], 1, { record .seated area with graph := 63 }, commanded_of (by decide +kernel), by decide +kernel⟩,
   ⟨seatedIn 52 [63, 0], first2 (by decide +kernel) ⟨commanded_of (by decide +kernel), by decide +kernel⟩⟩⟩

theorem test_witness_ScopesAndCheckpoints :
    (∃ (s : State) (k : Nat) (ts : List Nat) (ls : List (Nat × Nat)), Commanded s 36 ∧ (s.dv s.dev).pending = some (k, ts, ls) ∧ (∀ t ∈ ts, s.taskRec s.dev t = none) ∧
      (∀ p ∈ ls, (s.graph s.dev p.1).launch p.2 = none)) ∧
    (∀ x ∈ [1, 3], ∃ s : State, Commanded s 36 ∧ (s.dv s.dev).pending = none ∧ s.arg 1 < 2 ^ 20 ∧ s.arg 1 % 4 = x) ∧
    (∀ q : Bool, ∃ s : State, (let d := s.dev
      let g := s.arg 1 % 2 ^ 6
      let gr := s.graph d g
      (tabFind (s.dv d).graphs g).isSome = true ∧ s.arg 2 < sloelmBase ∧ Commanded s 52 ∧ s.arg 1 = g ∧ (s.dv d).pending = none ∧ gr.quiesced = q ∧ gr.launches.length ≤ 1 ∧
      s.seatedBare d g = false)) ∧
    (∃ s : State, (let d := s.dev
      let g := s.arg 1 % 2 ^ 6
      let gr := s.graph d g
      (tabFind (s.dv d).graphs g).isSome = true ∧ s.arg 2 < sloelmBase ∧ Commanded s 52 ∧ s.arg 1 = g ∧ (s.dv d).pending ≠ none ∧ (∀ p ∈ (s.dv d).tasks, p.2.graph ≠ g) ∧
      s.quiescent d g = true ∧ (∀ nd ∈ gr.nodes, nd.kind ≠ 2) ∧ OneKey s d 0 ∧ Memory.wf s.mem = true ∧ s.arg 2 + (64 + 8 * statesLen gr.nodes.length) ≤ sloelmBase)) ∧
    (∀ q : Bool, ∃ s : State, (let d := s.dev
      let g := s.arg 1 % 2 ^ 6
      let gr := s.graph d g
      (tabFind (s.dv d).graphs g).isSome = true ∧ s.arg 2 < sloelmBase ∧ Commanded s 53 ∧ s.arg 1 = g + 64 ∧ gr.quiesced = q ∧ (∀ nd ∈ gr.nodes, nd.kind ≠ 2))) ∧
    (∃ s : State, (let d := s.dev
      let g := s.arg 1 % 2 ^ 6
      let gr := s.graph d g
      (tabFind (s.dv d).graphs g).isSome = true ∧ s.arg 2 < sloelmBase ∧ Commanded s 54 ∧ s.arg 1 = g + 128 ∧ gr.launches ≠ [])) ∧
    (∃ (s : State), (let d := s.dev
      let g := s.arg 1 % 2 ^ 6
      let gr := s.graph d g
      (tabFind (s.dv d).graphs g).isSome = true ∧ s.arg 2 < sloelmBase ∧ Commanded s 54 ∧ s.arg 1 = g + 128 ∧ gr.launches = [] ∧ gr.quiesced = false ∧
      ∃ x, s.readDescr d g (s.arg 2) gr = .ok x)) := by
  let gr (q : Bool) (ls : List Launch) : Graph := { graphOf [nodeOf 0 0 1] ls with quiesced := q }
  let s (code : Nat) (args : List Nat) (q : Bool) (ls : List Launch) (pend : Option (Nat × List Nat × List (Nat × Nat)) := none) : State :=
    asked code args { graphs := [(63, gr q ls)], pending := pend, nextTask := 9 }
  let ad : State := ((s 54 [63 + 128, 0xA0000] false []).writeNum 0 (.dram 0 0xA0000) 8 (63 * 2 ^ 32)).writeNum 0 (.dram 0 0xA0008) 8 7
  have had : (match ad.readDescr 0 63 0xA0000 (gr false []) with | .ok _ => true | _ => false) = true := by decide +kernel
  refine ⟨⟨s 36 [0] false [] (some (1, [1], [(63, 0)])), 1, [1], [(63, 0)], commanded_of (by decide +kernel), by decide +kernel⟩, ?_, ?_,
    ⟨s 52 [63, sloelmBase - (64 + 8 * statesLen 1)] true [] (some (0, [], [])), by decide +kernel, by decide +kernel, commanded_of (by decide +kernel), by decide +kernel, by decide +kernel,
      by decide +kernel, by decide +kernel, by decide +kernel, oneKey_of (by decide +kernel), by decide +kernel⟩, ?_,
    ⟨s 54 [63 + 128, 0] false [launch0 1], by decide +kernel, by decide +kernel, commanded_of (by decide +kernel), by decide +kernel⟩, ?_⟩
  · intro x hx
    simp only [List.mem_cons, List.not_mem_nil, or_false] at hx
    rcases hx with rfl | rfl
    · exact ⟨s 36 [1] false [], commanded_of (by decide +kernel), by decide +kernel⟩
    · exact ⟨s 36 [3] false [], commanded_of (by decide +kernel), by decide +kernel⟩
  · intro q
    cases q
    · exact ⟨s 52 [63, 0] false [launch0 1], by decide +kernel, by decide +kernel, commanded_of (by decide +kernel), by decide +kernel⟩
    · exact ⟨s 52 [63, 0] true [launch0 1], by decide +kernel, by decide +kernel, commanded_of (by decide +kernel), by decide +kernel⟩
  · intro q
    cases q
    · exact ⟨s 53 [63 + 64, 0] false [], by decide +kernel, by decide +kernel, commanded_of (by decide +kernel), by decide +kernel⟩
    · exact ⟨s 53 [63 + 64, 0] true [], by decide +kernel, by decide +kernel, commanded_of (by decide +kernel), by decide +kernel⟩
  · refine ⟨ad, by decide +kernel, by decide +kernel, commanded_of (by decide +kernel), by decide +kernel, by decide +kernel, by decide +kernel, ?_⟩
    have e1 : ad.arg 1 % 2 ^ 6 = 63 := by decide +kernel
    have e2 : ad.arg 2 = 0xA0000 := by decide +kernel
    have e3 : ad.dev = 0 := by decide +kernel
    have e4 : ad.graph 0 63 = gr false [] := by decide +kernel
    rw [e1, e2, e3, e4]
    split at had
    · rename_i x hx; exact ⟨x, hx⟩
    · simp at had
end

