-- ==== Sys2Proof/Tests/WitnessScalar.lean ====
section
/-! SUPPORT. States and operands that meet the hypotheses of the statements about the scalar instructions, the front
end, traps and steps, clause by clause. -/

set_option Elab.async false

open Sys2Proof Sys2Proof.Machine Sys2Proof.Tests

/-! ### Scalar instructions -/

theorem test_witness_IntegerArithmetic : ∃ (i : Instr) (s t : State) (v : Vals) (r : Int),
    (let o := opndOfInstr i
     let W := widthOf o
     let u := unsOf o
     intArith i W (intOf W u v.a) (intOf W u v.b) (intOf W u v.c) = some r) ∧ Issues i s v t ∧ TakesD (ctxOf i s) (sxOf (widthOf (opndOfInstr i)) r) t :=
  let i := Instr.adds (op 3 1 2 0 1)
  let s := regs [0, 2 ^ 31 - 1, 1]
  ⟨i, s, tOf i s, vOf i s, 2 ^ 31 - 1, by decide +kernel, issues_of (by decide +kernel), takes_reg (by decide +kernel)⟩

theorem test_witness_IntegerBits :
    (∃ (i : Instr) (s t : State) (v : Vals) (r : Int), (let W := widthOf (opndOfInstr i)
      intBits i W (v.a.toNat % 2 ^ W) (v.b.toNat % 2 ^ W) (v.c.toNat % 2 ^ W) = some r) ∧ Issues i s v t ∧ TakesD (ctxOf i s) (sxOf (widthOf (opndOfInstr i)) r) t) ∧
    (∃ (i : Instr) (s t : State) (v : Vals) (w : Word), intWhole i ((t.slot s.cur.1 s.cur.2).pred) v.a v.b = some w ∧
      Issues i s v t ∧ TakesD (ctxOf i s) w t) :=
  let i := Instr.bfx (op 3 1 2 0 0x1000)
  let s := regs [0, 2 ^ 63, 64]
  let j := Instr.addi (cop 3 1 31 31)
  ⟨⟨i, s, tOf i s, vOf i s, -(2 ^ 63), by decide +kernel, issues_of (by decide +kernel), takes_reg (by decide +kernel)⟩,
   ⟨j, s, tOf j s, vOf j s, 2 ^ 63 - 1, by decide +kernel, issues_of (by decide +kernel), takes_reg (by decide +kernel)⟩⟩

theorem test_witness_IntegerCompare :
    (∃ (i : Instr) (s t : State) (v : Vals) (b : Bool), ((∃ o, i = .cmp o) ∨ (∃ k, i = .cmpCompact k)) ∧
      (let o := opndOfInstr i
       let W := widthOf o
       let u := unsOf o
       let cond := fld o.fn.toNat 2 4
       cond ≤ 7 ∧ (b = true ↔ cmpCond cond (intOf W u v.a) (intOf W u v.b) (v.a.toNat % 2 ^ W) (v.b.toNat % 2 ^ W)) ∧
         Issues i s v t)) ∧
    (∃ o : Opnd, 8 ≤ fld o.fn.toNat 2 4) :=
  let i := Instr.cmp (op 2 1 2 0 0x1C)
  let s := regs [0, 5, 2]
  ⟨⟨i, s, tOf i s, vOf i s, true, .inl ⟨_, rfl⟩, by decide +kernel, by rw [cmpCond_iff]; decide +kernel,
    issues_of (by decide +kernel)⟩, ⟨op 2 1 2 0 0x20, by decide⟩⟩

theorem test_witness_DivisionCorners :
    (∃ (i : Instr) (s t : State) (v : Vals), ((∃ o, i = .div o ∨ i = .rem o) ∨ (∃ k, i = .divCompact k ∨ i = .remCompact k)) ∧
      v.b.toNat % 2 ^ widthOf (opndOfInstr i) = 0 ∧ Issues i s v t) ∧
    (∃ (i j : Instr) (s t t' : State) (v v' : Vals), (∃ o, i = .div o) ∧ (∃ k, j = .remCompact k) ∧
      unsOf (opndOfInstr i) = false ∧ intOf 32 false v.a = -(2 ^ 31) ∧ intOf 32 false v.b = -1 ∧ widthOf (opndOfInstr i) = 32 ∧
      unsOf (opndOfInstr j) = false ∧ intOf 32 false v'.a = -(2 ^ 31) ∧ intOf 32 false v'.b = -1 ∧ widthOf (opndOfInstr j) = 32 ∧
      Issues i s v t ∧ Issues j s v' t' ∧ TakesD (ctxOf i s) (sxOf 32 (-(2 ^ 31))) t ∧ TakesD (ctxOf j s) 0 t') :=
  let d := Instr.div (op 3 1 2 0 1)
  let r := Instr.remCompact (cop 3 1 2 1)
  let z := regs [0, 0, 2 ^ 32]
  let s := regs [0, 2 ^ 31, 2 ^ 32 - 1]
  ⟨⟨d, z, tOf d z, vOf d z, .inl ⟨_, .inl rfl⟩, by decide +kernel, issues_of (by decide +kernel)⟩,
   ⟨d, r, s, tOf d s, tOf r s, vOf d s, vOf r s, ⟨_, rfl⟩, ⟨_, rfl⟩, first4 (by decide +kernel) (first4 (by decide +kernel)
    ⟨issues_of (by decide +kernel), issues_of (by decide +kernel), takes_reg (by decide +kernel), takes_reg (by decide +kernel)⟩)⟩⟩

/-- The value of a finite pattern; 1 in FP16. -/
theorem fin_rat {v : FVal} {n : Bool} {m : Nat} {e : Int} (h : v = .fin n m e) : v.rat = some ((if n then -1 else 1) * (m : ℚ) * (2 : ℚ) ^ e) := by
  rw [h]; rfl

theorem half_val {x : Nat} (n : Bool) (m : Nat) (e : Int) {q : ℚ} (h : fdecode (fmtOf 2) x = .fin n m e)
    (hq : (if n then -1 else 1) * (m : ℚ) * (2 : ℚ) ^ e = q) : (fmtOf 2).val x = some q := by
  rw [← hq]; exact fin_rat h

theorem half_one : (fmtOf 2).val 0x3C00 = some 1 := half_val false 1024 (-10) (by decide +kernel) (by norm_num)

/-- 1.0 + 1.0 in FP32 is 2.0 and raises nothing. -/
theorem test_witness_FloatResults :
    (∃ (i : Instr) (s t : State) (v : Vals) (w : Word) (fl : Flags),
      floatRule i ((t.slot s.cur.1 s.cur.2).mode (fld (opndOfInstr i).fn.toNat 2 3)) v = some (w, fl) ∧
      fl &&& (t.slot s.cur.1 s.cur.2).trapEn = 0 ∧ Issues i s v t ∧ TakesD (ctxOf i s) w t) ∧
    (∃ (i : Instr) (s t : State) (v : Vals) (w : Word), floatQuiet i v = some w ∧ Issues i s v t ∧ TakesD (ctxOf i s) w t) ∧
    (∃ code : Nat, code < 3) :=
  let i := Instr.fadd (op 3 1 2 0 1)
  let j := Instr.fsgn (op 3 1 2 0 0x81)
  let s := regs [0, 0x3F800000, 0x3F800000]
  ⟨⟨i, s, tOf i s, vOf i s, 0x40000000, 0, by decide +kernel, by decide +kernel, issues_of (by decide +kernel),
    takes_reg (by decide +kernel)⟩,
   ⟨j, s, tOf j s, vOf j s, 0xBF800000, by decide +kernel, issues_of (by decide +kernel), takes_reg (by decide +kernel)⟩, 2, by decide⟩

/-- 1 / 0 raises DZ (R79). Two numbers of FP32, 1 and a NaN, an infinity, zero, the least and the greatest exponents. -/
theorem test_witness_FloatFlagsAndTraps :
    (∃ (o : Opnd) (s t : State) (v : Vals), Issues (.fcmp o) s v t) ∧
    (∃ (i : Instr) (s t : State) (v : Vals) (w : Word) (fl : Flags),
      floatRule i ((t.slot s.cur.1 s.cur.2).mode (fld (opndOfInstr i).fn.toNat 2 3)) v = some (w, fl) ∧
      fl &&& (t.slot s.cur.1 s.cur.2).trapEn ≠ 0 ∧ Issues i s v t) ∧
    (∃ (n : Nat) (a b c : Nat), (fdecode (fmtOf n) a).isSig = true ∧ (fdecode (fmtOf n) a).isNan = true ∧
      (fdecode (fmtOf n) b).isNan = true ∧ (fdecode (fmtOf n) c).isNan = false) ∧
    (∃ n a b cond : Nat, 1 ≤ n ∧ n ≤ 3 ∧ cond < 8 ∧ (fdecode (fmtOf n) a).isNan = false ∧ (fdecode (fmtOf n) b).isNan = false ∧
      (fmtOf n).val a = some 1 ∧ (fmtOf n).val b = some 0) ∧
    (∀ neg : Bool, ∃ n a : Nat, 1 ≤ n ∧ n ≤ 3 ∧ fdecode (fmtOf n) a = .inf neg) ∧
    (∃ n a : Nat, ∃ x : ℚ, 1 ≤ n ∧ n ≤ 3 ∧ (fmtOf n).val a = some x ∧ x < 0) ∧
    (∀ k ∈ [(-24 : Int), 15], ∃ n a b : Nat, 1 ≤ n ∧ n ≤ 3 ∧ (fmtOf n).val a = some (k : ℚ) ∧ (fmtOf n).emin - (fmtOf n).mbits ≤ k ∧ k ≤ (fmtOf n).bias ∧
      (fmtOf n).val b = some (2 ^ k)) ∧
    (∃ n a : Nat, ∃ k : Int, 1 ≤ n ∧ n ≤ 3 ∧ (fmtOf n).val a = some ((k : ℚ) / 4) ∧ k % 4 = 3 ∧ k ≠ 0) := by
  let o := op 3 1 2 0 1
  let i := Instr.frcp (op 3 1 0 0 1)
  let s := with0 { task with trapEn := 8 } [0, 0, 0x3F800000]
  refine ⟨⟨o, s, tOf (.fcmp o) s, vOf (.fcmp o) s, issues_of (by decide +kernel)⟩,
    ⟨i, s, tOf i s, vOf i s, 0x7F800000, 8, by decide +kernel, by decide +kernel, issues_of (by decide +kernel)⟩,
    ⟨1, 0x7F800001, 0x7FC00000, 0x3F800000, by decide +kernel⟩,
    ⟨2, 0x3C00, 0, 7, by decide, by decide, by decide, by decide +kernel, by decide +kernel, half_one, half_val false 0 (-24) (by decide +kernel) (by norm_num)⟩, ?_,
    ⟨2, 0xBC00, -1, by decide, by decide, half_val true 1024 (-10) (by decide +kernel) (by norm_num), by norm_num⟩, ?_,
    ⟨2, 0x3A00, 3, by decide, by decide, half_val false 1536 (-11) (by decide +kernel) (by norm_num), by decide, by decide⟩⟩
  · intro neg
    cases neg
    · exact ⟨2, 0x7C00, by decide +kernel⟩
    · exact ⟨3, 0xFF80, by decide +kernel⟩
  · intro k hk
    simp only [List.mem_cons, List.not_mem_nil, or_false] at hk
    rcases hk with rfl | rfl
    · exact ⟨2, 0xCE00, 1, by decide, by decide, half_val true 1536 (-6) (by decide +kernel) (by norm_num), by decide +kernel, by decide +kernel,
        half_val false 1 (-24) (by decide +kernel) (by norm_num)⟩
    · exact ⟨2, 0x4B80, 0x7800, by decide, by decide, half_val false 1920 (-7) (by decide +kernel) (by norm_num), by decide +kernel, by decide +kernel,
        half_val false 1024 5 (by decide +kernel) (by norm_num)⟩

/-- 1 and 1 within the finite range of FP16; the greatest number of FP16 clamped to a byte format and within it; an integer;
the reciprocal of 1 and of the least subnormal, which lies beyond the range. -/
theorem test_witness_FloatRoundedOnce :
    (∃ (n : Nat) (a b c : Nat) (x y z : ℚ), (let f := fmtOf n
      f.val a = some x ∧ f.val b = some y ∧ f.val c = some z ∧ InRange f (x + y) ∧ InRange f (x - y) ∧ InRange f (x * y) ∧ InRange f (x * y + z) ∧
        y ≠ 0 ∧ InRange f (y * (2 - x * y)) ∧ InRange f (y * (3 - x * y * y) / 2))) ∧
    (∃ (n : Nat) (w : Word) (x : ℚ), (fmtOf n).val w.toNat = some x ∧ InRange (fmtOf 2) x ∧ |x| ≤ 448 ∧ InRange e5m2 x) ∧
    (∀ code ∈ [4, 5, 6, 7], ∃ lo hi, cvtRange code = some (lo, hi)) ∧
    (∃ (n : Nat) (w : Word), (fdecode (fmtOf n) w.toNat).isNan = true) ∧
    (∀ code ∈ [8, 9, 10, 11], ∃ (n : Nat) (w : Word) (i : Int), cvtSource code w = some i ∧ InRange (fmtOf n) i) ∧
    (∃ (w : Word) (x y : ℚ), e4m3Val (w.toNat % 256) = some x ∧ e5m2.val (w.toNat % 256) = some y) ∧
    (∃ (n a : Nat) (x : ℚ), (fmtOf n).val a = some x ∧ 0 < x ∧ InRange (fmtOf n) x⁻¹) ∧
    (∃ (n a : Nat) (x : ℚ), (fmtOf n).val a = some x ∧ x ≠ 0 ∧ x < 0 ∧ ¬ InRange (fmtOf n) x⁻¹) ∧
    (∃ n a : Nat, (fmtOf n).val a = some 0) ∧ (∃ n a : Nat, ∃ neg, fdecode (fmtOf n) a = .inf neg) := by
  have top : (fmtOf 2).val (fmtOf 2).maxBits = some 65504 := half_val false 2047 5 (by decide +kernel) (by norm_num)
  have within {q : ℚ} (h : |q| ≤ 65504) : InRange (fmtOf 2) q := ⟨_, top, h⟩
  refine ⟨⟨2, 0x3C00, 0x3C00, 0x3C00, 1, 1, 1, half_one, half_one, half_one, ?_⟩, ⟨2, 0x3C00, 1, half_one, ?_⟩, ?_, ⟨2, 0x7C01, by decide +kernel⟩, ?_,
    ⟨0x38, _, _, fin_rat (n := false) (m := 8) (e := -3) (by decide +kernel), fin_rat (n := false) (m := 4) (e := -3) (by decide +kernel)⟩, ⟨2, 0x3C00, 1, half_one, by norm_num, within (by norm_num)⟩,
    ⟨2, 0x8001, -(2 ^ (-24 : ℤ)), half_val true 1 (-24) (by decide +kernel) (by norm_num), by norm_num, by norm_num, ?_⟩,
    ⟨2, 0, half_val false 0 (-24) (by decide +kernel) (by norm_num)⟩, ⟨2, 0x7C00, false, by decide +kernel⟩⟩
  · norm_num [within]
  · refine ⟨within (by norm_num), by norm_num, ⟨57344, ?_, by norm_num⟩⟩
    rw [Fmt.val, show fdecode e5m2 e5m2.maxBits = .fin false 7 13 by decide +kernel, FVal.rat]; norm_num
  · intro code hc
    simp only [List.mem_cons, List.not_mem_nil, or_false] at hc
    rcases hc with rfl | rfl | rfl | rfl <;> exact ⟨_, _, rfl⟩
  · intro code hc
    simp only [List.mem_cons, List.not_mem_nil, or_false] at hc
    rcases hc with rfl | rfl | rfl | rfl <;> exact ⟨2, 1, 1, by decide +kernel, within (by norm_num)⟩
  · rintro ⟨m, hm, h⟩
    rw [top] at hm
    injection hm with hm
    rw [← hm] at h
    norm_num at h

theorem test_witness_Transfers :
    (∃ (i : Instr) (s t : State) (v : Vals) (tgt : Option (BitVec 56)) (link : Option Word),
      transferOf i s.here.pc v = some (tgt, link) ∧ Issues i s v t ∧ (∀ w, link = some w → TakesD (ctxOf i s) w t)) ∧
    (∃ (i : Instr) (s t : State) (v : Vals), (∃ o, i = .jmp o ∨ i = .callr o) ∧ (v.a + v.b).toNat % 4 ≠ 0 ∧ Issues i s v t) ∧
    (∃ (o : Opnd) (s t : State) (v : Vals), Issues (.beat o) s v t) ∧
    (∃ (o : Opnd) (s t : State) (v : Vals), Issues (.trap o) s v t) :=
  let i := Instr.call (op 30 0 0 0 0x3FFF)
  let j := Instr.jmp (op 0 1 2 0)
  let s := regs [0, 0x1000, 2]
  ⟨⟨i, s, tOf i s, vOf i s, some 0xFFC, some 0x1008, by decide +kernel, issues_of (by decide +kernel),
    fun _ _ => takes_reg (by decide +kernel)⟩,
   ⟨j, s, tOf j s, vOf j s, ⟨_, .inl rfl⟩, by decide +kernel, issues_of (by decide +kernel)⟩,
   ⟨op 0 0 0 0, s, _, _, issues_of (by decide +kernel)⟩, ⟨op 0 0 0 0 0x3FFF, s, _, _, issues_of (by decide +kernel)⟩⟩

theorem test_witness_PredicatesAndFullEmpty :
    (∃ (i : Instr) (s t : State) (v : Vals) (b : Bool),
      predRule i ((t.slot s.cur.1 s.cur.2).pred) v = some b ∧ Issues i s v t) ∧
    (∃ (i : Instr) (s t : State) (v : Vals) (w : Word),
      predRead i (t.slot s.cur.1 s.cur.2) = some w ∧ Issues i s v t ∧ TakesD (ctxOf i s) w t) ∧
    (∃ (o : Opnd) (s t : State) (v : Vals), Issues (.pmovWriteWord o) s v t) ∧
    (∃ (o : Opnd) (s t : State) (v : Vals), o.fn = 0 ∧ Issues (.empty o) s v t) ∧
    (∃ (o : Opnd) (s t : State) (v : Vals), o.fn = 1 ∧ Issues (.empty o) s v t) ∧
    (∃ (o : Opnd) (s t : State) (v : Vals), wellFormed (.fetest o) = true ∧ Issues (.fetest o) s v t ∧ Alone s) :=
  let i := Instr.plog (op 7 0 1 0 0x8)
  let j := Instr.pmovReadWord (op 127 0 0 0)
  let s := with0 { task with preds := 0x402 } [0, 0x400, 2]
  ⟨⟨i, s, tOf i s, vOf i s, true, by decide +kernel, issues_of (by decide +kernel)⟩,
   ⟨j, s, tOf j s, vOf j s, 0x403, by decide +kernel, issues_of (by decide +kernel), takes_reg (by decide +kernel)⟩,
   ⟨op 0 1 0 0 1, s, _, _, issues_of (by decide +kernel)⟩, ⟨op 127 0 0 0, s, _, _, rfl, issues_of (by decide +kernel)⟩,
   ⟨op 31 0 0 0 1, s, _, _, rfl, issues_of (by decide +kernel)⟩,
   ⟨op 1 145 0 0 2, s, _, _, by decide +kernel, issues_of (by decide +kernel), alone_of (by decide +kernel)⟩⟩

/-- One register of each kind that the statement names. -/
theorem test_witness_ControlRegisterReads : ∀ p ∈ [(0x300, 1), (6, 7), (0x10F, 0x4040), (0x113, 0)],
    ∃ (o : Opnd) (s t : State) (v : Vals), o.fn.toNat = p.1 ∧
    (let num := o.fn.toNat % 2 ^ 12
     let c := s.cur.1
     let n := s.cur.2
     (ctlRule t c n num = some p.2 ∨ (num = 6 ∧ n ≠ 62 ∧ p.2 = ((t.slot c n).timerAt (t.now c)).toNat) ∨
      (num / 16 = 0x10 ∧ p.2 = ((t.core c).tcfgAt (num % 16)).toNat) ∨ (num = 0x113 ∧ p.2 = (t.core c).semWord.toNat))) ∧
    Issues (.ctlRead o) s v t ∧ Alone s ∧ TakesD (ctxOf (.ctlRead o) s) (BitVec.ofNat 64 p.2) t := by
  let s := with0 { task with timer := 7 } []
  intro p hp
  simp only [List.mem_cons, List.not_mem_nil, or_false] at hp
  rcases hp with rfl | rfl | rfl | rfl
  · exact ⟨op 127 0 0 0 0x300, s, _, _, by decide +kernel, .inl (by decide +kernel), issues_of (by decide +kernel), alone_of (by decide +kernel), takes_reg (by decide)⟩
  · exact ⟨op 127 0 0 0 6, s, _, _, by decide +kernel, .inr (.inl (by decide +kernel)), issues_of (by decide +kernel), alone_of (by decide +kernel), takes_reg (by decide)⟩
  · exact ⟨op 127 0 0 0 0x10F, s, _, _, by decide +kernel, .inr (.inr (.inl (by decide +kernel))), issues_of (by decide +kernel), alone_of (by decide +kernel), takes_reg (by decide)⟩
  · exact ⟨op 127 0 0 0 0x113, s, _, _, by decide +kernel, .inr (.inr (.inr (by decide +kernel))), issues_of (by decide +kernel), alone_of (by decide +kernel), takes_reg (by decide)⟩

/-- For each statement about writes of control registers, an instruction that issues. -/
theorem test_witness_ControlRegisterWrites :
    (∃ (o : Opnd) (s t : State) (v : Vals), wellFormed (.ctlWrite o) = true ∧ Issues (.ctlWrite o) s v t) ∧
    (∃ (o : Opnd) (s t : State) (v : Vals), Issues (.timerArm o) s v t) ∧
    (∃ (o : Opnd) (s t : State) (v : Vals), Issues (.modeWrite o) s v t) ∧
    (∃ (o : Opnd) (s t : State) (v : Vals), Issues (.vshapeWrite o) s v t) ∧
    (∃ (o : Opnd) (s t : State) (v : Vals), Issues (.tcfgWrite o) s v t) ∧
    (∃ (o : Opnd) (s t : State) (v : Vals), Issues (.runqFlush o) s v t ∧ Alone s) ∧
    (∃ (o : Opnd) (s t : State) (v : Vals), Issues (.semcfgWrite o) s v t ∧ Alone s ∧
      (let ws := ((t.core s.cur.1).sem (v.a.toNat % 16)).waiters
       ws = [5, 6] ∧ v.a.toNat / 2 ^ 16 % 2 ^ 16 = 1 ∧ ws.length ≤ 64 ∧ ws.Nodup ∧ ∀ w ∈ ws, (t.slot s.cur.1 w).paired = false)) ∧
    (∃ (o : Opnd) (s t : State) (v : Vals), Issues (.traceWrite o) s v t ∧ Alone s) ∧
    (∃ (o : Opnd) (s t : State) (v : Vals), Issues (.qflagsClear o) s v t ∧ Alone s ∧
      ∃ r ∈ (t.dv (s.cur.1 / 512)).raises, r.1 = s.cur.1 % 512 / 32 ∧ r.2.2 + 32 < t.now s.cur.1) ∧
    (∃ (d idx q : Nat) (f : BitVec 5) (cyc : Nat) (s : State), (s.dv d).raises[idx]? = some (q, f, cyc)) :=
  let s := with0 { task with hmode := true, matrix := true } [0, 3]
  let w := world { slots := [(0, { task with hmode := true }), (5, { task with run := .out [.sem 15] }), (6, { task with run := .out [.sem 15] })],
                   sfile := file [0, 0x1000F], sems := [(15, { count := 0, waiters := [5, 6] })] }
  let q : State := { world { slots := [(0, { task with hmode := true })], sfile := file [0, 31], order := [0], start := 40 } with
    devs := [(0, { raises := [(0, 1, 7), (0, 2, 8)] })] }
  ⟨⟨op 0 1 0 0 0x1000, s, _, _, by decide +kernel, issues_of (by decide +kernel)⟩,
   ⟨op 0 1 0 0 0x1006, s, _, _, issues_of (by decide +kernel)⟩, ⟨op 0 1 0 0 0x100A, s, _, _, issues_of (by decide +kernel)⟩,
   ⟨op 0 1 0 0 0x1007, s, _, _, issues_of (by decide +kernel)⟩, ⟨op 0 1 0 0 0x110F, s, _, _, issues_of (by decide +kernel)⟩,
   ⟨op 0 1 0 0 0x1112, s, _, _, issues_of (by decide +kernel), alone_of (by decide +kernel)⟩,
   ⟨op 0 1 0 0 0x1113, w, tOf (.semcfgWrite (op 0 1 0 0 0x1113)) w, vOf (.semcfgWrite (op 0 1 0 0 0x1113)) w,
    issues_of (by decide +kernel), alone_of (by decide +kernel), by decide +kernel⟩,
   ⟨op 0 1 0 0 0x1111, s, _, _, issues_of (by decide +kernel), alone_of (by decide +kernel)⟩,
   ⟨op 0 1 0 0 0x1110, q, tOf (.qflagsClear (op 0 1 0 0 0x1110)) q, vOf (.qflagsClear (op 0 1 0 0 0x1110)) q, issues_of (by decide +kernel),
    alone_of (by decide +kernel), by decide +kernel⟩,
   ⟨0, 0, 15, 1, 0, { State.reset with devs := [(0, { raises := [(15, 1, 0)] })] }, by decide +kernel⟩⟩

theorem test_witness_EretReturns :
    (∃ (o : Opnd) (s t : State) (v : Vals), Issues (.eret o) s v t) ∧
    (∃ (o : Opnd) (s : State), Executes (.eret o) s ∧ s.here.hmode = false) :=
  ⟨⟨op 0 0 0 0, with0 { task with hmode := true } [], _, _, issues_of (by decide +kernel)⟩,
   ⟨op 0 0 0 0, regs [], by unfold Executes; decide +kernel, by decide +kernel⟩⟩

/-! ### The front end -/

/-- The slot runs the instruction, decided. -/
theorem executes_of {i : Instr} {s : State}
    (h : (ofSlot i && s.here.live && !s.here.paired && guardOk s.here (opndOfInstr i).g (opndOfInstr i).gn) = true) : Executes i s := by
  simp only [Bool.and_eq_true, Bool.not_eq_true'] at h
  exact ⟨h.1.1.1, h.1.1.2, h.1.2, h.2⟩

/-- The operands are registers, decided. -/
theorem registerForm_of {i : Instr} (h : ((fieldsOf i).all (fun f =>
    (f.kind.scalar && (decide (f.spec < 128) || f.spec == 145)) || f.kind == .none || f.kind == .psrc || f.kind == .pdst)) = true) :
    RegisterForm i := by
  simp only [List.all_eq_true, Bool.or_eq_true, Bool.and_eq_true, decide_eq_true_eq, beq_iff_eq] at h
  exact fun f hf => by have := h f hf; tauto

/-- The checks of the sources, decided. -/
theorem sources_of {i : Instr} {s : State} (h : ((fieldsOf i).all (fun f => (!f.kind.scalar || decide (128 ≤ f.spec) || decide (f.spec < s.here.scount)) &&
      (!f.kind.reads || decide (128 ≤ f.spec) || ((s.fieldEntry f).full && !(s.fieldEntry f).poison)))) = true) :
    ∀ f ∈ fieldsOf i, InWindow s f ∧ FullSource s f ∧ CleanSource s f := by
  intro f hf
  simp only [List.all_eq_true, Bool.and_eq_true, Bool.or_eq_true, Bool.not_eq_true', decide_eq_true_eq] at h
  obtain ⟨h1, h2⟩ := h f hf
  refine ⟨fun a b => ?_, fun a b => ?_, fun a b => ?_⟩
  · rcases h1 with (h1 | h1) | h1
    · simp [a] at h1
    · omega
    · exact h1
  all_goals
    rcases h2 with (h2 | h2) | h2
    · simp [a] at h2
    · omega
    · simp [h2]

/-- An instruction of a slot that runs a task. -/
theorem home_of {i : Instr} {s : State} (h : s.cur.2 ≠ 62) : AtHome i s := fun hu => absurd hu h

theorem test_witness_OperandsIssue :
    (∃ (i : Instr) (s : State), ofSlot i = true ∧ s.here.live = true ∧ guardOk s.here (opndOfInstr i).g (opndOfInstr i).gn = false) ∧
    (∃ (i : Instr) (s : State), Executes i s ∧ RegisterForm i ∧ RoleHeld i s ∧ AtHome i s ∧
      (∀ f ∈ fieldsOf i, InWindow s f ∧ FullSource s f ∧ CleanSource s f) ∧ FreeDest i s) :=
  ⟨⟨.nop ⟨7, false, 0, 0, 0, 0, false, false, false, false, 0, none⟩, regs [], by decide +kernel⟩,
   ⟨.madd (op 127 0 127 145), regs [], executes_of (by decide +kernel), registerForm_of (by decide +kernel), True.intro,
    home_of (by decide +kernel), sources_of (by decide +kernel), fun _ _ => by decide +kernel⟩⟩

theorem test_witness_FrontEndStops :
    (∃ (i : Instr) (s : State), Executes i s ∧ ¬ RoleHeld i s) ∧
    (∃ (i : Instr) (s : State), Executes i s ∧ RegisterForm i ∧ RoleHeld i s ∧ ¬ AtHome i s) ∧
    (∃ (i : Instr) (s : State) (before after : List Fld) (f : Fld), Executes i s ∧ RegisterForm i ∧ RoleHeld i s ∧ AtHome i s ∧
      fieldsOf i = before ++ f :: after ∧ (∀ g ∈ before, InWindow s g) ∧ ¬ InWindow s f) ∧
    (∃ (i : Instr) (s : State), Executes i s ∧ RegisterForm i ∧ RoleHeld i s ∧ AtHome i s ∧ (∀ f ∈ fieldsOf i, InWindow s f) ∧
      (fieldsOf i).filter (fun f => f.kind.reads && decide (f.spec < 128) && !(s.fieldEntry f).full) ≠ []) ∧
    (∃ (i : Instr) (s : State) (tag : Nat), Executes i s ∧ RegisterForm i ∧ RoleHeld i s ∧ AtHome i s ∧
      (∀ f ∈ fieldsOf i, InWindow s f ∧ FullSource s f) ∧ s.lowestTag i = some tag) ∧
    (∃ (i : Instr) (s : State), Executes i s ∧ RegisterForm i ∧ RoleHeld i s ∧ AtHome i s ∧
      (∀ f ∈ fieldsOf i, InWindow s f ∧ FullSource s f ∧ CleanSource s f) ∧ ¬ FreeDest i s) := by
  let far : State := { world { slots := [(62, task)], sfile := file [0, 0x10000000000 + 2 ^ 24] } with cur := (0, 62) }
  refine ⟨⟨.gsync (op 0 0 0 0), regs [], executes_of (by decide +kernel), show ¬ ((regs []).here.gang = true) by decide +kernel⟩,
    ⟨.ld (op 3 1 145 0), far, executes_of (by decide +kernel), registerForm_of (by decide +kernel), True.intro, ?_⟩,
    ⟨.add (op 3 1 32 0), with0 { task with scount := 32 } [], fieldsOf (.add (op 3 1 32 0)) |>.take 1, fieldsOf (.add (op 3 1 32 0)) |>.drop 2,
      ⟨2, .src, 32, false⟩, executes_of (by decide +kernel), registerForm_of (by decide +kernel), True.intro, home_of (by decide), by decide +kernel, ?_,
      fun h => absurd (h (by decide +kernel) (by decide +kernel)) (by decide +kernel)⟩,
    ⟨.add (op 3 1 2 0), world { slots := [(0, task)], sfile := [(2, { full := false })] }, executes_of (by decide +kernel), registerForm_of (by decide +kernel),
      True.intro, home_of (by decide), ?_, by decide +kernel⟩,
    ⟨.add (op 3 1 2 0), world { slots := [(0, task)], sfile := [(1, { poison := true, tag := 0xFFF }), (2, { poison := true, tag := 0 })] }, 0, executes_of (by decide +kernel),
      registerForm_of (by decide +kernel), True.intro, home_of (by decide), ?_, by decide +kernel⟩,
    ⟨.add (op 127 1 2 0), world { slots := [(0, task)], sfile := [(127, { full := false, pend := true })] }, executes_of (by decide +kernel),
      registerForm_of (by decide +kernel), True.intro, home_of (by decide), sources_of (by decide +kernel),
      fun h => absurd (h (by decide +kernel) (by decide +kernel)) (by decide +kernel)⟩⟩
  · have key := sources_of (i := .ld (op 3 1 145 0)) (s := far) (by decide +kernel)
    exact fun h => absurd (show LeavesCore (.ld (op 3 1 145 0)) 0 (far.fieldVal (fieldAt (.ld (op 3 1 145 0)) 0)) (far.operandB (.ld (op 3 1 145 0)))
      by show leaves 0 (far.fieldVal (fieldAt (.ld (op 3 1 145 0)) 0) + far.operandB (.ld (op 3 1 145 0))) = true; decide +kernel) ((h rfl rfl).2 (fun f hf => ⟨(key f (List.mem_of_mem_take hf)).1, (key f (List.mem_of_mem_take hf)).2.1⟩))
  · have : ∀ g ∈ (fieldsOf (.add (op 3 1 32 0))).take 1, g.spec < (with0 { task with scount := 32 } []).here.scount := by decide +kernel
    exact fun g hg _ _ => this g hg
  · have : ∀ g ∈ fieldsOf (.add (op 3 1 2 0)), g.spec < (world { slots := [(0, task)], sfile := [(2, { full := false })] }).here.scount := by decide +kernel
    exact fun g hg _ _ => this g hg
  · have : ∀ g ∈ fieldsOf (.add (op 3 1 2 0)), g.spec < (world { slots := [(0, task)], sfile := [(1, { poison := true, tag := 0xFFF }), (2, { poison := true, tag := 0 })] }).here.scount ∧
      ((world { slots := [(0, task)], sfile := [(1, { poison := true, tag := 0xFFF }), (2, { poison := true, tag := 0 })] }).fieldEntry g).full = true := by decide +kernel
    exact fun g hg => ⟨fun _ _ => (this g hg).1, fun _ _ => (this g hg).2⟩

theorem test_witness_PortsAndDestinations :
    (∃ (i : Instr) (s : State) (e : PEntry) (rest : List PEntry), Executes i s ∧ RoleHeld i s ∧ StaysHome i s e.val (s.operandB i) ∧
      (let f := fieldAt i 0
       f.kind = .src ∧ 128 ≤ f.spec ∧ f.spec < 136 ∧
       (∀ n, 1 ≤ n → n < 4 → (let g := fieldAt i n
         ((g.kind.scalar = true ∧ (g.spec < 128 ∨ g.spec = 145)) ∨ g.kind = .none ∨ g.kind = .psrc ∨ g.kind = .pdst) ∧
           InWindow s g ∧ FullSource s g ∧ CleanSource s g)) ∧ FreeDest i s ∧
       (s.core s.cur.1).port f.spec = e :: rest ∧ e.filled = true ∧ e.poison = false)) ∧
    (∃ (t : State) (x : Ctx) (spec : Nat) (w : Word), (t.slot x.c x.n).paired = false ∧ Takes x spec w t) := by
  refine ⟨⟨.add (op 3 135 2 0), world { slots := [(0, task)], ports := [(135, [{ val := 7 }])] }, { val := 7 }, [],
    by unfold Executes; decide +kernel, True.intro,
    fun hu => absurd hu (by decide), first3 (by decide +kernel) ⟨?_, fun _ _ => by decide +kernel, by decide +kernel, rfl, rfl⟩⟩,
    ⟨regs [], ctxOf (.nop (op 0 0 0 0)) (regs []), 146, 0, by decide +kernel, fun _ _ => by decide +kernel⟩⟩
  have key := sources_of (i := .add (op 3 135 2 0)) (s := world { slots := [(0, task)], ports := [(135, [{ val := 7 }])] }) (by decide +kernel)
  intro n h1 h4
  obtain rfl | rfl | rfl : n = 1 ∨ n = 2 ∨ n = 3 := by omega
  all_goals exact ⟨by decide +kernel, key _ (by decide +kernel)⟩

theorem test_witness_ScalarFrame : ∃ (i : Instr) (s t u : State) (v : Vals), Executes i s ∧ RegisterForm i ∧ Issues i s v t ∧
    (∃ (o : Opnd) (k : Compact), i ∈ [.add o, .addCompact k]) ∧ exec i s = .next u :=
  let i := Instr.add (op 3 1 2 0)
  let s := regs [0, 1, 2]
  ⟨i, s, tOf i s, after i s, vOf i s, executes_of (by decide +kernel), registerForm_of (by decide +kernel), issues_of (by decide +kernel),
    ⟨op 3 1 2 0, cop 0 0 0, by simp [i]⟩, next_after (by decide +kernel)⟩

/-! ### Traps -/

theorem test_witness_TrapEntry :
    (∃ (s : State) (c n : Nat), (s.slot c n).paired = false ∧ n ≠ 62 ∧ (s.slot c n).hmode = false ∧ (s.slot c n).tvec ≠ 0) ∧
    (∃ (s : State) (c n : Nat) (t : Trap), (s.slot c n).paired = false ∧ n ≠ 62 ∧ ((s.slot c n).hmode = true ∨ (s.slot c n).tvec = 0) ∧
      t.cause ≠ 0x12 ∧ (s.slot c n).spill = none ∧ s.taskRec (c / 512) (s.slot c n).task = none) ∧
    (∃ (s : State) (c n : Nat) (t : Trap), (s.slot c n).paired = false ∧ n ≠ 62 ∧ ((s.slot c n).hmode = true ∨ (s.slot c n).tvec = 0) ∧
      t.cause ≠ 0x12 ∧ (s.slot c n).spill = some .discard) ∧
    (∃ (s : State) (c n : Nat), (s.slot c n).paired = false ∧ n ≠ 62 ∧ ((s.slot c n).hmode = true ∨ (s.slot c n).tvec = 0) ∧
      ∃ a ∈ s.own c n, a.stage ≠ .parked ∧ a.stage ≠ .placing) ∧
    (∃ (s : State) (c n k : Nat), (s.slot c n).paired = false ∧ n ≠ 62 ∧ ((s.slot c n).hmode = true ∨ (s.slot c n).tvec = 0) ∧
      (s.slot c n).gang = false ∧ ((s.core c).claim k).valid = true ∧ ((s.core c).claim k).slot = n ∧ ((s.core c).claim k).saved = none ∧
      s.own c n = [] ∧ (s.core c).vops = []) :=
  ⟨⟨regs [], 0, 0, by decide +kernel⟩, ⟨with0 { task with hmode := true } [], 0, 0, ⟨1, 5, 0⟩, by decide +kernel⟩,
   ⟨with0 { task with hmode := true, spill := some .discard } [], 0, 0, ⟨1, 5, 0⟩, by decide +kernel⟩,
   ⟨flying (req (.ld true) (.bank 0 0)) (with0 { task with hmode := true } []), 0, 0, by decide +kernel⟩,
   ⟨world { slots := [(63, { task with tvec := 0 })], claims := [(255, { valid := true, slot := 63 })] }, 0, 63, 255, by decide +kernel⟩⟩

/-! ### Words, fetching and steps -/

theorem test_witness_DecodeOfEncode : ∃ i : Instr, wellFormed i = true ∧ shapeOf i ≠ .event ∧ ofSlot i = true :=
  ⟨.mul ⟨7, true, 127, 146, 0, 0, true, false, false, false, 1, some 0xFFFFFFFF⟩, by decide +kernel⟩

/-- The word of `nop`, and one that is illegal, at the pc of slot 0. -/
def Sys2Proof.Tests.atNop : State := State.reset.withFetchWord 64 0xDD
def Sys2Proof.Tests.atBad : State :=
  State.reset.withFetchWord 64 ((encWord0 0x10 (op 3 1 2 0)).toNat + 2 ^ 32 * (encWord1 (op 3 1 2 0)).toNat)

theorem test_witness_RefusedEncodings :
    (∃ (op : Nat) (o : Opnd) (k : Nat), op < 256 ∧ illegalSub op o = some k ∧ k ≠ 1) ∧
    (∃ op : Nat, op < 256 ∧ assigned op = false) ∧
    (∃ (op6 : Nat) (k : Compact) (n : Nat), op6 ≤ 0x1B ∧ compactSub op6 k = some n) ∧
    (∃ op6 : Nat, 0x1B < op6 ∧ op6 < 64) ∧ (∃ w0 : BitVec 32, w0.toNat % 4 = 2) ∧ (∃ s : State, s.here.live = true) ∧
    (∃ (s : State) (c n k : Nat) (w0 w1 w2 : BitVec 32), s.fetch c n = .words w0 w1 w2 ∧ decode w0 w1 w2 = .illegal k) :=
  ⟨⟨0x10, op 3 1 2 0, 4, by decide +kernel⟩, ⟨0xC0, by decide⟩, ⟨0x1B, cop 1 0 0, 4, by decide +kernel⟩, ⟨63, by decide⟩,
   ⟨2, by decide⟩, ⟨regs [], by decide +kernel⟩, ⟨atBad, 0, 0, 4, encWord0 0x10 (op 3 1 2 0), encWord1 (op 3 1 2 0), 0, by decide +kernel⟩⟩


/-- A turn whose words decode, and one whose words are illegal. -/
theorem test_witness_StepRunsTheDecodedInstruction :
    (∀ bad : Bool, ∃ (s : State) (r : List Choice) (c n : Nat) (w0 w1 w2 : BitVec 32),
      (s.inbox = .turn c :: r ∨ (s.inbox = [] ∧ r = [] ∧ s.agenda = [] ∧ s.focus = c)) ∧
      (let k := s.core c
       let s1 : State := ({ s with inbox := r } : State).setCore c { k with pos := k.pos + 1 }
       let s2 : State := ({ s1 with cur := (c, n) } : State).claimsAt c (({ s1 with cur := (c, n) } : State).now c)
       k.order[k.pos]? = some n ∧ s2.here.run = .ready ∧ s2.here.hit = none ∧
       (s2.here.hmode = true ∨ s2.here.timerDue (s2.now c) = false) ∧ s2.fetch c n = .words w0 w1 w2 ∧
       (if bad then decode w0 w1 w2 = .illegal 4 else decode w0 w1 w2 = .ok (.nop (op 0 0 0 0)) 8)) ∧
      (s.core c).claims = []) ∧
    (∀ ended : Bool, ∃ (u : State) (c n : Nat) (ws : List Wait), (u.slot c n).run = .out ws ∧
      (if ended then (u.slot c n).spill = none ∧ ∀ w ∈ ws, u.waitOver c n w = true else ∃ w ∈ ws, u.waitOver c n w = false)) := by
  refine ⟨?_, ?_⟩ <;> intro b <;> cases b
  · exact ⟨atNop, [], 0, 0, 0xDD, 0, 0, by decide +kernel⟩
  · exact ⟨atBad, [], 0, 0, encWord0 0x10 (op 3 1 2 0), encWord1 (op 3 1 2 0), 0, by decide +kernel⟩
  · exact ⟨world { slots := [(63, { task with run := .out [.reg 0, .reg 1023] })], sfile := [(1023, { full := false })] }, 0, 63, [.reg 0, .reg 1023], by decide +kernel⟩
  · exact ⟨world { slots := [(63, { task with run := .out [.reg 0, .reg 1023] })] }, 0, 63, [.reg 0, .reg 1023], by decide +kernel⟩

theorem test_witness_Fetching :
    (∃ (s : State) (c n : Nat) (e : Nat → Tlb), (∀ k, k < 3 → areaOf (wordVa (s.slot c n).pc k) = .xlat ∧
      s.look c (s.slot c n).space (wordVa (s.slot c n).pc k) = .hit (e k) ∧ (e k).x = true ∧ (e k).w = false ∧ (e k).tgt = 0)) ∧
    (∃ (s : State) (c n : Nat), areaOf (s.slot c n).pc.toNat = .near 0xFFFFFC ∧ (s.slot c n).run = .ready ∧
      s.fetch c n = .trap ⟨0x0A, 1, 0xFFFFFC⟩ ∧ s.look c (s.slot c n).space 0xFFFFFC ≠ .fault 8) ∧
    (∃ (s : State) (c n : Nat), areaOf (s.slot c n).pc.toNat = .pad 0 0) ∧
    (∃ (s : State) (c n : Nat), areaOf (s.slot c n).pc.toNat = .bad) ∧
    (∃ (s : State) (c n : Nat) (e : Tlb), areaOf (s.slot c n).pc.toNat = .xlat ∧
      s.look c (s.slot c n).space (s.slot c n).pc.toNat = .hit e ∧ (e.x = false ∨ e.w = true ∨ e.tgt ≠ 0)) := by
  refine ⟨⟨atNop, 0, 0, fun _ => fetchEntry, ?_⟩, ⟨with0 { task with pc := 0xFFFFFC } [], 0, 0, by decide +kernel⟩,
    ⟨with0 { task with pc := 0x10000000000 } [], 0, 0, by decide +kernel⟩, ⟨with0 { task with pc := 0x10200000000 } [], 0, 0, by decide +kernel⟩,
    ⟨world { slots := [(0, { task with pc := 0x100000000000 })], tlb := [{ fetchEntry with x := false }] }, 0, 0, { fetchEntry with x := false },
      by decide +kernel⟩⟩
  intro k hk
  obtain rfl | rfl | rfl : k = 0 ∨ k = 1 ∨ k = 2 := by omega
  all_goals decide +kernel

/-- The step of `nop`, and a memory with one byte. -/
theorem test_witness_MemoryStaysCanonical : ∃ s t : State, Memory.wf s.mem = true ∧ s.mem ≠ [] ∧ step s = .next t := by
  have h : (match step atNop with | .next _ => true | _ => false) = true := by decide +kernel
  refine ⟨atNop, match step atNop with | .next t => t | _ => atNop, by decide +kernel, by decide +kernel, ?_⟩
  split at h
  · rename_i t ht; rw [ht]
  · simp at h
end

