-- ==== Sys2Proof/Tests/WitnessVector.lean ====
section
/-! SUPPORT. States and operands that meet the hypotheses of the statements about vector and matrix instructions, clause
by clause. -/

set_option Elab.async false

open Sys2Proof Sys2Proof.Machine Sys2Proof.Tests

namespace Sys2Proof.Tests

/-- A task with the matrix role, the shape and trap enables given, all accumulators set, and values in its registers. -/
def shaped (sh : Word) (l : List Nat) (tc : SMap Word := []) : State :=
  world { slots := [(0, { task with matrix := true, vshape := sh })], sfile := file l, tcfg := tc, accs := [(3, { unset := false })] }

end Sys2Proof.Tests

theorem shape_of {t : State} {e : Nat} (h : 1 ≤ t.here.rows ∧ t.here.rows ≤ 8 ∧ 1 ≤ t.here.cols ∧ t.here.cols * e ≤ 64) : ShapeFits t e := h

theorem lane_vadd (md : RMode) (v : Vals) (a b c : Nat) :
    laneRule (.vadd (op 1 2 3 0 2)) md v a b c = some (plainLane 32 ((a : Int) + b)) := rfl

/-- An integer sum with a shape of 8 x 16, and one too wide. -/
theorem test_witness_VectorLanes :
    (∃ (i : Instr) (s t : State) (v : Vals) (f : Nat → Nat → Nat → Nat × Flags), (let fn := (opndOfInstr i).fn.toNat
      (∀ a b c, laneRule i (t.here.mode (fn / 8 % 8)) v a b c = some (f a b c)) ∧ Issues i s v t ∧ ShapeFits t (laneBytes (fn % 8)))) ∧
    (∃ (i : Instr) (s t : State) (v : Vals) (f : Nat → Nat → Nat → Nat × Flags), (let fn := (opndOfInstr i).fn.toNat
      (∀ a b c, laneRule i (t.here.mode (fn / 8 % 8)) v a b c = some (f a b c)) ∧ Issues i s v t ∧ 64 < t.here.cols * laneBytes (fn % 8))) :=
  let i := Instr.vadd (op 1 2 3 0 2)
  let s := shaped 0x1008 []
  let z := shaped 0x1108 []
  ⟨⟨i, s, tOf i s, vOf i s, fun a b _ => plainLane 32 ((a : Int) + b), fun _ _ _ => lane_vadd _ _ _ _ _, issues_of (by decide +kernel), shape_of (by decide +kernel)⟩,
   ⟨i, z, tOf i z, vOf i z, fun a b _ => plainLane 32 ((a : Int) + b), fun _ _ _ => lane_vadd _ _ _ _ _, issues_of (by decide +kernel), by decide +kernel⟩⟩

/-- The conversions of `vcvt` by value: between integers, from an integer, from 1 in FP16, and from a NaN. -/
theorem test_witness_VectorLanes_convert :
    (∃ fn ty src : Nat, ty < 4 ∧ src < 4 ∧ fn / 2 ^ 10 % 2 ^ 4 = 0 ∧ fn.testBit 9 = true) ∧
    (∃ (fn ty src x : Nat), ty < 8 ∧ 4 ≤ ty ∧ src < 4 ∧ fn / 2 ^ 10 % 2 ^ 4 = 0 ∧ InRange (vFmt ty) (laneInt (8 * laneBytes src) x)) ∧
    (∀ ty ∈ [3, 4], ∃ (fn src x : Nat) (q : ℚ), src < 8 ∧ 4 ≤ src ∧ fn / 2 ^ 10 % 2 ^ 4 = 0 ∧ (vFmt src).val x = some q ∧ (4 ≤ ty → InRange (vFmt ty) q)) ∧
    (∃ (ty src x : Nat), ty < 4 ∧ 4 ≤ src ∧ src < 8 ∧ (fdecode (vFmt src) x).isNan = true) := by
  have top : (vFmt 4).val (vFmt 4).maxBits = some 65504 := half_val false 2047 5 (by decide +kernel) (by norm_num)
  refine ⟨⟨0x200, 0, 3, by decide⟩, ⟨0, 4, 0, 255, by decide, by decide, by decide, by decide, _, top, ?_⟩, ?_, ⟨3, 4, 0x7E00, by decide +kernel⟩⟩
  · rw [show laneInt (8 * laneBytes 0) 255 = -1 by decide +kernel]; norm_num
  · intro ty hty
    exact ⟨0, 4, 0x3C00, 1, by decide, by decide, by decide, half_one, fun h => by
      simp only [List.mem_cons, List.not_mem_nil, or_false] at hty
      obtain rfl : ty = 4 := by omega
      exact ⟨_, top, by norm_num⟩⟩

/-- Each instruction that moves elements issues with a shape that fits: types I32 and F32, 8 x 16 and 8 x 8. -/
theorem test_witness_VectorLanes_moves : ∀ i ∈ [Instr.vcvt (op 1 2 0 0 0x186), .vbcastRow (op 1 2 0 0 0x1C42), .vperm (op 1 2 3 0 0x42),
      .vtrn (op 1 2 0 0 2), .vmov (op 1 2 0 0), .vins (op 1 3 2 0 2), .vext (op 3 1 2 0 2)],
    ∃ (s t : State) (v : Vals), Issues i s v t ∧ wellFormed i = true ∧ ShapeFits t 4 ∧ t.here.cols ≤ 8 ∧ v.b.toNat < 128 := by
  intro i hi
  have h : ∀ i ∈ [Instr.vcvt (op 1 2 0 0 0x186), .vbcastRow (op 1 2 0 0 0x1C42), .vperm (op 1 2 3 0 0x42),
      .vtrn (op 1 2 0 0 2), .vmov (op 1 2 0 0), .vins (op 1 3 2 0 2), .vext (op 3 1 2 0 2)], (let s := shaped 0x0808 [0, 0, 127]
      (issued i s).isSome = true ∧ wellFormed i = true ∧ (1 ≤ (tOf i s).here.rows ∧ (tOf i s).here.rows ≤ 8 ∧ 1 ≤ (tOf i s).here.cols ∧ (tOf i s).here.cols * 4 ≤ 64) ∧
        (tOf i s).here.cols ≤ 8 ∧ (vOf i s).b.toNat < 128) := by decide +kernel
  obtain ⟨h1, h2, h3, h4, h5⟩ := h i hi
  exact ⟨_, _, _, issues_of h1, h2, shape_of h3, h4, h5⟩

/-- An index past the register. -/
theorem test_witness_VectorLanes_past : ∃ (o : Opnd) (s t t' : State) (v v' : Vals), Issues (.vins o) s v t ∧ Issues (.vext o) s v' t' ∧
    64 / laneBytes (o.fn.toNat % 8) * 8 ≤ v.b.toNat ∧ 64 / laneBytes (o.fn.toNat % 8) * 8 ≤ v'.b.toNat :=
  let o := op 1 3 2 0 2
  let s := shaped 0x0808 [0, 0, 128]
  ⟨o, s, tOf (.vins o) s, tOf (.vext o) s, vOf (.vins o) s, vOf (.vext o) s, issues_of (by decide +kernel), issues_of (by decide +kernel), by decide +kernel⟩

/-- Reductions in their three modes, both scans, a distance with the sum, both orders, and a quantisation. -/
theorem test_witness_VectorReductions : ∀ i ∈ [Instr.vred (op 3 2 0 0 0x1C2), .vred (op 3 2 0 0 0x402), .vred (op 3 2 0 0 0x802), .vscan (op 3 2 0 0 0x042),
      .vscan (op 3 2 0 0 0x442), .vdist (op 1 2 3 0 0xCC2), .vtopk (op 1 2 3 0 0x42), .vtopk (op 1 2 3 0 0x3C02), .vquant (op 1 2 3 0 6)],
    ∃ (s t : State) (v : Vals), Issues i s v t ∧ wellFormed i = true ∧ ShapeFits t 4 ∧ t.here.rows * t.here.cols % 64 = 0 ∧ v.b = (vOf i s).b := by
  intro i hi
  have h : ∀ i ∈ [Instr.vred (op 3 2 0 0 0x1C2), .vred (op 3 2 0 0 0x402), .vred (op 3 2 0 0 0x802), .vscan (op 3 2 0 0 0x042),
      .vscan (op 3 2 0 0 0x442), .vdist (op 1 2 3 0 0xCC2), .vtopk (op 1 2 3 0 0x42), .vtopk (op 1 2 3 0 0x3C02), .vquant (op 1 2 3 0 6)],
      (let s := shaped 0x0808 [0, 0, 0, 0x3F800000]
       (issued i s).isSome = true ∧ wellFormed i = true ∧ (1 ≤ (tOf i s).here.rows ∧ (tOf i s).here.rows ≤ 8 ∧ 1 ≤ (tOf i s).here.cols ∧ (tOf i s).here.cols * 4 ≤ 64) ∧
         (tOf i s).here.rows * (tOf i s).here.cols % 64 = 0) := by decide +kernel
  obtain ⟨h1, h2, h3, h4⟩ := h i hi
  exact ⟨_, _, _, issues_of h1, h2, shape_of h3, h4, rfl⟩

/-- The scale of the quantisation is 1.0; with 7 columns the blocks do not divide the tile. -/
theorem test_witness_VectorReductions_quant : ∃ (o : Opnd) (s t : State) (v : Vals), Issues (.vquant o) s v t ∧
    fdecode fp32 v.b.toNat = .fin false 8388608 (-23) ∧ t.here.rows * t.here.cols % 64 ≠ 0 ∧ ShapeFits t 4 :=
  let o := op 1 2 3 0 6
  let s := shaped 0x0708 [0, 0, 0, 0x3F800000]
  ⟨o, s, tOf (.vquant o) s, vOf (.vquant o) s, issues_of (by decide +kernel), by decide +kernel, by decide +kernel, shape_of (by decide +kernel)⟩

/-- Results at their cycle, with no flag enabled and with one; a load whose last part has come. -/
theorem test_witness_VectorResultsAreWritten :
    (∀ en ∈ [(0 : BitVec 5), 1], ∃ (c id e : Nat) (s : State) (o : VOp), (s.core c).vops.find? (fun o => o.id == id) = some o ∧ o.dead = false ∧ o.vdst = some e ∧
      (s.slot c o.slot).kill = none ∧ o.flags &&& o.en = en) ∧
    (∃ (c id e : Nat) (s : State) (o : VOp), (s.core c).vops.find? (fun o => o.id == id) = some o ∧ o.dead = false ∧ o.vdst = none ∧
      o.sdst = .reg e ∧ o.flags = 0) ∧
    (∃ (id : Nat) (s : State) (a : Access) (m : VMem), s.acc id = some a ∧ a.stage = .replied ∧ a.kind = .vread ∧ a.slot ≠ 64 ∧ a.aside = false ∧ a.dst = .none ∧ (s.slot a.core a.slot).kill = none ∧
      (s.core a.core).vmems.find? (fun o => o.id == a.par) = some m ∧
      (∀ b ∈ s.net, b.id ≠ id → ¬ (b.core = a.core ∧ b.par = a.par ∧ b.slot = a.slot)) ∧ m.sort = 0 ∧ m.fmt = 0 ∧ m.dead = false ∧
      m.trap = none ∧ m.poison = 0 ∧ m.scale = [] ∧ a.reply.trap = none ∧ a.reply.poison = false ∧
      (let got := m.got ++ a.reply.elems
       let e := laneBytes m.etype
       (got.map (·.k)).Nodup ∧ (∀ g ∈ got, g.k / m.cols < 8 ∧ (g.k % m.cols + 1) * e ≤ 64))) := by
  let o (en : BitVec 5) : VOp := { id := 7, slot := 0, vdst := some 255, flags := 1, en := en }
  let p : VOp := { id := 7, slot := 0, sdst := .reg 2047 }
  let m : VMem := { id := 7, slot := 0, sort := 0, dst := 255, etype := 2, cols := 16 }
  let a : Access := { req .vread (.bank 0 0) .replied with par := 7, reply := { elems := [⟨127, 0, .pad 0 0, 4, 9⟩] } }
  refine ⟨?_, ⟨0, 7, 2047, world { vops := [p] }, p, by decide +kernel⟩, ⟨1, flying a (world { vmems := [m] }), a, m, by decide +kernel⟩⟩
  intro en hen
  simp only [List.mem_cons, List.not_mem_nil, or_false] at hen
  rcases hen with rfl | rfl
  · exact ⟨0, 7, 255, world { vops := [o 2] }, o 2, by decide +kernel⟩
  · exact ⟨0, 7, 255, world { vops := [o 1] }, o 1, by decide +kernel⟩

/-- Elements in the near window, decided. -/
theorem elements_of {t : State} {n e : Nat} {addr : Nat → Nat} (ho : t.owner = [])
    (h : ((List.range n).all (fun k => decide (addr k % e = 0) && decide (addr k + e ≤ 2 ^ 24))) = true) : NearElements t n e addr := by
  intro k hk
  have := List.all_eq_true.mp h k (List.mem_range.mpr hk)
  simp only [Bool.and_eq_true, decide_eq_true_eq] at this
  exact ⟨this.1, near_of this.2 ho⟩

/-- Accesses of vectors, tiles and accumulators up to the end of the near window. -/
theorem test_witness_VectorAndTileAccesses :
    (∀ i ∈ [Instr.vld (op 1 1 145 145 2), .vst (op 145 1 145 2 2), .vgather (op 1 1 3 0 0x42), .vscatter (op 0 1 3 2 2)], ∃ (s t : State) (v : Vals), Issues i s v t ∧
      wellFormed i = true ∧ Quiet t ∧ RawAccess i t.here.rows t.here.cols ∧ ShapeFits t 4 ∧ NearElements t (t.here.rows * t.here.cols) 4 (vecAddr i v t.here.cols)) ∧
    (∃ (o : Opnd) (s t : State) (v : Vals), Issues (.tld o) s v t ∧ Quiet t ∧ o.fn.toNat.testBit 0 = true ∧
      (let k := t.core s.cur.1
       let w := k.tcfgAt o.d.toNat
       let n := tileBytes (.tld o) w
       badExtent w = false ∧ (k.tile o.d.toNat).pend = false ∧ k.unitReads true o.d.toNat = false ∧
       NearElements t (cfgRows w * cfgCols w) n (tileAddr v (strideIn o.c v.c (cfgCols w)) (cfgCols w) n))) ∧
    (∃ (o : Opnd) (s t : State) (v : Vals), Issues (.tldAcc o) s v t ∧ Quiet t ∧
      (let k := t.core s.cur.1
       (k.acc o.d.toNat).unset = false ∧ (k.acc o.d.toNat).pend = false ∧ k.unitReads false o.d.toNat = false ∧
       NearElements t 4096 16 (tileAddr v (strideIn o.c v.c 64) 64 16))) ∧
    (∃ (o : Opnd) (s t : State) (v : Vals), Issues (.tst o) s v t ∧ Quiet t ∧ o.fn.toNat.testBit 0 = true ∧
      (let k := t.core s.cur.1
       let w := k.tcfgAt o.c.toNat
       let n := tileBytes (.tst o) w
       badExtent w = false ∧ NearElements t (cfgRows w * cfgCols w) n (tileAddr v (strideIn o.d v.d (cfgCols w)) (cfgCols w) n))) ∧
    (∃ (o : Opnd) (s t : State) (v : Vals), Issues (.tstAcc o) s v t ∧ Quiet t ∧ NearElements t 4096 16 (tileAddr v (strideIn o.d v.d 64) 64 16)) := by
  let l := op 15 1 145 145 1
  let a := op 3 1 145 145 2
  let w := op 145 1 145 15 1
  let b := op 145 1 145 3 2
  let s (x : Nat) : State := shaped 0x0808 [0, x] [(15, 0x10808)]
  refine ⟨?_, ⟨l, s (2 ^ 24 - 64), tOf (.tld l) (s (2 ^ 24 - 64)), vOf (.tld l) (s (2 ^ 24 - 64)), issues_of (by decide +kernel), calm_of (by decide +kernel), by decide, first2 (by decide +kernel) ⟨by decide +kernel, elements_of rfl (by decide +kernel)⟩⟩,
    ⟨a, s (2 ^ 24 - 65536), tOf (.tldAcc a) (s (2 ^ 24 - 65536)), vOf (.tldAcc a) (s (2 ^ 24 - 65536)), issues_of (by decide +kernel), calm_of (by decide +kernel), first2 (by decide +kernel) ⟨by decide +kernel, elements_of rfl (by decide +kernel)⟩⟩,
    ⟨w, s (2 ^ 24 - 64), tOf (.tst w) (s (2 ^ 24 - 64)), vOf (.tst w) (s (2 ^ 24 - 64)), issues_of (by decide +kernel), calm_of (by decide +kernel), by decide, by decide +kernel,
      elements_of rfl (by decide +kernel)⟩,
    ⟨b, s (2 ^ 24 - 65536), tOf (.tstAcc b) (s (2 ^ 24 - 65536)), vOf (.tstAcc b) (s (2 ^ 24 - 65536)), issues_of (by decide +kernel), calm_of (by decide +kernel), elements_of rfl (by decide +kernel)⟩⟩
  intro i hi
  have h : ∀ i ∈ [Instr.vld (op 1 1 145 145 2), .vst (op 145 1 145 2 2), .vgather (op 1 1 3 0 0x42), .vscatter (op 0 1 3 2 2)],
      (let z := s (2 ^ 24 - 256)
       (issued i z).isSome = true ∧ wellFormed i = true ∧ ((tOf i z).own 0 0 = [] ∧ (tOf i z).here.acqs = [] ∧ (tOf i z).here.rels = []) ∧ ((tOf i z).core 0).seq = [] ∧
       (tOf i z).cur = (0, 0) ∧ (1 ≤ (tOf i z).here.rows ∧ (tOf i z).here.rows ≤ 8 ∧ 1 ≤ (tOf i z).here.cols ∧ (tOf i z).here.cols * 4 ≤ 64) ∧ (tOf i z).owner = [] ∧
       ((List.range ((tOf i z).here.rows * (tOf i z).here.cols)).all (fun k => decide (vecAddr i (vOf i z) (tOf i z).here.cols k % 4 = 0) &&
         decide (vecAddr i (vOf i z) (tOf i z).here.cols k + 4 ≤ 2 ^ 24))) = true ∧ (tOf i z).here.rows = 8 ∧ (tOf i z).here.cols = 8) := by decide +kernel
  have raw : ∀ i ∈ [Instr.vld (op 1 1 145 145 2), .vst (op 145 1 145 2 2), .vgather (op 1 1 3 0 0x42), .vscatter (op 0 1 3 2 2)], RawAccess i 8 8 := by
    simp only [List.mem_cons, List.not_mem_nil, or_false, forall_eq_or_imp, forall_eq, RawAccess]; decide
  obtain ⟨h1, h2, h3, h4, h5, h6, h7, h8, h9, h10⟩ := h i hi
  exact ⟨s (2 ^ 24 - 256), tOf i (s (2 ^ 24 - 256)), vOf i (s (2 ^ 24 - 256)), issues_of h1, h2, quiet_of (by rw [h5]; exact h3) (by rw [h5]; exact h4), by rw [h9, h10]; exact raw i hi, shape_of h6, elements_of h7 h8⟩

/-- Unit instructions that may run, and units with a waiting, a clearing and a multiplying instruction. -/
theorem test_witness_MatrixUnit :
    (∀ i ∈ [Instr.tzero (op 3 0 0 0 1), .tanchRd (op 5 3 0 0 1), .tanchClr (op 3 0 0 0 2)], ∃ (s t : State) (v : Vals), Issues i s v t ∧ wellFormed i = true ∧ (t.core s.cur.1).mwait = none) ∧
    (∃ (o : Opnd) (s t : State) (v : Vals), Issues (.tanch o) s v t ∧ (t.core s.cur.1).mwait = none ∧ UnitMayRun (.tanch o) v t) ∧
    (∃ (o : Opnd) (s t : State) (v : Vals), Issues (.tmma o) s v t ∧ (t.core s.cur.1).mwait = none ∧ UnitMayRun (.tmma o) v t) ∧
    (∃ (o : Opnd) (s t : State) (v : Vals), Issues (.tcvt o) s v t ∧ (t.core s.cur.1).mwait = none ∧ UnitMayRun (.tcvt o) v t) ∧
    (∃ (o : Opnd) (s t : State) (v : Vals), Issues (.tvecIn o) s v t ∧ (t.core s.cur.1).mwait = none ∧ UnitMayRun (.tvecIn o) v t) ∧
    (∀ i ∈ [Instr.tzero (op 3 0 0 0 1), .tanch (op 3 0 1 0), .tanchClr (op 3 0 0 0 2), .tanchRd (op 5 3 0 0 1), .tmma (op 3 14 15 0)], ∀ un : Bool, ∃ (c : Nat) (s : State) (p : MOp),
      (s.core c).munit = none ∧ (s.core c).mwait = some p ∧ p.ins = i ∧ p.vals.length ≤ 2 ∧ ((s.core c).acc 3).unset = un ∧ s.badRegs = []) ∧
    (∀ b : Bool, ∃ (c : Nat) (s : State) (p : MOp) (o : Opnd), (s.core c).munit = some p ∧ (s.core c).mwait = none ∧ p.ins = .tzero o ∧
      p.vdst = none ∧ p.sdst = .none ∧ bit o.fn 0 = b ∧ p.wT = (if bit o.fn 0 then [] else [o.d.toNat]) ∧ p.wA = (if bit o.fn 0 then [o.d.toNat] else [])) ∧
    (∃ (c : Nat) (s : State) (p : MOp) (o : Opnd) (wa wb : Word), (s.core c).munit = some p ∧ (s.core c).mwait = none ∧
      p.ins = .tmma o ∧ p.vals = [wa, wb] ∧ p.vdst = none ∧ p.sdst = .none ∧ p.wT = [] ∧ p.wA = [o.d.toNat] ∧
      badExtent wa = false ∧ badExtent wb = false ∧ cfgI8 wa = true ∧ ((s.core c).acc o.d.toNat).unset = false ∧ ((s.core c).acc o.d.toNat).anchor = 0) := by
  let s := shaped 0x0808 [0, 511, 0x3838] [(13, 0x4040), (14, 0x14040), (15, 0x14040)]
  let ta := op 3 0 1 0
  let tm := op 3 14 15 0
  let tc := op 1 3 2 0 2
  let tv := op 15 2 2 0 0x40
  let un (p : MOp) : State := world { munit := some p, accs := [(3, { unset := false })] }
  refine ⟨?_, ⟨ta, s, tOf (.tanch ta) s, vOf (.tanch ta) s, issues_of (by decide +kernel), by decide +kernel, by unfold UnitMayRun; decide +kernel⟩,
    ⟨tm, s, tOf (.tmma tm) s, vOf (.tmma tm) s, issues_of (by decide +kernel), by decide +kernel, by unfold UnitMayRun; decide +kernel⟩,
    ⟨tc, s, tOf (.tcvt tc) s, vOf (.tcvt tc) s, issues_of (by decide +kernel), by decide +kernel, by unfold UnitMayRun OriginFits; decide +kernel⟩,
    ⟨tv, s, tOf (.tvecIn tv) s, vOf (.tvecIn tv) s, issues_of (by decide +kernel), by decide +kernel, by unfold UnitMayRun OriginFits; decide +kernel⟩,
    ?_, ?_,
    ⟨0, un { id := 1, slot := 0, ins := .tmma tm, vals := [0x10101, 0x14040], wA := [3] }, { id := 1, slot := 0, ins := .tmma tm, vals := [0x10101, 0x14040], wA := [3] }, tm, 0x10101, 0x14040,
      by decide +kernel⟩⟩
  · intro i hi
    have h : ∀ i ∈ [Instr.tzero (op 3 0 0 0 1), .tanchRd (op 5 3 0 0 1), .tanchClr (op 3 0 0 0 2)], (issued i s).isSome = true ∧ wellFormed i = true ∧ ((tOf i s).core 0).mwait = none := by decide +kernel
    exact ⟨s, _, _, issues_of (h i hi).1, (h i hi).2.1, (h i hi).2.2⟩
  · intro i _ n
    exact ⟨0, world { mwait := some { id := 1, slot := 0, ins := i, vals := [511] }, accs := [(3, { unset := n })] }, { id := 1, slot := 0, ins := i, vals := [511] },
      rfl, rfl, rfl, by simp, rfl, rfl⟩
  · intro b
    cases b
    · exact ⟨0, un { id := 1, slot := 0, ins := .tzero (op 15 0 0 0 0), wT := [15] }, { id := 1, slot := 0, ins := .tzero (op 15 0 0 0 0), wT := [15] }, op 15 0 0 0 0, by decide +kernel⟩
    · exact ⟨0, un { id := 1, slot := 0, ins := .tzero (op 3 0 0 0 1), wA := [3] }, { id := 1, slot := 0, ins := .tzero (op 3 0 0 0 1), wA := [3] }, op 3 0 0 0 1, by decide +kernel⟩

/-- 1 in a cell of a tile; the greatest finite value of a cell. -/
theorem cell_one : fdecode x19 0x1FC00 = .fin false 1024 (-10) := by decide +kernel
theorem cell_val : x19.val 0x1FC00 = some 1 := by
  rw [Fmt.val, cell_one, FVal.rat]; norm_num
theorem cell_range : InRange x19 1 := by
  refine ⟨_, (show x19.val x19.maxBits = _ by rw [Fmt.val, show fdecode x19 x19.maxBits = .fin false 2047 117 by decide +kernel, FVal.rat]), ?_⟩
  norm_num

/-- Tile 14 holds 1 in its first cell and a NaN in its second, accumulator 3 the value 1. -/
def Sys2Proof.Tests.cells (p : MOp) : State :=
  world { munit := some p, tiles := [(14, { cells := [(0, 0x1FC00), (1, 0x3FE00)] })], accs := [(3, { unset := false, cells := [(0, 1)] })] }

/-- The tile whose one cell of interest is 1 has its largest element there. -/
theorem test_witness_MatrixUnit_largest : ∃ (k : Core) (t : Nat) (w : Word) (x : Int), LargestExp k t w x ∧ cfgI8 w = false := by
  refine ⟨(cells { id := 1, slot := 0, ins := .nop (op 0 0 0 0) }).core 0, 14, 0x101, 0, ⟨⟨0, 0, 1, by decide +kernel, by decide +kernel, ?_, by norm_num⟩, ?_⟩, by decide +kernel⟩
  · exact cell_val
  · intro i j q hi hj h
    have hi' : i < 1 := hi
    have hj' : j < 1 := hj
    obtain rfl : i = 0 := by omega
    obtain rfl : j = 0 := by omega
    have : some q = some (1 : ℚ) := h.symm.trans cell_val
    injection this with this
    rw [this]; norm_num

/-- Running instructions of a live slot: X19 tiles, an accumulator's cell and a tile's cell of the value 1 within range,
and one whose shape fits. -/
theorem test_witness_MatrixUnit_results :
    (∃ (c : Nat) (s : State) (p : MOp) (o : Opnd) (wa wb : Word), Running s c p ∧ p.ins = .tmma o ∧ p.vals = [wa, wb] ∧ p.vdst = none ∧ p.sdst = .none ∧
      p.wT = [] ∧ p.wA = [o.d.toNat] ∧ badExtent wa = false ∧ badExtent wb = false ∧ cfgI8 wa = false ∧ ((s.core c).acc o.d.toNat).unset = false) ∧
    (∀ vec : Bool, ∃ (c e : Nat) (s : State) (p : MOp) (o : Opnd) (b : Word), Running s c p ∧ p.vdst = some e ∧ p.sdst = .none ∧ p.wT = [] ∧ p.wA = [] ∧ p.en = 0 ∧
      p.vshape.toNat % 2 ^ 4 ≤ 8 ∧ p.vshape.toNat / 2 ^ 8 % 2 ^ 7 * unitBytes (o.fn.toNat % 4) ≤ 64 ∧ p.ins = (if vec then .tvec o else .tcvt o) ∧ p.vals = [b] ∧
      1 ≤ o.fn.toNat % 4 ∧ (vec = false → ((s.core c).acc o.a.toNat).unset = false) ∧ mFmt (o.fn.toNat % 4) = fp16) ∧
    (∃ (c e : Nat) (s : State) (p : MOp) (o : Opnd) (w : Word), Running s c p ∧ p.vdst = none ∧ p.wA = [] ∧ p.ins = .tanchRd o ∧ p.wT = [] ∧
      p.sdst = .reg e ∧ p.vals = [w]) ∧
    (∃ (c : Nat) (s : State) (p : MOp) (o : Opnd), Running s c p ∧ p.vdst = none ∧ p.wA = [] ∧ p.ins = .tcvtTile o ∧ p.sdst = .none ∧
      p.wT = [o.d.toNat] ∧ ((s.core c).acc o.a.toNat).unset = false ∧
      InRange x19 (((tabGet 0 ((s.core c).acc o.a.toNat).cells 0).toInt : ℚ) * (2 : ℚ) ^ ((s.core c).acc o.a.toNat).anchor)) ∧
    (∃ (c : Nat) (s : State) (p : MOp) (o : Opnd) (b : Word), Running s c p ∧ p.vdst = none ∧ p.wA = [] ∧ p.ins = .tvecIn o ∧ p.sdst = .none ∧
      p.wT = [o.d.toNat] ∧ p.vals = [b] ∧ b.toNat % 2 ^ 6 + p.vshape.toNat % 2 ^ 4 ≤ 64 ∧ b.toNat / 2 ^ 8 % 2 ^ 6 + p.vshape.toNat / 2 ^ 8 % 2 ^ 7 ≤ 64) ∧
    (∃ (x : Nat) (q : ℚ), x19.val x = some q ∧ InRange x19 q ∧ InRange fp16 q) ∧ (∃ x : Nat, (fdecode x19 x).isNan = true) := by
  let m (i : Instr) : MOp := { id := 1, slot := 0, ins := i, vals := [0], vshape := 0x808 }
  let tm : MOp := { m (.tmma (op 3 14 14 0)) with vals := [0x101, 0x101], wA := [3] }
  let tc : MOp := { m (.tcvt (op 1 3 2 0 2)) with vdst := some 255 }
  let tv : MOp := { m (.tvec (op 1 14 2 0 2)) with vdst := some 255 }
  let rd : MOp := { m (.tanchRd (op 5 3 0 0 1)) with sdst := .reg 2047 }
  let tt : MOp := { m (.tcvtTile (op 15 3 0 0 0x40)) with wT := [15] }
  let vi : MOp := { m (.tvecIn (op 15 2 2 0 0x40)) with wT := [15], vals := [0x3838] }
  refine ⟨⟨0, cells tm, tm, op 3 14 14 0, 0x101, 0x101, ⟨rfl, rfl, rfl⟩, by decide +kernel⟩, ?_,
    ⟨0, 2047, cells rd, rd, op 5 3 0 0 1, 0, ⟨rfl, rfl, rfl⟩, by decide +kernel⟩,
    ⟨0, cells tt, tt, op 15 3 0 0 0x40, ⟨rfl, rfl, rfl⟩, rfl, rfl, rfl, rfl, rfl, by decide +kernel, ?_⟩,
    ⟨0, cells vi, vi, op 15 2 2 0 0x40, 0x3838, ⟨rfl, rfl, rfl⟩, by decide +kernel⟩,
    ⟨0x1FC00, 1, cell_val, cell_range, _, half_val false 2047 5 (by decide +kernel) rfl, by norm_num⟩, ⟨0x3FE00, by decide +kernel⟩⟩
  · intro b
    cases b
    · exact ⟨0, 255, cells tc, tc, op 1 3 2 0 2, 0, ⟨rfl, rfl, rfl⟩, by decide +kernel⟩
    · exact ⟨0, 255, cells tv, tv, op 1 14 2 0 2, 0, ⟨rfl, rfl, rfl⟩, by decide +kernel⟩
  · rw [show tabGet 0 (((cells tt).core 0).acc (op 15 3 0 0 0x40).a.toNat).cells 0 = 1 by decide +kernel,
      show (((cells tt).core 0).acc (op 15 3 0 0 0x40).a.toNat).anchor = 0 by decide +kernel, show (1 : BitVec 80).toInt = 1 by decide]
    simpa using cell_range
end

section
/-! PROOFS. The integer compare and the corners of division (04: R70, R72, R73). The bodies of the integer
instructions are first stated on the width `widthOf` of the instruction, in which the statements speak. -/

namespace Sys2Proof.Machine

/-! ### Operands on W bits (R70) -/

section
variable {W : Nat} {u : Bool} {x y : Word}

theorem intOf_signed : intOf W false x = (x.setWidth W).toInt := by simp [intOf]

theorem intOf_unsigned : intOf W true x = (x.setWidth W).toNat := by simp [intOf]

theorem intOf_inj : intOf W u x = intOf W u y ↔ x.setWidth W = y.setWidth W := by
  cases u
  · rw [intOf_signed, intOf_signed, BitVec.toInt_inj]
  · rw [intOf_unsigned, intOf_unsigned, Nat.cast_inj, BitVec.toNat_inj]

theorem lessW_iff : lessW u (x.setWidth W) (y.setWidth W) = true ↔ intOf W u x < intOf W u y := by
  cases u
  · rw [intOf_signed, intOf_signed]; exact BitVec.slt_iff_toInt_lt
  · rw [intOf_unsigned, intOf_unsigned, Nat.cast_lt]; exact BitVec.ult_iff_toNat_lt

theorem setWidth_eq_zero_iff : x.setWidth W = 0 ↔ x.toNat % 2 ^ W = 0 := by
  rw [← BitVec.toNat_inj, BitVec.toNat_setWidth]; simp

theorem setWidth_and_eq_zero_iff :
    x.setWidth W &&& y.setWidth W = 0 ↔ x.toNat % 2 ^ W &&& y.toNat % 2 ^ W = 0 := by
  rw [← BitVec.toNat_inj, BitVec.toNat_and, BitVec.toNat_setWidth, BitVec.toNat_setWidth]; simp

/-- The condition that `cmp` computes is the one of R72's table. -/
theorem condW_iff : ∀ {cond : Nat}, cond ≤ 7 →
    (condW u cond (x.setWidth W) (y.setWidth W) = true ↔
      cmpCond cond (intOf W u x) (intOf W u y) (x.toNat % 2 ^ W) (y.toNat % 2 ^ W))
  | 0, _ => beq_iff_eq.trans intOf_inj.symm
  | 1, _ => bne_iff_ne.trans intOf_inj.symm.not
  | 2, _ => lessW_iff
  | 3, _ => by rw [condW, Bool.not_eq_true', ← Bool.not_eq_true, lessW_iff, cmpCond, not_lt]
  | 4, _ => by rw [condW, Bool.not_eq_true', ← Bool.not_eq_true, lessW_iff, cmpCond, not_lt]
  | 5, _ => lessW_iff
  | 6, _ => bne_iff_ne.trans setWidth_and_eq_zero_iff.not
  | 7, _ => beq_iff_eq.trans setWidth_and_eq_zero_iff
  | n + 8, h => absurd h (by omega)

theorem sxOf_eq (r : Int) : sxOf W r = (BitVec.ofInt W r).signExtend 64 := by
  rw [sxOf, BitVec.signExtend, BitVec.toInt_ofInt]

theorem setWidth_eq_intMin (h : intOf W false x = -(2 ^ (W - 1))) : x.setWidth W = BitVec.intMin W := by
  rw [← BitVec.ofInt_toInt (x := x.setWidth W), ← intOf_signed, h, BitVec.intMin_eq_neg_two_pow]

theorem setWidth_eq_neg_one (h : intOf W false x = -1) : x.setWidth W = -1#W := by
  rw [← BitVec.ofInt_toInt (x := x.setWidth W), ← intOf_signed, h, BitVec.ofInt_neg]
  rfl

end

/-! ### The bodies on W bits -/

section
variable {x : Ctx} {v : Vals} {s : State}

theorem ite_w32 {α : Type} (x : Ctx) (f : Nat → α) : (if x.w32 then f 32 else f 64) = f (widthOf x.o) :=
  (apply_ite f _ _ _).symm

theorem onW_eq (f : (w : Nat) → Bool → BitVec w → BitVec w → BitVec w → BitVec w) :
    onW f x v s = writeD x ((f (widthOf x.o) (unsOf x.o) (v.a.setWidth _) (v.b.setWidth _) (v.c.setWidth _)).signExtend 64) s := by
  rw [← ite_w32 x fun W => (f W (unsOf x.o) (v.a.setWidth W) (v.b.setWidth W) (v.c.setWidth W)).signExtend 64]
  simp only [BitVec.setWidth_eq, BitVec.signExtend_eq]
  rfl

theorem cmpBody_eq : cmpBody x v s =
    .ok (s.storedP x (condW (unsOf x.o) (fld x.o.fn.toNat 2 4) (v.a.setWidth (widthOf x.o)) (v.b.setWidth (widthOf x.o)))) := by
  rw [← ite_w32 x fun W => condW (unsOf x.o) (fld x.o.fn.toNat 2 4) (v.a.setWidth W) (v.b.setWidth W)]
  simp only [BitVec.setWidth_eq]
  rfl

theorem zeroB_iff : zeroB x v = true ↔ v.b.setWidth (widthOf x.o) = 0 := by
  rw [← beq_iff_eq (a := v.b.setWidth _), ← ite_w32 x fun W => v.b.setWidth W == 0]
  simp only [BitVec.setWidth_eq]
  rfl

theorem divBody_zero (h : zeroB x v = true) : divBody x v s = .trap 6 0 0 := if_pos h
theorem remBody_zero (h : zeroB x v = true) : remBody x v s = .trap 6 0 0 := if_pos h

theorem not_zeroB_of_neg_one (h : intOf (widthOf x.o) false v.b = -1) : ¬ zeroB x v = true := by
  rw [zeroB_iff]
  intro hz
  rw [intOf_signed, hz] at h
  simp at h

/-- R73: the quotient of the most negative number by -1 is that number. -/
theorem divBody_least (hu : unsOf x.o = false) (ha : intOf (widthOf x.o) false v.a = -(2 ^ (widthOf x.o - 1)))
    (hb : intOf (widthOf x.o) false v.b = -1) :
    divBody x v s = writeD x (sxOf (widthOf x.o) (-(2 ^ (widthOf x.o - 1)))) s := by
  rw [divBody, if_neg (not_zeroB_of_neg_one hb), onW_eq, hu, setWidth_eq_intMin ha, setWidth_eq_neg_one hb, sxOf_eq,
    ← BitVec.intMin_eq_neg_two_pow]
  exact congrArg (fun q => writeD x (BitVec.signExtend 64 q) s) BitVec.intMin_sdiv_neg_one

/-- R73: the remainder by -1 is 0, also of the most negative number. -/
theorem remBody_neg_one (hu : unsOf x.o = false) (hb : intOf (widthOf x.o) false v.b = -1) : remBody x v s = writeD x 0 s := by
  rw [remBody, if_neg (not_zeroB_of_neg_one hb), onW_eq, hu, remW]
  have hdvd : (v.b.setWidth (widthOf x.o)).toInt ∣ (v.a.setWidth (widthOf x.o)).toInt := by
    rw [← intOf_signed (x := v.b), hb]
    exact neg_dvd.mpr (one_dvd _)
  simp [BitVec.srem_zero_of_dvd hdvd, BitVec.signExtend]

end

/-! ### Fields of fn that a row does not define -/

/-- A set bit outside the mask is refused (R54). -/
theorem only_eq_false {fn mask n : Nat} (hf : fn.testBit n = true) (hm : mask.testBit n = false) : only fn mask = false := by
  rw [only, decide_eq_false_iff_not]
  intro h
  have := congrArg (Nat.testBit · n) h
  simp [hf, hm] at this

/-- The codes 8 to 15 of a four-bit field have its top bit set. -/
theorem testBit_of_fld {fn lo : Nat} (h : 8 ≤ fld fn lo 4) : fn.testBit (lo + 3) = true := by
  rw [← Nat.testBit_shiftRight, Nat.testBit_eq_decide_div_mod_eq, decide_eq_true_iff]
  rw [fld] at h
  omega

/-! ### The instructions -/

section
variable {i : Instr} {s t : State} {v : Vals}

theorem bodyOf_cmp (hi : (∃ o, i = .cmp o) ∨ (∃ k, i = .cmpCompact k)) :
    ofSlot i = true ∧ pairOf i = .inner ∧ bodyOf i = cmpBody := by
  obtain ⟨o, rfl⟩ | ⟨k, rfl⟩ := hi <;> exact ⟨rfl, rfl, rfl⟩

theorem bodyOf_div (hi : (∃ o, i = .div o) ∨ (∃ k, i = .divCompact k)) :
    ofSlot i = true ∧ pairOf i = .inner ∧ bodyOf i = divBody := by
  obtain ⟨o, rfl⟩ | ⟨k, rfl⟩ := hi <;> exact ⟨rfl, rfl, rfl⟩

theorem bodyOf_rem (hi : (∃ o, i = .rem o) ∨ (∃ k, i = .remCompact k)) :
    ofSlot i = true ∧ pairOf i = .inner ∧ bodyOf i = remBody := by
  obtain ⟨o, rfl⟩ | ⟨k, rfl⟩ := hi <;> exact ⟨rfl, rfl, rfl⟩

theorem exec_cmp (hi : (∃ o, i = .cmp o) ∨ (∃ k, i = .cmpCompact k)) (h : Issues i s v t) :
    exec i s = .next (t.storedP (ctxOf i s) (condW (unsOf (opndOfInstr i)) (fld (opndOfInstr i).fn.toNat 2 4)
      (v.a.setWidth (widthOf (opndOfInstr i))) (v.b.setWidth (widthOf (opndOfInstr i))))) := by
  obtain ⟨ho, hp, hbody⟩ := bodyOf_cmp hi
  refine exec_issues_ok ho h (.inl hp) ?_
  rw [hbody, cmpBody_eq]
  rfl

/-- R73: `div` and `rem` share the check of the divisor. -/
theorem exec_zero_divisor (hi : ((∃ o, i = .div o) ∨ (∃ k, i = .divCompact k)) ∨ ((∃ o, i = .rem o) ∨ (∃ k, i = .remCompact k)))
    (hz : zeroB (ctxOf i s) v = true) (h : Issues i s v t) :
    exec i s = .next ((s.rewound t).takeTrap s.cur.1 s.cur.2 ⟨6, 0, 0⟩) := by
  obtain hi | hi := hi
  · obtain ⟨ho, hp, hbody⟩ := bodyOf_div hi
    exact exec_issues_trap ho h (.inl hp) (by rw [hbody, divBody_zero hz]) (by decide)
  · obtain ⟨ho, hp, hbody⟩ := bodyOf_rem hi
    exact exec_issues_trap ho h (.inl hp) (by rw [hbody, remBody_zero hz]) (by decide)

end

/-- R72: the row of `cmp` defines fn[4:0], so a code of 8 or more, which sets fn[5], is no instruction. -/
theorem rowOf_cmp_undefined {fn : Nat} (h : 8 ≤ fld fn 2 4) : rowOf 0x16 fn = none := by
  have hrow : rowsInt 0x16 fn = none := by
    rw [rowsInt, only_eq_false (testBit_of_fld h) (by decide)]
    rfl
  simpa [rowOf] using hrow

/-! ### The obligations -/

/-- Settles O3: `cmp` computes on W bits the condition of R72's table, and a code of 8 or more is not defined in its
row. -/
theorem integerCompare : Obligations.IntegerCompare := by
  unfold Obligations.IntegerCompare
  refine ⟨?_, fun o h => ?_⟩
  · intro i s t v b hi o W u cond hc hb his
    have hcond : b = condW u cond (v.a.setWidth W) (v.b.setWidth W) := Bool.eq_iff_iff.mpr (hb.trans (condW_iff hc).symm)
    rw [exec_cmp hi his, hcond]
  · simp [illegalSub, assigned, rowOf_cmp_undefined h]

/-- Settles O4: with B zero on W bits the bodies of `div` and `rem` end in the trap; -1 is no such B, and the quotient
of the most negative number by it and the remainder are those of two's complement. -/
theorem divisionCorners : Obligations.DivisionCorners := by
  unfold Obligations.DivisionCorners
  refine ⟨?_, ?_⟩
  · intro i s t v hi hz his
    refine exec_zero_divisor ?_ (zeroB_iff.mpr (setWidth_eq_zero_iff.mpr hz)) his
    obtain ⟨o, rfl | rfl⟩ | ⟨k, rfl | rfl⟩ := hi
    · exact .inl (.inl ⟨o, rfl⟩)
    · exact .inr (.inl ⟨o, rfl⟩)
    · exact .inl (.inr ⟨k, rfl⟩)
    · exact .inr (.inr ⟨k, rfl⟩)
  · intro i s t v W least hu ha hb his
    refine ⟨fun hi hd => ?_, fun hi hd => ?_⟩
    · obtain ⟨ho, hp, hbody⟩ := bodyOf_div hi
      refine exec_issues_ok ho his (.inl hp) ?_
      rw [hbody, divBody_least (x := ctxOf i s) hu ha hb]
      exact writeD_takes hd
    · obtain ⟨ho, hp, hbody⟩ := bodyOf_rem hi
      refine exec_issues_ok ho his (.inl hp) ?_
      rw [hbody, remBody_neg_one (x := ctxOf i s) hu hb]
      exact writeD_takes hd

end Sys2Proof.Machine
end
